-- ==== Sys2Proof/Word.lean ====
section
/-! DEFINITION. The byte of the module line and of retained memory, and the plainest whole-number arithmetic
("Conventions" of spec/00_scope.md: a division rounds down unless ceil( ) is written, in which case it rounds up). -/

namespace Sys2Proof

/-- One byte of a frame or of a retained record (R174, R201). -/
abbrev Byte := BitVec 8

/-- `ceil(a / b)` of spec/00_scope.md, "Units". -/
def ceilDiv (a b : Nat) : Nat := (a + b - 1) / b

end Sys2Proof
end

