-- ==== Sys2Proof/Syntax.lean ====
section
/-! DEFINITION. The commands of the controller: one constructor for each row of spec/opcode_table.json, in the table's
order. The table gives the rows no fields, so the operands are the ones the rules of each row read (log entry 1). -/

namespace Sys2Proof

/-- The two lifts, and with them the two outputs of the ribbon pacer (R90, R91). -/
inductive Lift where
  | ribbon
  | tape
deriving DecidableEq, Repr

/-- The stepping pacers (R88 to R90). -/
inductive Pacer where
  | wheel
  | feed
  | ribbon
deriving DecidableEq, Repr

/-- The three deadline timers (R92). -/
inductive Deadline where
  | carriage
  | wheel
  | homing
deriving DecidableEq, Repr

/-- Where a save stands when the loss of power or the restart pin cuts it short: in the write of a record, or before the next record
(R201, R203, R204). -/
inductive SavePoint where
  /-- The settings record is not begun. -/
  | settingsNext
  | settingsRecord
  /-- The settings record is whole, and the saved line not begun. -/
  | lineNext
  | savedLine
  /-- The saved line is whole, and the saved mark not begun. -/
  | markNext
  | savedMark
deriving DecidableEq, Repr

/-- A command: an event that changes the state of the controller, one constructor for each row of the table. -/
inductive Instr where
  /-- POWER_ON (R205). -/
  | powerOn
  /-- RESTART_ASSERT (R209). `point` says how far a save under way has come at that moment (R204). -/
  | restartAssert (point : SavePoint)
  /-- RESTART_RELEASE (R209). -/
  | restartRelease
  /-- KEY_FRAME (R162). `value` and `flags` are the two payload bytes of Table 11-3. -/
  | keyFrame (value flags : Byte)
  /-- CLEAR (R168). -/
  | clear
  /-- TEXT_FRAME (R163). `codes` is the payload. -/
  | textFrame (codes : List Byte)
  /-- SETTING_FRAME (R164). `item` is payload byte 0 of Table 11-3, and `value` payload bytes 1 and 2 in the order of the payload. -/
  | settingFrame (item : Byte) (value : Byte × Byte)
  /-- HERE (R190). `sender` is the station number of the frame, `cls` and `variant` its payload. -/
  | here (sender : Nat) (cls variant : Byte)
  /-- SUPPLY (R195). `report` is the payload byte; `time` is the reading of the time base (µs) at the frame end. -/
  | supply (report : Byte) (time : Nat)
  /-- POWER_FAILING (R202). `time` is the reading of the time base (µs) at the frame end. -/
  | powerFailing (time : Nat)
  /-- SAVE_COMPLETE (R203). -/
  | saveComplete
  /-- WORD_ANSWER (R129). The two payload bytes. -/
  | wordAnswer (tag verdict : Byte)
  /-- FRAME_SENT (R179). `stateFirst` says whether an owed STATE or a waiting query reaches the freed place first, which R185 leaves open. -/
  | frameSent (stateFirst : Bool)
  /-- LINE_ID_CLASH (R179). -/
  | lineIdClash
  /-- FRAME_DROPPED (R178). `bytes` is the whole frame, header and check byte included. -/
  | frameDropped (bytes : List Byte)
  /-- CODING_ERROR (R175). `heard` is the list of intervals between successive changes since the start cell began, in the 0.125 µs of the capture (R175). -/
  | codingError (heard : List Nat)
  /-- LINE_STUCK (R177). -/
  | lineStuck
  /-- LINE_RELEASED (R177). -/
  | lineReleased
  /-- BEGIN_TRANSMISSION (R181). `quiet` is the time in µs that the line has been quiet since the last frame end. -/
  | beginTransmission (quiet : Nat)
  /-- ARBITRATION_LOSS (R182). `stateFirst` as for FRAME_SENT. -/
  | arbitrationLoss (stateFirst : Bool)
  /-- COLLECTION_WINDOW_END (R189). -/
  | collectionWindowEnd
  /-- NEXT_ROLL_CALL (R189). -/
  | nextRollCall
  /-- POWER_SILENCE_EXPIRY (R192). -/
  | powerSilenceExpiry
  /-- CHAR (R15). -/
  | char
  /-- SPACE (R17). -/
  | space
  /-- BACKSPACE (R17). -/
  | backspace
  /-- RETURN (R20). -/
  | carriageReturn
  /-- TAB (R17). -/
  | tab
  /-- INDEX (R18). -/
  | index
  /-- REVERSE_INDEX (R18). -/
  | reverseIndex
  /-- HALF_UP (R18). -/
  | halfUp
  /-- HALF_DOWN (R18). -/
  | halfDown
  /-- CORRECT (R99). -/
  | correct
  /-- WORD_CORRECT (R100). -/
  | wordCorrect
  /-- LINE_CORRECT (R101). -/
  | lineCorrect
  /-- RELOCATE (R102). -/
  | relocate
  /-- TAB_SET (R7). -/
  | tabSet
  /-- TAB_CLEAR (R7). -/
  | tabClear
  /-- TAB_CLEAR_ALL (R7). -/
  | tabClearAll
  /-- LM_SET (R21). -/
  | lmSet
  /-- RM_SET (R21). -/
  | rmSet
  /-- MARGIN_RELEASE (R6). -/
  | marginRelease
  /-- PITCH (R21). -/
  | pitch
  /-- SPACING (R21). -/
  | spacing
  /-- IMPRESSION (R21). -/
  | impression
  /-- MODE (R19). -/
  | mode
  /-- UNDERLINE (R21). -/
  | underline
  /-- BOLD (R21). -/
  | bold
  /-- CENTER (R22). -/
  | center
  /-- FLUSH_RIGHT (R22). -/
  | flushRight
  /-- DECIMAL_TAB (R22). -/
  | decimalTab
  /-- JUSTIFY (R21). -/
  | justify
  /-- SPELL (R21). -/
  | spell
  /-- ADD_WORD (R136). -/
  | addWord
  /-- DELETE_WORD (R137). -/
  | deleteWord
  /-- ACTION_RESUME (R12). -/
  | actionResume
  /-- HELD_RUN_FEED (R25). -/
  | heldRunFeed
  /-- PRINT_LINE_FEED (R28). -/
  | printLineFeed
  /-- LOOKUP_END (R123). -/
  | lookupEnd
  /-- QUERY_TIMEOUT (R130). `tag` names the query whose timer expires. -/
  | queryTimeout (tag : Nat)
  /-- WAIT_LIST_TIMEOUT (R128). -/
  | waitListTimeout
  /-- LIST_WRITE_END (R138). -/
  | listWriteEnd
  /-- TAPE_APPEND (R106). -/
  | tapeAppend
  /-- CORRECTION_CLOSING (R109). -/
  | correctionClosing
  /-- CARRIAGE_BRAKE_END (R83). -/
  | carriageBrakeEnd
  /-- ENCODER_EDGE (R82). `interval` is the time in µs since the previous edge, or since the start of the drive phase for its first edge (R86). -/
  | encoderEdge (rightward : Bool) (interval : Nat)
  /-- PWM_PERIOD_START (R79). -/
  | pwmPeriodStart
  /-- CARRIAGE_STALL (R87). -/
  | carriageStall
  /-- HOME_SENSOR_TRIP (R84). -/
  | homeSensorTrip
  /-- WHEEL_MOVE_ENDED (R88). -/
  | wheelMoveEnded
  /-- WHEEL_HOME_FOUND (R69). -/
  | wheelHomeFound
  /-- FLAG_NOT_FOUND (R89). -/
  | flagNotFound
  /-- FEED_ENDED (R90). -/
  | feedEnded
  /-- ADVANCE_ENDED (R90). -/
  | advanceEnded
  /-- LIFT_DRAWN (R91). `time` is the reading of the time base (µs). -/
  | liftDrawn (lift : Lift) (time : Nat)
  /-- STRIKE_INTERVAL_END (R62). -/
  | strikeIntervalEnd
  /-- PULSE_END (R78). -/
  | pulseEnd
  /-- SETTLE_END (R78). -/
  | settleEnd
  /-- DEADLINE_EXPIRY (R93). `timer` is the deadline timer that expires. -/
  | deadlineExpiry (timer : Deadline)
  /-- COVER_OPEN (R57). -/
  | coverOpen
  /-- COVER_CLOSED (R57). -/
  | coverClosed
  /-- RIBBON_SPENT (R58). -/
  | ribbonSpent
  /-- RIBBON_PRESENT (R58). -/
  | ribbonPresent
  /-- TAPE_END_REPORT (R58). `spent` is what the sensor reports. -/
  | tapeEndReport (spent : Bool)
  /-- SAG_TIMER_EXPIRY (R196). -/
  | sagTimerExpiry
  /-- DECAY_TIMER_EXPIRY (R199). -/
  | decayTimerExpiry
  /-- FRAME_START (R140). -/
  | frameStart
  /-- COMPOSITION_END (R147). -/
  | compositionEnd
  /-- START_CELL (R176). -/
  | startCell
  /-- HUNT_FRAME_END (R175). -/
  | huntFrameEnd
  /-- PWM_ON_PHASE_END (R79). -/
  | pwmOnPhaseEnd
  /-- STEP_INTERVAL_END (R88). `flag` and `codeBit` are the wheel flag and the code track, read in a wheel home search alone. -/
  | stepIntervalEnd (pacer : Pacer) (flag codeBit : Bool)
  /-- POWER_LOSS (R201). `point` says how far a save under way has come at that moment (R203). -/
  | powerLoss (point : SavePoint)
deriving DecidableEq, Repr

end Sys2Proof
end

