-- ==== Sys2Proof/Decode.lean ====
section
/-! DEFINITION. The decoder of table words. Every row of spec/opcode_table.json has an empty list of fields and no
bits: a command of this block is an event and no word spells one, so no word is decoded (log entry 1). -/

namespace Sys2Proof

/-- The command that a word spells by the table's bits: none, as no row gives bits. -/
def decodeTableWord (_nbits _w : Nat) : Option Instr := none

end Sys2Proof
end

