-- ==== Sys2Proof/Config.lean ====
section
/-! DEFINITION. What the spec leaves open: the petals and classes of the wheel tables in ROM (R70), the stems of the internal
list in ROM and their flags (R124), and the moment at which a lookup passes the user word list (R123). Each is a constant with no body, so that a
claim about them holds whatever they are (log entries 6, 7 and 25). -/

namespace Sys2Proof.Config

/-- The flags of a stem (R124). -/
structure EndingFlags where
  poss : Bool
  s : Bool
  ed : Bool
  ing : Bool
  ly : Bool
  er : Bool
deriving DecidableEq, Repr, Inhabited

/-- What the arrangement of the petals of a wheel is made of (R70): the petal that is exchanged with petal `place`. The exchanges of
places 0 to 95 in turn make any arrangement of the 96 petals for some choice of these petals. -/
opaque petalSwap (wheel place : Nat) : Fin 96

/-- The width class, less 1, of that petal on a proportional wheel (R70). -/
opaque widthClassLess1 (wheel char : Nat) : Fin 5

/-- The impression class, less 1, of that petal (R70). -/
opaque impressionClassLess1 (wheel char : Nat) : Fin 5

/-- The lookup of a word record passes the user word list before a word is taken out of the list during the lookup: R123 gives the
lookup 1 ms and leaves the moment open. -/
opaque lookupEarly (record : Nat) : Bool

/-- What the choice of the stems of the internal list is made of (R124): how many words are passed over before its stem `place`, in
the order of the words by their numbers. The 20,473 stems so chosen are any 20,473 words for some choice of these gaps. -/
opaque stemGap (place : Nat) : Nat

/-- The flags of the stem at a place of the internal stem list (R124). -/
opaque stemFlags (place : Nat) : EndingFlags

end Sys2Proof.Config
end

