-- ==== Sys2Proof/Machine/State.lean ====
section
/-! DEFINITION. The state of the controller: every piece of state that the chapters give its blocks, the records
in it, the reset state, and the reasons a step could stop. All of it is plain data. -/

namespace Sys2Proof.Machine

/-! ## Settings (R5 to R10) -/

/-- The pitch (R8). -/
inductive Pitch where
  | p10
  | p12
  | p15
  | ps
deriving DecidableEq, Repr

/-- The impression (R9). -/
inductive Impression where
  | light
  | normal
  | heavy
deriving DecidableEq, Repr

/-- The typing mode (R9, R19). -/
inductive Mode where
  | direct
  | line
deriving DecidableEq, Repr

/-- The spell setting (R9, R139). -/
inductive SpellSetting where
  | off
  | check
  | checkStop
deriving DecidableEq, Repr

/-- The settings of Table 1-3. -/
structure Settings where
  lm : Nat
  rm : Nat
  tabs : List Nat
  pitch : Pitch
  spacing : Nat
  impression : Impression
  mode : Mode
  justify : Bool
  spell : SpellSetting
  underline : Bool
  bold : Bool
  marginRelease : Bool
  /-- The current rise in half-lines, −2 to +2 (R9). -/
  rise : Int
deriving DecidableEq, Repr

/-! ## Line records (R1 to R4) -/

/-- The kind of an entry (Table 1-1). -/
inductive EntryKind where
  | character
  | underscore
  | bold
deriving DecidableEq, Repr

/-- The state of an entry (R4). -/
inductive EntryState where
  | pending
  | queued
  | printed
  | lifting
deriving DecidableEq, Repr

/-- The spell mark of an entry (R132). -/
inductive SpellMark where
  | plain
  | unknown
  | unchecked
deriving DecidableEq, Repr

/-- One entry of a line record (Table 1-1). `id` is the model's own name for the entry, by which ops, owners, word
records and the correction list refer to it (log entry 2). -/
structure Entry where
  id : Nat
  pos : Nat
  width : Nat
  offset : Nat
  char : Nat
  kind : EntryKind
  owner : Option Nat
  rise : Int
  state : EntryState
  wheel : Option Nat
  mark : SpellMark
  order : Nat
deriving DecidableEq, Repr

/-- A line record: its entries in position order and its order counter (R1, R2). -/
structure LineRecord where
  entries : List Entry
  counter : Nat
deriving DecidableEq, Repr

/-- The print line with what a dispatch fixes for it (R27, R28): its return feed, the impression in force at the
dispatch (R9), and whether its RETURN op has been appended. -/
structure PrintLine where
  record : LineRecord
  returnFeed : Int
  impression : Impression
  returnAppended : Bool
deriving DecidableEq, Repr

/-! ## Actions (R161) -/

/-- The kinds of action of Table 8-3, and CHAR. -/
inductive ActionKind where
  | char
  | space
  | backspace
  | carriageReturn
  | tab
  | index
  | reverseIndex
  | halfUp
  | halfDown
  | correct
  | wordCorrect
  | lineCorrect
  | relocate
  | tabSet
  | tabClear
  | tabClearAll
  | lmSet
  | rmSet
  | marginRelease
  | pitch
  | spacing
  | impression
  | mode
  | underline
  | bold
  | center
  | flushRight
  | decimalTab
  | justify
  | spell
  | addWord
  | deleteWord
deriving DecidableEq, Repr

/-- Where an action came from (R161). -/
inductive Source where
  | keyboard
  | interface
deriving DecidableEq, Repr

/-- An action record of the key queue (Table 8-2). -/
structure Action where
  kind : ActionKind
  code : Nat
  source : Source
  repeated : Bool
  value : Option Nat
deriving DecidableEq, Repr

/-! ## The text unit -/

/-- The kind of a held run (R22). -/
inductive RunKind where
  | center
  | flush
  | decimal
deriving DecidableEq, Repr

/-- A held run that stands (R22, R23): `origin` is the start pp for CENTER and FLUSH and the tab T for DECIMAL;
`members` names the run's CHARACTER entries. -/
structure HeldRun where
  kind : RunKind
  startPp : Nat
  origin : Nat
  members : List Nat
deriving DecidableEq, Repr

/-- The waiting reasons of Table 1-5. QUEUE_ROOM is either `queueRoom` with the slots that must be free (R11), or
`runFeeding` while an ended run feeds its ops (R25). -/
inductive Waiting where
  | queueRoom (slots : Nat)
  | runFeeding
  | printLineBusy
  | verdicts
  | correction
deriving DecidableEq, Repr

/-- Where a continuing action goes on (R12): handled afresh (R18, R19), at case 1 of the wrap (R26, R42), after the run it ended
(R25), nowhere, for the run's own action that ended it (R25), at the dispatch (R27), or after the verdicts of spell-stop
(R133). -/
inductive ResumeStage where
  | afresh
  | wrap
  | afterRun
  | ownRun
  | dispatch
  | verdicts
deriving DecidableEq, Repr

/-- An action taken earlier that continues when its wait ends (R12). -/
structure Resume where
  action : Action
  stage : ResumeStage
deriving DecidableEq, Repr

/-- The state of the text unit (Chapter 1). -/
structure TextUnit where
  work : LineRecord
  print : Option PrintLine
  settings : Settings
  pp : Nat
  run : Option HeldRun
  /-- The entries of an ended run that have still to be appended, in order (R25). -/
  feeding : List Nat
  waiting : Option Waiting
  resume : Option Resume
  bellGiven : Bool
  armed : Bool
  /-- The previous wheel code of R8, which is also the wheel code of the settings record (R10). -/
  previousWheel : Option Nat
deriving DecidableEq, Repr

/-! ## The intake unit (R159) -/

/-- The intake state. -/
inductive IntakeState where
  | closed
  | opened
  | down
deriving DecidableEq, Repr

/-- The state of the intake unit (Table 8-1). -/
structure Intake where
  state : IntakeState
  queue : List Action
  hold : Bool
  /-- The drop run: true is SOUNDED. -/
  dropSounded : Bool
  decimal : Nat
deriving DecidableEq, Repr

/-! ## The print engine (R51 to R54) -/

/-- The kind of an op. -/
inductive OpKind where
  | strike
  | feed
  | carriageReturn
deriving DecidableEq, Repr

/-- Who appended an op. -/
inductive Origin where
  | text
  | correction
deriving DecidableEq, Repr

/-- An op of the strike queue (Table 3-1). `medium` is the lift it draws: RIBBON or TAPE. -/
structure Op where
  kind : OpKind
  target : Nat
  char : Nat
  impression : Impression
  medium : Lift
  advance : Nat
  feed : Int
  rise : Int
  ref : Option Nat
  origin : Origin
deriving DecidableEq, Repr

/-- The engine states of Table 3-2. -/
inductive EngineState where
  | parked
  | homing
  | ready
  | held
  | running
  | halted
  | locked
  | down
deriving DecidableEq, Repr

/-- The hold reasons (R56). -/
inductive HoldReason where
  | cover
  | ribbon
  | wheel
  | low
  | heat
deriving DecidableEq, Repr

/-- The set of hold reasons that stand. -/
structure Holds where
  cover : Bool
  ribbon : Bool
  wheel : Bool
  low : Bool
  heat : Bool
deriving DecidableEq, Repr

/-- The fault code (R54). -/
inductive FaultCode where
  | clear
  | carriageStall
  | wheelLost
deriving DecidableEq, Repr

/-- The heat region (R200). -/
inductive Region where
  | cool
  | warm
  | hot
deriving DecidableEq, Repr

/-- The point an op in progress has reached: for a STRIKE the steps of R62 and R63, for a FEED its feed, for a RETURN
its two motions (R65). The flags say which motions have been requested and have not ended. -/
inductive Stage where
  | moves (carriage wheel : Bool)
  | carriageFirst
  | rise
  | lift
  | interval
  | pulse
  | settle
  | advance
  | feeding
  | returning (carriage feed : Bool)
  | returnCarriageFirst
deriving DecidableEq, Repr

/-- What the engine fixes when an op begins (R55), and the point the op has reached. -/
structure Progress where
  level : Nat
  region : Region
  petal : Nat
  width : Nat
  stage : Stage
deriving DecidableEq, Repr

/-- What began a homing (R68). -/
inductive HomingKind where
  | start
  | clear
  | wheelOnly
deriving DecidableEq, Repr

/-- The phase of a homing: waiting to begin its carriage phase or its wheel phase, the 30-unit move, the carriage
search, the wheel search (R68, R69). -/
inductive HomingPhase where
  | carriageDue
  | clearing
  | searching
  | wheelDue
  | wheelSearch
deriving DecidableEq, Repr

/-- A homing in progress. -/
structure Homing where
  kind : HomingKind
  phase : HomingPhase
  /-- The cover opened during this homing, and it waits to begin again (R71). -/
  interrupted : Bool := false
deriving DecidableEq, Repr

/-- The state of the print engine (R51, R54). -/
structure Engine where
  state : EngineState
  slots : List Op
  head : Option Op
  /-- Present while the op in the head place is in progress; absent for a put-back op (R51). -/
  progress : Option Progress
  carriage : Option Int
  petal : Option Nat
  paperRise : Int
  wheel : Option Nat
  holds : Holds
  fault : FaultCode
  /-- The time base (µs) at the start of the last hammer pulse. -/
  lastPulse : Option Nat
  rehome : Bool
  homing : Option Homing
  /-- The last tape-end report: true is spent (R58). -/
  tapeSpent : Bool
  /-- A rest move is in progress (R67). -/
  restMove : Bool
  /-- Start homing has ended (R11). -/
  startHomed : Bool
  /-- A RETURN op's feed was left running by a fault (R72). -/
  lateFeed : Bool
deriving DecidableEq, Repr

/-! ## The drive channels (Chapter 4) -/

/-- The hammer channel: IDLE, or ACTIVE in a pulse of a width in µs or in its settle (R78). -/
inductive Hammer where
  | idle
  | pulse (width : Nat)
  | settle
deriving DecidableEq, Repr

/-- The kinds of carriage move (R80, R84). -/
inductive MoveKind where
  | toPosition
  | signed
  | search
deriving DecidableEq, Repr

/-- The leg of a move: the profiled drive phase, a trim or the corrective move (R83). -/
inductive Leg where
  | profile
  | trim
  | corrective
deriving DecidableEq, Repr

/-- A carriage move: its target as a count, its cruise speed, its present direction, `travelled` (R80), its leg, and
whether its first overshoot has been made (R83). -/
structure CarriageMove where
  kind : MoveKind
  target : Int
  cruise : Nat
  rightward : Bool
  travelled : Int
  leg : Leg
  overshot : Bool
deriving DecidableEq, Repr

/-- What the channel does at the end of a brake, once it has released the windings: the check of R83, the report of a stall
(R87), or nothing after a stop (R85). -/
inductive AfterBrake where
  | check
  | stall
  | silent
deriving DecidableEq, Repr

/-- The carriage channel: IDLE, driving, or braking with what follows the brake (R80, R85, R87). -/
inductive CarriagePhase where
  | idle
  | drive
  | brake (after : AfterBrake)
deriving DecidableEq, Repr

/-- The state of the carriage channel (R79 to R87). -/
structure Carriage where
  phase : CarriagePhase
  move : Option CarriageMove
  /-- The duty in force, in 64ths. -/
  duty : Nat
  /-- The target period P in µs (R81). -/
  period : Int
  /-- The stall time that is running, in µs (R87). -/
  watch : Nat
  /-- The signed encoder count (R86). -/
  count : Int
  /-- The last captured interval I in µs (R86). -/
  capture : Nat
  /-- The duty loaded at the last period start, and whether the on-phase is on (R79). -/
  loaded : Nat
  onPhase : Bool
deriving DecidableEq, Repr

/-- The wheel pacer (R88, R89): IDLE, a move with its direction, petals, cruise speed and steps issued, or a home
search with the steps issued and the code bits of the flag steps read, first bit first. -/
inductive WheelPacer where
  | idle
  | moving (forward : Bool) (petals cruise issued : Nat)
  | searching (issued : Nat) (bits : List Bool)
deriving DecidableEq, Repr

/-- The feed pacer (R90): a feed with its direction, the steps it takes and the steps issued. -/
inductive FeedPacer where
  | idle
  | feeding (forward : Bool) (steps issued : Nat)
deriving DecidableEq, Repr

/-- The ribbon pacer (R90): an advance of the ribbon or of the tape. -/
inductive RibbonPacer where
  | idle
  | advancing (output : Lift) (steps issued : Nat)
deriving DecidableEq, Repr

/-- A lift driver (R91). -/
inductive LiftState where
  | released
  | pulling
  | drawn
deriving DecidableEq, Repr

/-- The state of the drive channels. A deadline timer that is running holds its length in ms (R92). -/
structure Drive where
  hammer : Hammer
  carriage : Carriage
  wheel : WheelPacer
  feed : FeedPacer
  ribbon : RibbonPacer
  ribbonLift : LiftState
  tapeLift : LiftState
  /-- A release asked for during a hammer pulse, to be carried out at its end (R91). -/
  releaseDue : Bool
  carriageDeadline : Option Nat
  wheelDeadline : Option Nat
  homingDeadline : Option Nat
deriving DecidableEq, Repr

/-! ## The correction unit (R95 to R97) -/

/-- The status of an item (Table 5-1). -/
inductive ItemStatus where
  | fresh
  | awaitStrike
  | appending
  | inQueue
deriving DecidableEq, Repr

/-- An item of the correction list: its owner and its status. Its members are the owner and the companions that still
stand in the working line (R96). -/
structure Item where
  owner : Nat
  status : ItemStatus
deriving DecidableEq, Repr

/-- The state of the correction unit; `closingFeeds` counts the restoring feeds that have not completed (R109). -/
structure Correction where
  lifting : Bool
  items : List Item
  tapeMark : Bool
  closingMark : Bool
  closingFeeds : Nat
deriving DecidableEq, Repr

/-! ## The spelling unit (Chapter 6) -/

/-- Which line a word record belongs to (Table 6-1). -/
inductive WhichLine where
  | working
  | print
deriving DecidableEq, Repr

/-- The state of a word record (Table 6-1). -/
inductive WordState where
  | looking
  | waiting
  | asking
  | known
  | unknown
  | unchecked
deriving DecidableEq, Repr

/-- A word record (Table 6-1); `id` is the model's own name for it. -/
structure WordRecord where
  id : Nat
  tag : Option Nat
  line : WhichLine
  entries : List Nat
  letters : List Nat
  state : WordState
deriving DecidableEq, Repr

/-- A query of the outstanding table; an orphan has no record (R121). Its 200 ms timer runs as long as it is there. -/
structure Query where
  tag : Nat
  record : Option Nat
deriving DecidableEq, Repr

/-- The lookup under way (R121, R123): its record, absent once the record has been dropped or made KNOWN, so that the result is
discarded; and whether the user word list held its word when the lookup began. -/
structure Lookup where
  record : Option Nat
  listed : Bool
deriving DecidableEq, Repr

/-- The state of the spelling unit. `records` is the recent words list, oldest first; its LOOKING records in that
order are the lookup order (R123). -/
structure Spelling where
  records : List WordRecord
  nextRecord : Nat
  /-- The lookup under way, if any; there is at most one (R123). -/
  lookup : Option Lookup
  waitList : List Nat
  outstanding : List Query
  tagCounter : Nat
  timeoutRun : Nat
  userList : List (List Nat)
  /-- The write of the user word list under way, with the bytes it writes (R138). -/
  writing : Option (List Byte)
  writePending : Bool
deriving DecidableEq, Repr

/-! ## The display unit (Chapter 7) -/

/-- The messages of Table 7-2. -/
inductive Message where
  | start
  | stall
  | wheel
  | ribbon
  | cover
  | locked
  | cool
  | low
  | line
  | noKeyboard
  | tape
  | char
  | listFull
  | checkWord
  | justLimit
  | restored
  | listLost
  | lineId
deriving DecidableEq, Repr

/-- One glass cell of an image (R145). `inverted` is set under a drawn BLOCK cursor (R151). -/
structure GlassCell where
  glyph : Option Nat
  underline : Bool
  flash : Bool
  inverted : Bool
deriving DecidableEq, Repr

/-- The shape of the cursor (R145). -/
inductive CursorShape where
  | under
  | block
deriving DecidableEq, Repr

/-- The manner of the cursor (R145). -/
inductive CursorManner where
  | blink
  | steady
deriving DecidableEq, Repr

/-- The cursor record (R145). -/
structure CursorRecord where
  cell : Nat
  shape : CursorShape
  manner : CursorManner
deriving DecidableEq, Repr

/-- An image: 40 cells, the 16 indicators in the order of Table 7-1 as lit or dark, and the cursor record (R145). -/
structure Image where
  cells : List GlassCell
  indicators : List Bool
  cursor : Option CursorRecord
deriving DecidableEq, Repr

/-- The two image buffers. -/
inductive Side where
  | a
  | b
deriving DecidableEq, Repr

/-- The composer (R147); a composition in progress holds the image it makes from its reading. -/
inductive Composer where
  | idle
  | composing (image : Image)
  | done
deriving DecidableEq, Repr

/-- The phase of the showing cycle; a MESSAGE phase holds its latched message (R154). -/
inductive ShowPhase where
  | line
  | message (latched : Message)
deriving DecidableEq, Repr

/-- The state of the display unit. -/
structure Display where
  bufferA : Image
  bufferB : Image
  shown : Side
  dirty : Bool
  composer : Composer
  w0 : Nat
  frameCount : Nat
  /-- The blink phase: true is ODD (R150). -/
  blinkOdd : Bool
  phase : ShowPhase
  phaseCount : Nat
  /-- A MESSAGE phase begins at the next frame start whatever the count (R154). -/
  messageDue : Bool
  /-- The list has been empty at every moment since the last MESSAGE phase ended (R154). -/
  emptySince : Bool
  /-- The message list, front first (R152). -/
  messages : List Message
  /-- The standing faults, newest first (R152). -/
  standing : List Message
  /-- The showing cycle stands still, from entering DOWN until start (R158). -/
  stopped : Bool
deriving DecidableEq, Repr

/-! ## The supply and heat unit (R194) -/

/-- The source of the supply. -/
inductive PowerSource where
  | adapter
  | battery
deriving DecidableEq, Repr

/-- The power phase. The controller is DOWN in SAVING and SAVED. -/
inductive PowerPhase where
  | running
  | saving
  | saved
deriving DecidableEq, Repr

/-- The state of Table 10-1. A running sag timer is 10 s long; `saveBegun` says that the save has begun (R202). -/
structure Supply where
  source : Option PowerSource
  battery : Nat
  limit : Nat
  ceiling : Nat
  sagRunning : Bool
  low : Bool
  heat : Nat
  region : Region
  phase : PowerPhase
  lastFailing : Option Nat
  saveBegun : Bool
deriving DecidableEq, Repr

/-- The four records of retained memory, byte by byte (R201, R208). -/
structure Retained where
  settings : List Byte
  words : List Byte
  savedLine : List Byte
  savedMark : List Byte
deriving DecidableEq, Repr

/-! ## The line interface (Chapter 9) -/

/-- The receiver: hunting for a frame end, waiting for a start cell, or receiving a frame (R175, R176). -/
inductive Receiver where
  | hunting
  | waiting
  | receiving
deriving DecidableEq, Repr

/-- The sound patterns (Table 9-5). -/
inductive Sound where
  | click
  | bell
  | double
  | alarm
deriving DecidableEq, Repr

/-- A frame that the controller sends, with what is fixed when it joins (Table 9-5). -/
inductive TxKind where
  | rollCall
  | wordQuery (tag : Nat) (letters : List Nat) (addressee : Nat)
  | state
  | hold
  | release
  | sound (pattern : Sound) (addressee : Nat)
deriving DecidableEq, Repr

/-- A frame of the transmit queue: its joining stamp and its loss count (R183, R184). -/
structure TxFrame where
  kind : TxKind
  stamp : Nat
  losses : Nat
deriving DecidableEq, Repr

/-- The frame in transmission with the bytes made for it (R186, R206). -/
structure Sending where
  frame : TxFrame
  bytes : List Byte
deriving DecidableEq, Repr

/-- The classes of station that are rostered (R188). -/
inductive StationClass where
  | keyboard
  | power
  | cartridge
  | interface
deriving DecidableEq, Repr

/-- The status of a roster entry. -/
inductive StationStatus where
  | present
  | silent
deriving DecidableEq, Repr

/-- A roster entry (R188). -/
structure RosterEntry where
  number : Nat
  cls : StationClass
  variant : Byte
  status : StationStatus
deriving DecidableEq, Repr

/-- The state of the line interface. -/
structure LineInterface where
  station : Nat
  receiver : Receiver
  stuck : Bool
  places : List TxFrame
  flow : Option TxFrame
  stamp : Nat
  sending : Option Sending
  stateOwed : Bool
  roster : List RosterEntry
  rosterOpen : Bool
  callsMade : Nat
  /-- The frame end of the first ROLL_CALL has been recognised (R190). -/
  firstCallSent : Bool
  /-- A collection window is running (R189). -/
  window : Bool
  /-- The next ROLL_CALL is due 500 ms after the last call (R189). -/
  nextCallDue : Bool
  /-- The power silence timer is running (R192). -/
  silenceRunning : Bool
deriving DecidableEq, Repr

/-! ## Pins and power -/

/-- What the controller reads at its input pins (Table 11-7). -/
structure Pins where
  straps : Nat
  coverOpen : Bool
  ribbonSpent : Bool
  tapeSpent : Bool
  homeTripped : Bool
deriving DecidableEq, Repr

/-! ## The whole state -/

/-- The state of the controller, and the queue of the commands that wait. `clock` is the reading of the time base
(µs) at the latest command that carries one (log entry 3); `nextId` names the next entry (log entry 2). -/
structure State where
  pending : List Instr
  clock : Nat
  nextId : Nat
  powered : Bool
  restartHeld : Bool
  pins : Pins
  text : TextUnit
  intake : Intake
  engine : Engine
  drive : Drive
  corr : Correction
  spell : Spelling
  display : Display
  supply : Supply
  line : LineInterface
  retained : Retained
deriving DecidableEq, Repr

/-- The reasons a step could stop with a fault. There are none: no rule of the spec stops the controller, so no
meaning raises a fault (safe). -/
inductive Fault where
deriving DecidableEq, Repr

/-- The reasons a step could be refused. No arm of exec raises one: every command has its meaning (safe). -/
inductive Refusal where
  /-- Raised by an arm of exec for a command that has no meaning yet; safe. No arm raises it. -/
  | notModelled (mnemonic : String)
deriving DecidableEq, Repr

/-! ## The reset state -/

/-- The default settings of Table 1-3. -/
def Settings.defaults : Settings :=
  { lm := 120, rm := 1020, tabs := [], pitch := .p10, spacing := 2, impression := .normal, mode := .direct,
    justify := false, spell := .check, underline := false, bold := false, marginRelease := false, rise := 0 }

/-- An empty line record (R2). -/
def LineRecord.empty : LineRecord := { entries := [], counter := 0 }

/-- A blank image (R145). -/
def Image.blank : Image :=
  { cells := List.replicate 40 { glyph := none, underline := false, flash := false, inverted := false },
    indicators := List.replicate 16 false, cursor := none }

/-- Every block at its start values (R205), before the start sequence has run: the straps read 0, the sensors report
cover closed, ribbon present and tape present, and retained memory holds no valid record (log entries 4 and 5). R94 gives the
carriage channel no start value for its duties, its target period and its stall watch: they are 0 (log entry 49). -/
def State.reset : State where
  pending := []
  clock := 0
  nextId := 0
  powered := true
  restartHeld := false
  pins := { straps := 0, coverOpen := false, ribbonSpent := false, tapeSpent := false, homeTripped := false }
  text :=
    { work := .empty, print := none, settings := .defaults, pp := 120, run := none, feeding := [], waiting := none,
      resume := none, bellGiven := false, armed := false, previousWheel := none }
  intake := { state := .closed, queue := [], hold := false, dropSounded := false, decimal := 46 }
  engine :=
    { state := .parked, slots := [], head := none, progress := none, carriage := none, petal := none, paperRise := 0,
      wheel := none, holds := { cover := false, ribbon := false, wheel := false, low := false, heat := false },
      fault := .clear, lastPulse := none, rehome := false, homing := none, tapeSpent := false, restMove := false,
      startHomed := false, lateFeed := false }
  drive :=
    { hammer := .idle,
      carriage :=
        { phase := .idle, move := none, duty := 0, period := 0, watch := 0, count := 0, capture := 0, loaded := 0,
          onPhase := false },
      wheel := .idle, feed := .idle, ribbon := .idle, ribbonLift := .released, tapeLift := .released,
      releaseDue := false, carriageDeadline := none, wheelDeadline := none, homingDeadline := none }
  corr := { lifting := false, items := [], tapeMark := false, closingMark := false, closingFeeds := 0 }
  spell :=
    { records := [], nextRecord := 0, lookup := none, waitList := [], outstanding := [], tagCounter := 0, timeoutRun := 0,
      userList := [], writing := none, writePending := false }
  display :=
    { bufferA := .blank, bufferB := .blank, shown := .a, dirty := true, composer := .idle, w0 := 0, frameCount := 0,
      blinkOdd := false, phase := .line, phaseCount := 80, messageDue := false, emptySince := true, messages := [],
      standing := [], stopped := false }
  supply :=
    { source := none, battery := 0, limit := 2, ceiling := 2, sagRunning := false, low := false, heat := 0,
      region := .cool, phase := .running, lastFailing := none, saveBegun := false }
  line :=
    { station := 0, receiver := .hunting, stuck := false, places := [], flow := none, stamp := 0, sending := none,
      stateOwed := false, roster := [], rosterOpen := true, callsMade := 0, firstCallSent := false, window := false,
      nextCallDue := false, silenceRunning := false }
  retained := { settings := [], words := [], savedLine := [], savedMark := [] }

end Sys2Proof.Machine
end

