-- ==== Sys2Proof/Machine/Tables.lean ====
section
/-! DEFINITION. The wheel tables (R70), the pace tables (R60, Table 3-3) and the internal stem list (R124). -/

namespace Sys2Proof.Machine

/-! ## Wheel tables (R70, Table 3-4) -/

/-- A wheel code has a table when it is 0 to 11 (R69, R70). -/
def hasTable (code : Nat) : Bool := decide (code < 12)

/-- The native pitch of a wheel (Table 3-4); none for a code with no table (R8). -/
def nativePitch (code : Nat) : Option Pitch :=
  match code with
  | 0 | 1 | 7 => some .p10
  | 2 | 3 | 4 | 8 => some .p12
  | 5 | 6 => some .p15
  | 9 | 10 | 11 => some .ps
  | _ => none

/-- `lo ≤ c ≤ hi`. -/
def within (lo hi c : Nat) : Bool := decide (lo ≤ c) && decide (c ≤ hi)

/-- The wheel of a code bears a character (Table 3-4). -/
def bears (code c : Nat) : Bool :=
  match code with
  | 0 | 2 | 5 | 9 => within 33 126 c || within 128 129 c
  | 1 | 3 | 10 => within 33 126 c || within 130 131 c
  | 4 | 6 => within 33 126 c || within 132 133 c
  | 7 => within 33 94 c || within 96 126 c || within 134 136 c
  | 8 => within 33 63 c || within 91 95 c || within 123 126 c || within 128 159 c
  | 11 => within 33 126 c || within 134 135 c
  | _ => false

/-- A character is on the mounted wheel ("Character codes" of spec/00_scope.md; R31 where no wheel is mounted). -/
def onWheel (wheel : Option Nat) (c : Nat) : Bool :=
  match wheel with
  | some code => bears code c
  | none => false

/-- The mounted wheel is proportional (R8, R70): its native pitch is PS. -/
def proportional (wheel : Option Nat) : Bool :=
  match wheel with
  | some code => decide (nativePitch code = some .ps)
  | none => false

/-- The width class of the petal that bears a character: 3 on a fixed-pitch wheel (R70). -/
def widthClass (code c : Nat) : Nat :=
  if proportional (some code) then (Config.widthClassLess1 code c).val + 1 else 3

/-- The impression class of the petal that bears a character (R70). -/
def impressionClass (code c : Nat) : Nat := (Config.impressionClassLess1 code c).val + 1

/-- Which of the characters that a wheel bears a character is, counted from the smallest code. -/
def rank (code c : Nat) : Nat := ((List.range c).filter (bears code)).length

/-- Petals `a` and `b` exchanged: where petal `p` stands then. -/
def exchange (a b p : Nat) : Nat := if p = a then b else if p = b then a else p

/-- The petal of a place in the arrangement of a wheel's 96 petals, which is free but puts no two places on one petal (R70; log
entry 6). -/
def petalAt (code place : Nat) : Nat :=
  (List.range 96).foldl (fun p i => exchange i (Config.petalSwap code i).val p) place

/-- The petal of a character on the mounted wheel, if the wheel bears it (R61, R70). -/
def petalFor (wheel : Option Nat) (c : Nat) : Option Nat :=
  match wheel with
  | some code => if bears code c then some (petalAt code (rank code c)) else none
  | none => none

/-! ## Pace (Table 3-3) -/

/-- The carriage cruise speed in units/s. -/
def carriageCruise (level : Nat) : Nat :=
  match level with
  | 4 => 1200
  | 3 => 960
  | 2 => 960
  | _ => 600

/-- The wheel cruise speed in petals/s. -/
def wheelCruise (level : Nat) : Nat :=
  match level with
  | 4 => 480
  | 3 => 360
  | 2 => 360
  | _ => 240

/-- The carriage and the wheel may move together (R60, R62). -/
def overlap (level : Nat) : Bool := decide (3 ≤ level)

/-- The minimum strike interval in ms: the COOL figure of Table 3-3, doubled outside COOL. No strike begins in HOT
(R56). -/
def strikeInterval (level : Nat) (region : Region) : Nat :=
  let cool := match level with
    | 4 => 66
    | 3 => 80
    | 2 => 100
    | _ => 133
  match region with
  | .cool => cool
  | _ => 2 * cool

/-! ## The internal stem list (R124) -/

/-- A character of a stem: a small letter or the apostrophe (R124, R120). -/
def stemLetter (c : Nat) : Bool := decide (c = 39) || within 97 122 c

/-- A character of a stem as a digit, 1 to 27. -/
def letterDigit (c : Nat) : Nat := if c = 39 then 1 else c - 95

/-- The number of a word: its characters as digits to the base 27, the first the least. Each number above 0 is that of one word of
one character or more. -/
def wordNumber : List Nat → Nat
  | [] => 0
  | c :: cs => letterDigit c + 27 * wordNumber cs

/-- The words that the worked cases find in the stem list: bake, stop, kiss, cat, is and good (Table 6-3), and dog (the worked
sequence of a spell-stop with a late answer). -/
def heldCases : List (List Nat) :=
  [[98, 97, 107, 101], [115, 116, 111, 112], [107, 105, 115, 115], [99, 97, 116], [105, 115], [103, 111, 111, 100],
   [100, 111, 103]]

/-- The words that the worked cases do not find in the stem list: baking, bak, stopping, stopp, stoppe, stopped, kisses, kisse,
cat's, gooder and goode (Table 6-3), and teh (the worked sequence of a spell-stop with a late answer). -/
def absentCases : List (List Nat) :=
  [[98, 97, 107, 105, 110, 103], [98, 97, 107], [115, 116, 111, 112, 112, 105, 110, 103], [115, 116, 111, 112, 112],
   [115, 116, 111, 112, 112, 101], [115, 116, 111, 112, 112, 101, 100], [107, 105, 115, 115, 101, 115],
   [107, 105, 115, 115, 101], [99, 97, 116, 39, 115], [103, 111, 111, 100, 101, 114], [103, 111, 111, 100, 101],
   [116, 101, 104]]

/-- The numbers of the words of the worked cases, rising. -/
def caseNumbers : List Nat :=
  [550, 6269, 6744, 8805, 15367, 110519, 126903, 346862, 408522, 3299165, 3597168, 9381359, 10663870, 95474801,
   122968506, 275928398, 290575308, 2032577246, 89647003388]

/-- The flags of a word that a worked case finds: free, but for those that the case names (Table 6-3). -/
def caseFlags (w : List Nat) : Option Config.EndingFlags :=
  match heldCases.findIdx? (fun x => decide (x = w)) with
  | some 0 => some { Config.stemFlags 20473 with ing := true }
  | some 1 => some { Config.stemFlags 20474 with ed := true, ing := true }
  | some 2 => some { Config.stemFlags 20475 with s := true }
  | some 3 => some { Config.stemFlags 20476 with poss := true }
  | some 4 => some (Config.stemFlags 20477)
  | some 5 => some { Config.stemFlags 20478 with er := false }
  | some 6 => some (Config.stemFlags 20479)
  | _ => none

/-- The stem at a place among the 20,473 that no worked case names, counted among the words that no worked case names. -/
def openNumber : Nat → Nat
  | 0 => Config.stemGap 0 + 1
  | i + 1 => openNumber i + Config.stemGap (i + 1) + 1

/-- The number of that word among all words: those of the worked cases, in rising order, are passed over. -/
def passCases : List Nat → Nat → Nat
  | [], n => n
  | x :: xs, n => passCases xs (if x ≤ n then n + 1 else n)

/-- The number of the stem at a place (log entry 7). -/
def stemNumber (place : Nat) : Nat := passCases caseNumbers (openNumber place)

end Sys2Proof.Machine

/-- The internal stem list: the flags of a stem that it holds, or none (R124). It holds 20,480 stems of small letters and
apostrophes, which are free but for the words of the worked cases (log entry 7). -/
def Sys2Proof.Config.stem (w : List Nat) : Option Sys2Proof.Config.EndingFlags :=
  if (Sys2Proof.Machine.heldCases ++ Sys2Proof.Machine.absentCases).contains w then Sys2Proof.Machine.caseFlags w
  else if w.all Sys2Proof.Machine.stemLetter then
    ((List.range 20473).find? (fun i => decide (Sys2Proof.Machine.stemNumber i = Sys2Proof.Machine.wordNumber w))).map
      Sys2Proof.Config.stemFlags
  else none
end

