-- ==== Sys2Proof/Machine/Spacing.lean ====
section
/-! DEFINITION. Spacing arithmetic (Chapter 2): widths, offsets, strokes, the bell zone, held-run placement, the wheel
path, the pulse width and its heat. -/

namespace Sys2Proof.Machine

/-! ## Advance, space width and strike offset -/

/-- The cell of a fixed pitch (Table 2-1); PS has none. -/
def cell (p : Pitch) : Option Nat :=
  match p with
  | .p10 => some 12
  | .p12 => some 10
  | .p15 => some 8
  | .ps => none

/-- The space width (Table 2-1). -/
def spaceWidth (p : Pitch) : Nat :=
  match p with
  | .p10 => 12
  | .p12 => 10
  | .p15 => 8
  | .ps => 8

/-- The width of a width class at PS (Table 2-1). -/
def classWidth (cls : Nat) : Nat := 2 * cls + 4

/-- The width at placement of a character that the mounted wheel bears (R31). -/
def widthAt (p : Pitch) (wheel : Option Nat) (c : Nat) : Nat :=
  match cell p with
  | some w => w
  | none => classWidth (widthClass (wheel.getD 0) c)

/-- The strike offset at placement (R32, Table 2-2). -/
def offsetAt (p : Pitch) (wheel : Option Nat) (c : Nat) : Nat :=
  if proportional wheel then
    match cell p with
    | some w => (w - classWidth (widthClass (wheel.getD 0) c)) / 2
    | none => 0
  else 0

/-! ## Underline strokes -/

/-- How many strokes underline a character of a width (R34): `k = ceil(w / 10)`. -/
def strokeCount (w : Nat) : Nat := ceilDiv w 10

/-- The stroke positions for a character at `p` of width `w` (R34), clamped to 1,590. -/
def strokePositions (p w : Nat) : List Nat :=
  ((List.range (strokeCount w - 1)).map (fun i => p + 10 * i) ++ [if w ≤ 10 then p else p + w - 10]).map (min 1590)

/-! ## The bell zone -/

/-- An extent from `p` of width `w` enters the bell zone of the margin `rm` (R36). -/
def entersBell (rm p w : Nat) : Bool := decide (p < rm) && decide (rm < p + w + 60)

/-! ## Held runs -/

/-- The length limit of a held run (Table 2-4); a limit below 0 is 0 here, since no length is below 0. -/
def runLimit (k : RunKind) (lm rm startPp origin : Nat) : Nat :=
  match k with
  | .center => rm - lm
  | .flush => rm - startPp
  | .decimal => origin - startPp

/-- The final start of a held run of length `len` (Table 2-4). -/
def finalStart (k : RunKind) (lm rm startPp origin len : Nat) : Nat :=
  match k with
  | .center => max lm ((lm + rm) / 2 - len / 2)
  | .flush => rm - len
  | .decimal => max startPp (origin - len)

/-! ## The wheel path -/

/-- The wheel's move from the current petal to the target: forward or back, and the petals (R48). -/
def wheelPath (current target : Nat) : Bool × Nat :=
  let d := (target + 96 - current % 96) % 96
  if d ≤ 48 then (true, d) else (false, 96 - d)

/-! ## Hammer pulse width and heat -/

/-- The base width in µs of an impression class (R49, step 1). -/
def baseWidth (cls : Nat) : Nat := 250 + 150 * cls

/-- The quarters of the impression (R49, step 2). -/
def impressionQuarters (i : Impression) : Nat :=
  match i with
  | .light => 3
  | .normal => 4
  | .heavy => 5

/-- The hammer pulse width in µs (R49). -/
def pulseWidth (cls : Nat) (i : Impression) (medium : Lift) (level : Nat) : Nat :=
  let w2 := baseWidth cls * impressionQuarters i / 4
  let w3 := match medium with
    | .tape => w2 * 5 / 4
    | .ribbon => w2
  let w4 := if level = 1 then w3 * 7 / 8 else w3
  max 300 (min 1500 w4)

/-- The heat increment of a pulse (R50). -/
def heatIncrement (width : Nat) : Nat := width / 50

end Sys2Proof.Machine
end

