-- ==== Sys2Proof/Machine/Ops.lean ====
section
/-! DEFINITION. The operations that the meanings share: joining the transmit queue, posting messages, the strike
queue's slots, sounds and refusals. Each changes one block, so that its frame is true by definition. -/

namespace Sys2Proof.Machine

/-- The controller is DOWN (R202): its power phase is SAVING or SAVED. -/
def State.isDown (s : State) : Bool := decide (s.supply.phase ≠ .running)

/-! ## The transmit queue (R184, R185) -/

/-- The station rostered for a class (R188). -/
def LineInterface.station? (l : LineInterface) (c : StationClass) : Option RosterEntry :=
  l.roster.find? (fun e => e.cls = c)

/-- A station of the class is rostered. -/
def LineInterface.rostered (l : LineInterface) (c : StationClass) : Bool := (l.station? c).isSome

/-- A frame is the one in transmission. -/
def LineInterface.isSending (l : LineInterface) (f : TxFrame) : Bool :=
  match l.sending with
  | some x => decide (x.frame.stamp = f.stamp)
  | none => false

/-- One of the 8 places is free (R184). -/
def LineInterface.hasPlace (l : LineInterface) : Bool := decide (l.places.length < 8)

/-- A frame takes the next place (R184). -/
def LineInterface.join (l : LineInterface) (k : TxKind) : LineInterface :=
  { l with places := l.places ++ [{ kind := k, stamp := l.stamp, losses := 0 }], stamp := l.stamp + 1 }

/-- A STATE waits unsent (R185): one in a place that is not being sent. -/
def LineInterface.stateWaits (l : LineInterface) : Bool :=
  l.places.any (fun f => decide (f.kind = .state) && !l.isSending f)

/-- A STATE is asked for (R185): nothing more joins while one waits unsent, and with no free place it is owed. -/
def LineInterface.askState (l : LineInterface) : LineInterface :=
  if l.stateWaits then l
  else if l.hasPlace then l.join .state
  else { l with stateOwed := true }

/-- A SOUND of the pattern waits in the queue or is being sent (R185). -/
def LineInterface.soundWaits (l : LineInterface) (p : Sound) : Bool :=
  l.places.any (fun f => match f.kind with
    | .sound q _ => decide (q = p)
    | _ => false)

/-- A SOUND is asked for: dropped with no keyboard rostered (R186), with one of its pattern waiting or being sent, or
with no free place (R185). -/
def LineInterface.sound (l : LineInterface) (p : Sound) : LineInterface :=
  match l.station? .keyboard with
  | none => l
  | some k => if l.soundWaits p || !l.hasPlace then l else l.join (.sound p k.number)

/-- HOLD or RELEASE takes the flow slot (R185). -/
def LineInterface.flowFrame (l : LineInterface) (k : TxKind) : LineInterface :=
  { l with flow := some { kind := k, stamp := l.stamp, losses := 0 }, stamp := l.stamp + 1 }

/-- A ROLL_CALL joins a place if one is free (R185, R189). -/
def LineInterface.rollCall (l : LineInterface) : LineInterface := if l.hasPlace then l.join .rollCall else l

/-- Asks the line interface for a STATE (R59, R186). -/
def State.askState (s : State) : State := { s with line := s.line.askState }

/-- Asks the line interface for a SOUND (R186). -/
def State.sound (s : State) (p : Sound) : State := { s with line := s.line.sound p }

/-- Puts HOLD or RELEASE in the flow slot (R170, R171). -/
def State.flowFrame (s : State) (k : TxKind) : State := { s with line := s.line.flowFrame k }

/-! ## The message list (R152 to R155) -/

/-- The fault messages of Table 7-2; the others are transient. -/
def Message.isFault (m : Message) : Bool :=
  match m with
  | .start | .stall | .wheel | .ribbon | .cover | .locked | .cool | .low | .line | .noKeyboard => true
  | .tape | .char | .listFull | .checkWord | .justLimit | .restored | .listLost | .lineId => false

/-- The list holds a transient. -/
def hasTransient (l : List Message) : Bool := l.any (fun m => !m.isFault)

/-- The message list changes to `l`, where the copy of a message may have been replaced by a newer one: a latched message whose
copy has left the list ends its MESSAGE phase (R155), and a list that becomes non-empty in the LINE phase may call for a MESSAGE
phase at the next frame start (R154). A showing cycle that is stopped stands (R158). -/
def Display.setMessages (d : Display) (l : List Message) (replaced : Option Message) : Display :=
  if d.stopped then { d with messages := l }
  else
    match d.phase with
    | .message m =>
      if l.contains m ∧ replaced ≠ some m then { d with messages := l }
      else { d with messages := l, phase := .line, phaseCount := 0, emptySince := l.isEmpty, messageDue := false }
    | .line =>
      { d with
        messages := l,
        messageDue := if l.isEmpty then false else if d.messages.isEmpty then d.emptySince else d.messageDue,
        emptySince := d.emptySince && l.isEmpty }

/-- The list after a new fault (R152). -/
def withFault (l : List Message) (m : Message) : List Message :=
  if l.length < 4 then m :: l else if hasTransient l then m :: l.dropLast else l

/-- The list after a transient (R153). -/
def withTransient (l : List Message) (m : Message) : List Message :=
  let r := l.erase m
  let faults := r.filter Message.isFault
  let transients := r.filter (fun x => !x.isFault)
  if r.length < 4 then faults ++ m :: transients
  else if transients.isEmpty then r
  else faults ++ m :: transients.dropLast

/-- Posts a message: a fault that stands already keeps its place (R152), a transient joins as the newest, and its older copy
leaves, which changes the list even where it holds the same messages after (R153; log entry 53). A fault that finds no place among
the 4 of the list stands outside it, and the list and the dirty mark stand (R152; log entry 57). -/
def Display.post (d : Display) (m : Message) : Display :=
  if m.isFault then
    if d.standing.contains m then d
    else ({ d with standing := m :: d.standing }).setMessages (withFault d.messages m) none
  else if d.messages.contains m then
    ({ d with dirty := true } : Display).setMessages (withTransient d.messages m) (some m)
  else d.setMessages (withTransient d.messages m) none

/-- The list after the removal of a listed fault: the newest standing fault outside the list takes its place among the
faults, in the order of posting (R153). -/
def withoutFault (standing l : List Message) (m : Message) : List Message :=
  let l' := l.erase m
  match standing.find? (fun f => !l'.contains f) with
  | some f => standing.filter (fun x => l'.contains x || decide (x = f)) ++ l'.filter (fun x => !x.isFault)
  | none => l'

/-- Removes a fault whose cause has ended (R153). -/
def Display.unpost (d : Display) (m : Message) : Display :=
  if d.standing.contains m then
    let st := d.standing.erase m
    let d' := { d with standing := st }
    if d.messages.contains m then d'.setMessages (withoutFault st d.messages m) none else d'
  else d

/-- CLEAR removes every transient message (R156). -/
def Display.clearTransients (d : Display) : Display := d.setMessages (d.messages.filter Message.isFault) none

/-- Posts a message with the display unit. -/
def State.post (s : State) (m : Message) : State := { s with display := s.display.post m }

/-- Removes a fault message. -/
def State.unpost (s : State) (m : Message) : State := { s with display := s.display.unpost m }

/-! ## The strike queue and the engine's state (R51, R56, R59) -/

/-- The strike queue empty mark: the slots and the head place are all empty (R59). -/
def Engine.emptyMark (e : Engine) : Bool := e.slots.isEmpty && e.head.isNone

/-- The free slots: 64 less the ops in the slots (R51). -/
def State.freeSlots (s : State) : Nat := 64 - s.engine.slots.length

/-- Changes the slots and the head place, and reports a change of the empty mark (R59). -/
def State.setQueue (s : State) (slots : List Op) (head : Option Op) : State :=
  { s with
    engine := { s.engine with slots := slots, head := head },
    line := if ((slots.isEmpty && head.isNone) == s.engine.emptyMark) then s.line else s.line.askState }

/-- Sets the engine's state and reports a change of it (R59). -/
def State.setEngine (s : State) (e : EngineState) : State :=
  { s with
    engine := { s.engine with state := e },
    line := if s.engine.state = e then s.line else s.line.askState }

/-- Sets the fault code and reports a change of it (R59). -/
def State.setFault (s : State) (f : FaultCode) : State :=
  { s with
    engine := { s.engine with fault := f },
    line := if s.engine.fault = f then s.line else s.line.askState }

/-- A hold reason stands. -/
def Holds.get (h : Holds) (r : HoldReason) : Bool :=
  match r with
  | .cover => h.cover
  | .ribbon => h.ribbon
  | .wheel => h.wheel
  | .low => h.low
  | .heat => h.heat

/-- The holds with one reason set or cleared. -/
def Holds.set (h : Holds) (r : HoldReason) (b : Bool) : Holds :=
  match r with
  | .cover => { h with cover := b }
  | .ribbon => { h with ribbon := b }
  | .wheel => { h with wheel := b }
  | .low => { h with low := b }
  | .heat => { h with heat := b }

/-- Some hold reason stands. -/
def Holds.any (h : Holds) : Bool := h.cover || h.ribbon || h.wheel || h.low || h.heat

/-- READY if no hold reason stands and HELD otherwise (R55, R69). -/
def Engine.idleState (e : Engine) : EngineState := if e.holds.any then .held else .ready

/-- Sets or clears a hold reason: in READY and HELD it decides between the two; in the other states it does not change
the state (R56). Changes are reported (R59). -/
def State.setHold (s : State) (r : HoldReason) (b : Bool) : State :=
  let h := s.engine.holds.set r b
  let s1 : State :=
    { s with
      engine := { s.engine with holds := h },
      line := if s.engine.holds = h then s.line else s.line.askState }
  if s.engine.state = .ready ∨ s.engine.state = .held then s1.setEngine (if h.any then .held else .ready) else s1

/-! ## Refusals (R13) -/

/-- A refused action leaves everything as it stood, and queues CLICK if it came from the keyboard (R13). -/
def State.refuse (s : State) (a : Action) : State :=
  match a.source with
  | .keyboard => s.sound .click
  | .interface => s

/-- The engine is LOCKED (R13, R75). -/
def State.isLocked (s : State) : Bool := decide (s.engine.state = .locked)

end Sys2Proof.Machine
end

