-- ==== Sys2Proof/Machine/Record.lean ====
section
/-! DEFINITION. The line records: order, adding and moving entries, the chains of touching entries (R41, R117, R119),
justification (R45 to R47). -/

namespace Sys2Proof.Machine

/-! ## Order (R1, R2) -/

/-- The end of an entry: its position plus its width. -/
def Entry.endPos (e : Entry) : Nat := e.pos + e.width

/-- The entry is a CHARACTER entry. -/
def Entry.isChar (e : Entry) : Bool := decide (e.kind = .character)

/-- The order of a record: by position, then by order number (R1). -/
def Entry.before (a b : Entry) : Bool := decide (a.pos < b.pos) || (decide (a.pos = b.pos) && decide (a.order < b.order))

/-- Puts an entry at its place in the order. -/
def insertEntry (e : Entry) : List Entry → List Entry
  | [] => [e]
  | x :: xs => if e.before x then e :: x :: xs else x :: insertEntry e xs

/-- The entries in the record's order. -/
def sortEntries (l : List Entry) : List Entry := l.foldl (fun acc e => insertEntry e acc) []

/-- Puts an entry at its place by order number alone. -/
def insertByOrder (e : Entry) : List Entry → List Entry
  | [] => [e]
  | x :: xs => if e.order < x.order then e :: x :: xs else x :: insertByOrder e xs

/-- The entries in the order of their order numbers, which is the order of their making (R2). -/
def byOrder (l : List Entry) : List Entry := l.foldl (fun acc e => insertByOrder e acc) []

/-- Numbers entries upward from `n`. -/
def numberFrom (n : Nat) : List Entry → List Entry
  | [] => []
  | e :: es => { e with order := n } :: numberFrom (n + 1) es

/-- When the counter would pass 65,535, the record's entries are renumbered from 0 upward, keeping their existing order
(R2). Order 65,535 is given out, and the next entry finds the counter past it (log entry 43). -/
def LineRecord.renumbered (r : LineRecord) : LineRecord :=
  if 65535 < r.counter then
    { entries := sortEntries (numberFrom 0 (byOrder r.entries)), counter := r.entries.length }
  else r

/-- Adds a new entry, which takes the next value of the order counter (R2). -/
def LineRecord.add (r : LineRecord) (e : Entry) : LineRecord :=
  let r' := r.renumbered
  { entries := insertEntry { e with order := r'.counter } r'.entries, counter := r'.counter + 1 }

/-- Adds entries in turn. -/
def LineRecord.addAll (r : LineRecord) (es : List Entry) : LineRecord := es.foldl LineRecord.add r

/-- Keeps the entries that satisfy a test; the counter starts again at 0 when the record becomes empty (R2). -/
def LineRecord.keep (r : LineRecord) (f : Entry → Bool) : LineRecord :=
  let es := r.entries.filter f
  { entries := es, counter := if es.isEmpty then 0 else r.counter }

/-- The CHARACTER entries of a record. -/
def LineRecord.chars (r : LineRecord) : List Entry := r.entries.filter Entry.isChar

/-- The greatest end among entries, or `d` if there are none. -/
def greatestEnd (d : Nat) (l : List Entry) : Nat :=
  match l with
  | [] => d
  | e :: es => (es.map Entry.endPos).foldl max e.endPos

/-- The newest of some entries: the one with the highest order number (R2). -/
def newest : List Entry → Option Entry
  | [] => none
  | e :: es => some (es.foldl (fun a b => if a.order < b.order then b else a) e)

/-- The newest CHARACTER entry of a record that ends at a point. -/
def LineRecord.newestEndingAt (r : LineRecord) (p : Nat) : Option Entry :=
  newest (r.chars.filter (fun e => decide (e.endPos = p)))

/-- The CHARACTER entries that stand at a position. -/
def LineRecord.charsAt (r : LineRecord) (p : Nat) : List Entry := r.chars.filter (fun e => decide (e.pos = p))

/-! ## Making a character with its companions (R3, R15, R34) -/

/-- What is placed: a character code, its position, width, offset and rise, with the companions asked for. -/
structure Placement where
  char : Nat
  pos : Nat
  width : Nat
  offset : Nat
  rise : Int
  bold : Bool
  underline : Bool
deriving DecidableEq, Repr

/-- A CHARACTER entry with its BOLD companion and then its UNDERSCORE companions from left to right (R3). The entries
take the names from `id` upward, and their order numbers when they are added. -/
def makeEntries (id : Nat) (p : Placement) (st : EntryState) : List Entry :=
  let owner : Entry :=
    { id := id, pos := p.pos, width := p.width, offset := p.offset, char := p.char, kind := .character, owner := none,
      rise := p.rise, state := st, wheel := none, mark := .plain, order := 0 }
  let bolds : List Entry := if p.bold then [{ owner with id := id + 1, kind := .bold, owner := some id }] else []
  let strokes : List Nat := if p.underline then strokePositions p.pos p.width else []
  owner :: bolds ++ strokes.zipIdx.map (fun q =>
    { owner with
      id := id + 1 + bolds.length + q.2, pos := q.1, width := 10, offset := 0, char := 95, kind := .underscore,
      owner := some id })

/-- How many entries, and so how many STRIKE ops, a placed character makes (Table 1-4). -/
def entryCount (width : Nat) (bold underline : Bool) : Nat :=
  1 + (if bold then 1 else 0) + (if underline then strokeCount width else 0)

/-- The strike position of an entry (R33). -/
def Entry.strikePos (e : Entry) : Nat := e.pos + e.offset + (if e.kind = .bold then 1 else 0)

/-! ## Moving owners with their companions (R35) -/

/-- The owner of a companion, or the entry itself. -/
def ownerId (e : Entry) : Nat := e.owner.getD e.id

/-- Which stroke of its owner an UNDERSCORE companion is, counted from the left. -/
def strokeIndex (l : List Entry) (e : Entry) : Nat :=
  (l.filter (fun x => decide (x.kind = .underscore) && decide (x.owner = e.owner) && decide (x.order < e.order))).length

/-- `p` moved by a signed shift. -/
def shiftPos (p : Nat) (d : Int) : Nat := (((p : Int) + d)).toNat

/-- Moves every CHARACTER entry by its own shift: a BOLD companion goes with its owner, and the UNDERSCORE companions are
placed anew from the owner's new position by R34 (R35). An owner with a shift of 0 is not moved, and its companions stand. -/
def moveOwners (shift : Entry → Int) (l : List Entry) : List Entry :=
  sortEntries (l.map (fun e =>
    match l.find? (fun o => decide (o.id = ownerId e)) with
    | none => e
    | some o =>
      if shift o = 0 then e
      else match e.kind with
      | .underscore =>
        { e with pos := (strokePositions (shiftPos o.pos (shift o)) o.width).getD (strokeIndex l e) e.pos }
      | _ => { e with pos := shiftPos e.pos (shift o) }))

/-! ## Chains of entries -/

/-- One round of growing a set of entries within a pool by a relation to its members. -/
def growOnce (rel : Entry → Entry → Bool) (pool set : List Entry) : List Entry :=
  pool.filter (fun e => set.any (fun x => decide (x.id = e.id) || rel e x))

/-- The set grown `n` rounds. -/
def grow (rel : Entry → Entry → Bool) (pool : List Entry) : Nat → List Entry → List Entry
  | 0, set => set
  | n + 1, set => grow rel pool n (growOnce rel pool set)

/-- The closure of a set within a pool: as many rounds as the pool has entries. -/
def closure (rel : Entry → Entry → Bool) (pool set : List Entry) : List Entry := grow rel pool pool.length set

/-- `e` ends at the position of `x`, or stands at the same position (R41). -/
def leadsInto (e x : Entry) : Bool := decide (e.endPos = x.pos) || decide (e.pos = x.pos)

/-- `e` and `x` are contiguous or share a position (R117, R119). -/
def linked (e x : Entry) : Bool :=
  decide (e.endPos = x.pos) || decide (x.endPos = e.pos) || decide (e.pos = x.pos)

/-- The word at a point (R41): the chain of touching CHARACTER entries that ends there; empty when none ends there. -/
def LineRecord.wordAt (r : LineRecord) (p : Nat) : List Entry :=
  closure leadsInto r.chars (r.chars.filter (fun e => decide (e.endPos = p)))

/-- The least position among entries, or `d` if there are none. -/
def leastPos (d : Nat) (l : List Entry) : Nat :=
  match l with
  | [] => d
  | e :: es => (es.map Entry.pos).foldl min e.pos

/-! ## Letters (R118, R119) -/

/-- A letter a to z or A to Z. -/
def isLetter (c : Nat) : Bool := within 97 122 c || within 65 90 c

/-- A digit 0 to 9. -/
def isDigit (c : Nat) : Bool := within 48 57 c

/-- A character that may continue a word: a letter, an apostrophe or a digit (R118). -/
def continuesWord (c : Nat) : Bool := isLetter c || decide (c = 39) || isDigit c

/-- A capital folded to its small letter ("Character codes" of spec/00_scope.md). -/
def fold (c : Nat) : Nat := if within 65 90 c then c + 32 else c

/-- The letter run of a CHARACTER entry (R117): the chain of letters and apostrophes of its record that contains it; empty
for an entry that is neither. -/
def LineRecord.letterRun (r : LineRecord) (id : Nat) : List Entry :=
  let pool := r.chars.filter (fun e => isLetter e.char || decide (e.char = 39))
  closure linked pool (pool.filter (fun e => decide (e.id = id)))

/-! ## Justification (R45 to R47) -/

/-- The positions of the entries that have a gap before them: the walk of R45 with its running end. -/
def gapPositions (r : Nat) : List Entry → List Nat
  | [] => []
  | e :: es => (if r < e.pos then [e.pos] else []) ++ gapPositions (max r e.endPos) es

/-- The gaps of a line; the indent before the first entry is not a gap. -/
def gaps (chars : List Entry) : List Nat :=
  match chars with
  | [] => []
  | e :: es => gapPositions e.endPos es

/-- The natural end E (R45). -/
def naturalEnd (chars : List Entry) : Nat := greatestEnd 0 chars

/-- Justification applies to these CHARACTER entries (R46). -/
def justifies (p : Pitch) (rm : Nat) (chars : List Entry) : Bool :=
  let g := (gaps chars).length
  decide (1 ≤ g) && decide (naturalEnd chars ≤ rm) && decide ((rm - naturalEnd chars) / g ≤ 2 * spaceWidth p)

/-- The sum of the extras of the gaps that lie at or before a position (R47). -/
def extraBefore (gs : List Nat) (slack p : Nat) : Nat :=
  let k := (gs.filter (fun q => decide (q ≤ p))).length
  k * (slack / gs.length) + min k (slack % gs.length)

/-- JUST LIMIT is posted for this line: justification does not apply, the line holds a CHARACTER entry, and it is not a
line without a gap that ends at RM already (R45, R46). -/
def justLimit (p : Pitch) (rm : Nat) (chars : List Entry) : Bool :=
  !chars.isEmpty && !justifies p rm chars && !((gaps chars).isEmpty && decide (naturalEnd chars = rm))

/-- The entries of a wrapped dispatch with justify on, moved as R47 states where justification applies. -/
def justified (p : Pitch) (rm : Nat) (l : List Entry) : List Entry :=
  let chars := l.filter Entry.isChar
  if justifies p rm chars then
    moveOwners (fun e => (extraBefore (gaps chars) (rm - naturalEnd chars) e.pos : Nat)) l
  else l

end Sys2Proof.Machine
end

