-- ==== Sys2Proof/Machine/Glass.lean ====
section
/-! DEFINITION. The display unit (Chapter 7): the walk from the working line to cells, the cursor, the window, the indicators,
the image of a composition, the batching of compositions and the frame start. -/

namespace Sys2Proof.Machine

/-! ## The walk (R142) -/

/-- A position of the walk: the running end before it, the blank cells before it, and its own cell. -/
structure Spot where
  pos : Nat
  before : Nat
  blanks : Nat
  cell : Nat
deriving DecidableEq, Repr

/-- A list without the later copies of its elements, for a list in rising order. -/
def distinct : List Nat → List Nat
  | [] => []
  | x :: xs => if xs.contains x then distinct xs else x :: distinct xs

/-- The origin of the walk: the least of LM, pp and the positions of the CHARACTER entries. -/
def walkOrigin (lm pp : Nat) (chars : List Entry) : Nat := (chars.map Entry.pos).foldl min (min lm pp)

/-- The blank cells of a gap before `q`. -/
def gapCells (sw r q : Nat) : Nat := if r < q then max 1 ((q - r) / sw) else 0

/-- The walk over positions in rising order, from a running end and a next cell number. -/
def walk (sw : Nat) (chars : List Entry) (r n : Nat) : List Nat → List Spot
  | [] => []
  | q :: qs =>
    let b := gapCells sw r q
    { pos := q, before := r, blanks := b, cell := n + b } ::
      walk sw chars (max r (greatestEnd q (chars.filter (fun e => decide (e.pos = q))))) (n + b + 1) qs

/-- The running end after the walk, or the origin of an empty line. -/
def walkEnd (o : Nat) (chars : List Entry) : Nat := (chars.map Entry.endPos).foldl max o

/-- The line cells that a walk made. -/
def walkCells (spots : List Spot) : Nat :=
  match spots.getLast? with
  | some x => x.cell + 1
  | none => 0

/-- A blank cell. -/
def GlassCell.blank : GlassCell := { glyph := none, underline := false, flash := false, inverted := false }

/-- The cell of a position: the newest CHARACTER entry there, underlined if an UNDERSCORE companion of an owner there
stands, marked to flash for the mark UNKNOWN (R142). -/
def cellAt (entries : List Entry) (q : Nat) : GlassCell :=
  let here := entries.filter (fun e => e.isChar && decide (e.pos = q))
  let ids := here.map Entry.id
  match newest here with
  | none => .blank
  | some e =>
    { glyph := some e.char,
      underline := entries.any (fun u => decide (u.kind = .underscore) && ids.contains (ownerId u)),
      flash := decide (e.mark = .unknown), inverted := false }

/-- The line cells in order. -/
def lineCells (entries : List Entry) (spots : List Spot) : List GlassCell :=
  spots.flatMap (fun x => List.replicate x.blanks .blank ++ [cellAt entries x.pos])

/-! ## Cursor and window (R143, R144) -/

/-- The cursor cell (R143). -/
def cursorCell (sw pp e : Nat) (spots : List Spot) : Nat :=
  if e ≤ pp then walkCells spots + (pp - e) / sw
  else
    match spots.find? (fun x => decide (x.pos = pp)) with
    | some x => x.cell
    | none =>
      match spots.find? (fun x => decide (x.before ≤ pp) && decide (pp < x.pos)) with
      | some x => min (x.cell - x.blanks + (pp - x.before) / sw) (x.cell - 1)
      | none =>
        match (spots.filter (fun x => decide (x.pos < pp))).getLast? with
        | some x => x.cell
        | none => 0

/-- The window origin after the move (R144). -/
def moveWindow (w0 cursor : Nat) : Nat :=
  if cursor < w0 then cursor - 8 else if w0 + 39 < cursor then cursor - 31 else w0

/-! ## Messages and indicators (R141, Table 7-1) -/

/-- The letters of a message (Table 7-2). -/
def Message.text (m : Message) : List Char :=
  match m with
  | .start => ['S', 'T', 'A', 'R', 'T']
  | .stall => ['S', 'T', 'A', 'L', 'L']
  | .wheel => ['W', 'H', 'E', 'E', 'L']
  | .ribbon => ['R', 'I', 'B', 'B', 'O', 'N']
  | .cover => ['C', 'O', 'V', 'E', 'R']
  | .locked => ['L', 'O', 'C', 'K', 'E', 'D']
  | .cool => ['C', 'O', 'O', 'L']
  | .low => ['L', 'O', 'W']
  | .line => ['L', 'I', 'N', 'E']
  | .noKeyboard => ['N', 'O', ' ', 'K', 'E', 'Y', 'B', 'O', 'A', 'R', 'D']
  | .tape => ['T', 'A', 'P', 'E']
  | .char => ['C', 'H', 'A', 'R']
  | .listFull => ['L', 'I', 'S', 'T', ' ', 'F', 'U', 'L', 'L']
  | .checkWord => ['C', 'H', 'E', 'C', 'K', ' ', 'W', 'O', 'R', 'D']
  | .justLimit => ['J', 'U', 'S', 'T', ' ', 'L', 'I', 'M', 'I', 'T']
  | .restored => ['R', 'E', 'S', 'T', 'O', 'R', 'E', 'D']
  | .listLost => ['L', 'I', 'S', 'T', ' ', 'L', 'O', 'S', 'T']
  | .lineId => ['L', 'I', 'N', 'E', ' ', 'I', 'D']

/-- The row of a message, left-aligned and blank after it (R147). -/
def messageRow (m : Message) : List GlassCell :=
  let letters := m.text.map (fun c =>
    ({ glyph := if c.toNat = 32 then none else some c.toNat, underline := false, flash := false, inverted := false } : GlassCell))
  letters ++ List.replicate (40 - letters.length) .blank

/-- The 16 indicators in the order of Table 7-1; a flashing one is lit in the ODD phase (R141, R150). -/
def State.indicators (s : State) : List Bool :=
  let x := s.text.settings
  let odd := s.display.blinkOdd
  let run (k : RunKind) : Bool := match s.text.run with
    | some h => decide (h.kind = k)
    | none => false
  [decide (x.pitch = .p10), decide (x.pitch = .p12), decide (x.pitch = .p15), decide (x.pitch = .ps),
   decide (x.mode = .line), x.justify, run .center, run .flush, run .decimal, x.underline, x.bold,
   (match x.spell with
    | .off => false
    | .check => true
    | .checkStop => odd),
   x.marginRelease,
   (match s.supply.source with
    | some .battery => decide (3 ≤ s.supply.battery) || odd
    | _ => false),
   (match s.supply.region with
    | .cool => false
    | .warm => true
    | .hot => odd),
   (match s.engine.state with
    | .locked => true
    | .halted => odd
    | _ => false)]

/-! ## The image (R145, R147, R151) -/

/-- A flashing cell is blank in the EVEN phase (R150). -/
def GlassCell.inPhase (c : GlassCell) (odd : Bool) : GlassCell :=
  if c.flash && !odd then { c with glyph := none, underline := false } else c

/-- The cursor drawn into its cell (R151). -/
def drawCursor (r : CursorRecord) (odd : Bool) (cells : List GlassCell) : List GlassCell :=
  if r.manner = .steady ∨ odd = false then
    cells.modify r.cell (fun c => match r.shape with
      | .under => { c with underline := true }
      | .block => { c with inverted := true })
  else cells

/-- The image that a composition makes from its reading, and the window origin after it (R147). -/
def State.compose (s : State) : Image × Nat :=
  let t := s.text
  let sw := spaceWidth t.settings.pitch
  let chars := t.work.chars
  let o := walkOrigin t.settings.lm t.pp chars
  let spots := walk sw chars o 0 (distinct ((sortEntries chars).map Entry.pos))
  let cursor := cursorCell sw t.pp (walkEnd o chars) spots
  let w0 := moveWindow s.display.w0 cursor
  match s.display.phase with
  | .message m => ({ cells := messageRow m, indicators := s.indicators, cursor := none }, w0)
  | .line =>
    let row : List GlassCell := ((lineCells t.work.entries spots).drop w0).take 40
    let cells : List GlassCell :=
      (row ++ List.replicate (40 - row.length) GlassCell.blank).map (fun c => c.inPhase s.display.blinkOdd)
    let r : CursorRecord :=
      { cell := cursor - w0, shape := if t.run.isSome then .block else .under,
        manner := if t.waiting.isSome then .steady else .blink }
    ({ cells := drawCursor r s.display.blinkOdd cells, indicators := s.indicators, cursor := some r }, w0)

/-! ## Beginning a composition (R146 to R148) -/

/-- Batching holds: the ceiling level is 1 or 2, or the last report gave BATTERY (R148). -/
def Supply.batching (u : Supply) : Bool := decide (u.ceiling ≤ 2) || decide (u.source = some .battery)

/-- A composition may begin here: always while batching does not hold, and otherwise in a frame-start event whose frame
count is 0, 4, 8 or 12 (R148). -/
def State.mayCompose (s : State) (frameStart : Bool) : Bool :=
  !s.supply.batching || (frameStart && decide (s.display.frameCount % 4 = 0))

/-- A composition begins when the dirty mark is set, the composer is IDLE, the controller is not DOWN and batching does not
hold it back (R147, R148, R158). w0 moves in this event (R144; log entry 51). -/
def State.beginComposition (s : State) (frameStart : Bool) : State :=
  if s.display.dirty ∧ s.display.composer = .idle ∧ s.supply.phase = .running ∧ s.mayCompose frameStart then
    { s with
      display := { s.display with dirty := false, composer := .composing s.compose.1, w0 := s.compose.2 } }
  else s

/-- What the engine's state shows on the glass (R146). -/
def EngineState.shown (e : EngineState) : Nat :=
  match e with
  | .locked => 2
  | .halted => 1
  | _ => 0

/-- A change that sets the dirty mark has happened between two states (R14, R146, R194; log entry 18). Of the messages, the list shown
counts, not the faults that stand outside it (log entry 57). DESIGN CHOICE (log entry 62): the battery level's band is that of the
level alone, whatever the source. -/
def dirtied (a b : State) : Bool :=
  decide (a.text.work ≠ b.text.work) || decide (a.text.print ≠ b.text.print) || decide (a.text.pp ≠ b.text.pp)
    || decide (a.text.settings ≠ b.text.settings)
    || decide (a.text.run ≠ b.text.run) || decide (a.text.waiting.isSome ≠ b.text.waiting.isSome)
    || decide (a.engine.state.shown ≠ b.engine.state.shown)
    || decide (a.supply.source ≠ b.supply.source) || decide ((a.supply.battery < 3) ≠ (b.supply.battery < 3))
    || decide (a.supply.region ≠ b.supply.region) || decide (a.supply.ceiling ≠ b.supply.ceiling)
    || decide (a.display.messages ≠ b.display.messages) || decide (a.display.blinkOdd ≠ b.display.blinkOdd)
    || decide (a.display.phase ≠ b.display.phase)

/-- Sets the dirty mark for the changes since a state. -/
def State.markDirty (s : State) (old : State) : State :=
  { s with display := { s.display with dirty := s.display.dirty || dirtied old s } }

/-- One of the parts of an event, which sets the dirty mark for its changes as it makes them (R146; log entry 18). -/
def State.marking (s : State) (f : State → State) : State := (f s).markDirty s

/-! ## The composition's end and the frame start (R140, R145, R149, R150, R154, R155) -/

/-- The composed image stands in the buffer not shown, and the composer is DONE (R147). -/
def Display.compositionEnd (d : Display) : Display :=
  match d.composer with
  | .composing image =>
    match d.shown with
    | .a => { d with bufferB := image, composer := .done }
    | .b => { d with bufferA := image, composer := .done }
  | _ => d

/-- The swap of a DONE image (R149). -/
def Display.swap (d : Display) : Display :=
  match d.composer with
  | .done =>
    { d with
      composer := .idle,
      shown := match d.shown with
        | .a => .b
        | .b => .a }
  | _ => d

/-- The advance of the frame count and the blink phase (R140, R150). -/
def Display.advanceFrame (d : Display) : Display :=
  let n := (d.frameCount + 1) % 16
  { d with frameCount := n, blinkOdd := if n = 0 then !d.blinkOdd else d.blinkOdd }

/-- A MESSAGE phase begins with the front message (R154). -/
def Display.beginMessage (d : Display) (m : Message) : Display :=
  { d with phase := .message m, phaseCount := 0, messageDue := false, emptySince := false }

/-- A MESSAGE phase that ran its full length ends: a latched transient leaves the list (R155). -/
def Display.endMessage (d : Display) (m : Message) : Display :=
  let l := if m.isFault then d.messages else d.messages.erase m
  { d with phase := .line, phaseCount := 0, messages := l, emptySince := l.isEmpty, messageDue := false }

/-- The advance of the showing cycle (R154). -/
def Display.advanceCycle (d : Display) : Display :=
  let d' : Display := { d with phaseCount := d.phaseCount + 1 }
  match d.phase with
  | .message m => if 48 ≤ d'.phaseCount then d'.endMessage m else d'
  | .line =>
    match d.messages with
    | m :: _ => if d.messageDue ∨ 80 ≤ d'.phaseCount then d'.beginMessage m else d'
    | [] => d'

/-- The display unit's part of a frame start, in the order of R140; the composition follows it. -/
def Display.frameStart (d : Display) : Display := d.swap.advanceFrame.advanceCycle

end Sys2Proof.Machine
end

