-- ==== Sys2Proof/Machine/Drive.lean ====
section
/-! DEFINITION. The drive channels (Chapter 4): what each does with a request, a stop, an edge, the end of a brake, a step
interval and a PWM period. Reports to the engine are made by the functions that call these. -/

namespace Sys2Proof.Machine

/-! ## The carriage channel (R79 to R87) -/

/-- The carriage channel is IDLE. -/
def Carriage.isIdle (c : Carriage) : Bool := decide (c.phase = .idle)

/-- The carriage channel is in a drive phase, a trim or a corrective move. -/
def Carriage.driving (c : Carriage) : Bool := decide (c.phase = .drive)

/-- The units from the count to the target in the direction of travel (R80). -/
def CarriageMove.remaining (m : CarriageMove) (count : Int) : Int :=
  if m.rightward then m.target - count else count - m.target

/-- The target speed in units/s: the profile of R81, the search's of R84 with no remaining term, and 300 units/s in a trim
or a corrective move (R83). -/
def CarriageMove.speed (m : CarriageMove) (count : Int) : Int :=
  match m.leg with
  | .trim | .corrective => 300
  | .profile =>
    match m.kind with
    | .search => min (m.cruise : Int) (300 + 40 * m.travelled)
    | _ => min (m.cruise : Int) (min (300 + 40 * m.travelled) (300 + 40 * m.remaining count))

/-- The target period P = 1,000,000 / v in µs, rounded down (R81). -/
def CarriageMove.period (m : CarriageMove) (count : Int) : Int := (1000000 : Int).fdiv (m.speed count)

/-- The stall time max(5 ms, 3 × P) in µs (R87). -/
def stallTime (period : Int) : Nat := (max 5000 (3 * period)).toNat

/-- Begins a drive phase of a move: its starting duty, its first P, the watch for a stall, and the capture restarted (R80,
R81, R83, R86, R87). -/
def Carriage.beginDrive (c : Carriage) (m : CarriageMove) (duty : Nat) : Carriage :=
  { c with
    phase := .drive, move := some m, duty := duty, period := m.period c.count,
    watch := stallTime (m.period c.count), capture := 0 }

/-- A move to a position: the count takes the known position that the engine hands over (R80). A move of zero distance is
not begun. A request that finds the channel ACTIVE is refused. -/
def Carriage.moveTo (c : Carriage) (position target : Int) (cruise : Nat) : Carriage :=
  if c.isIdle ∧ position ≠ target then
    ({ c with count := position } : Carriage).beginDrive
      { kind := .toPosition, target := target, cruise := cruise, rightward := decide (position < target),
        travelled := 0, leg := .profile, overshot := false } 40
  else c

/-- A move of 30 units to the right with a relative count (R68, R84), at a cruise of 600 units/s (log entry 46). -/
def Carriage.clearHome (c : Carriage) : Carriage :=
  if c.isIdle then
    ({ c with count := 0 } : Carriage).beginDrive
      { kind := .signed, target := 30, cruise := 600, rightward := true, travelled := 0, leg := .profile,
        overshot := false } 40
  else c

/-- A home search to the left, with the count relative to its start (R84). -/
def Carriage.searchHome (c : Carriage) : Carriage :=
  if c.isIdle then
    ({ c with count := 0 } : Carriage).beginDrive
      { kind := .search, target := 0, cruise := 600, rightward := false, travelled := 0, leg := .profile,
        overshot := false } 40
  else c

/-- The channel stops driving and shorts the windings for a brake (R80, R85, R87). -/
def Carriage.beginBrake (c : Carriage) (after : AfterBrake) : Carriage := { c with phase := .brake after, onPhase := false }

/-- A stop request: an ACTIVE channel brakes and makes no check; an IDLE one is unchanged (R85). DESIGN CHOICE (log entry 16): a
stop that comes in the brake of a stall withholds the report of the stall. -/
def Carriage.stop (c : Carriage) : Carriage :=
  match c.phase with
  | .idle => c
  | .drive => c.beginBrake .silent
  | .brake _ => { c with phase := .brake .silent }

/-- The channel releases the windings and becomes IDLE. -/
def Carriage.release (c : Carriage) : Carriage := { c with phase := .idle, move := none, onPhase := false }

/-- The speed loop's new duty for a captured interval against the P in force (R82). -/
def loopDuty (duty : Nat) (interval : Nat) (period : Int) : Nat :=
  let d := if (period * 17).fdiv 16 < (interval : Int) then duty + 1
    else if (interval : Int) < (period * 15).fdiv 16 then duty - 1
    else duty
  max 8 (min 60 d)

/-- An encoder edge: the count follows it in every state (R86); in a drive phase the speed loop runs, v and P are computed
again, the stall watch restarts, and the edge that brings the count to the target ends the phase (R80 to R83, R87). The
profiled phase of a search is ended by the home sensor instead (R84). -/
def Carriage.edge (c : Carriage) (rightward : Bool) (interval : Nat) : Carriage :=
  let i := min interval 65535
  let count := if rightward then c.count + 1 else c.count - 1
  let c' : Carriage := { c with count := count, capture := i }
  match c.phase, c.move with
  | .drive, some m =>
    let m' : CarriageMove := { m with travelled := if rightward = m.rightward then m.travelled + 1 else m.travelled - 1 }
    let c'' : Carriage :=
      { c' with
        move := some m', duty := loopDuty c.duty i c.period, period := m'.period count,
        watch := stallTime (m'.period count) }
    if count = m.target ∧ ¬(m.kind = .search ∧ m.leg = .profile) then c''.beginBrake .check else c''
  | _, _ => c'

/-- What the channel reports at the end of a brake: what the check finds (R83), a stall (R87), or nothing (R85). -/
inductive CheckResult where
  | ended (kind : MoveKind)
  | goesOn
  | overshootFault
  | stalled
  | unchecked
deriving DecidableEq, Repr

/-- The end of the 8 ms brake: after a stop the channel becomes IDLE with no report (R85), and after a stall it becomes IDLE and
reports the stall (R87); with a check, a residual of 0 ends the move, 1 or 2 units draw a trim, more draw the one corrective move,
and a second overshoot faults (R83). -/
def Carriage.endBrake (c : Carriage) : Carriage × CheckResult :=
  match c.phase, c.move with
  | .brake .check, some m =>
    let residual := (m.target - c.count).natAbs
    let back : CarriageMove := { m with rightward := decide (c.count < m.target), travelled := 0 }
    if residual = 0 then (c.release, .ended m.kind)
    else if residual ≤ 2 then (c.beginDrive { back with leg := .trim } 8, .goesOn)
    else if m.overshot then (c.release, .overshootFault)
    else (c.beginDrive { back with leg := .corrective, overshot := true } 40, .goesOn)
  | .brake .stall, _ => (c.release, .stalled)
  | .brake _, _ => (c.release, .unchecked)
  | _, _ => (c, .goesOn)

/-- The channel is in the drive phase of a home search, which the home sensor ends (R84). -/
def Carriage.seeksHome (c : Carriage) : Bool :=
  match c.phase, c.move with
  | .drive, some m => decide (m.kind = .search) && decide (m.leg = .profile)
  | _, _ => false

/-- The home sensor trips in the drive phase of a search: the count becomes 0 and the brake begins (R84). -/
def Carriage.tripHome (c : Carriage) : Carriage :=
  if c.seeksHome then ({ c with count := 0 } : Carriage).beginBrake .check else c

/-- A PWM period starts: the duty in force is loaded, and an on-phase begins if it is above 0 and the channel is driving
(R79). -/
def Carriage.periodStart (c : Carriage) : Carriage :=
  { c with loaded := c.duty, onPhase := decide (0 < c.duty) && c.driving }

/-- The on-phase ends at the loaded duty and the output stays off until the next period start (R79). -/
def Carriage.onPhaseEnd (c : Carriage) : Carriage := { c with onPhase := false }

/-! ## The wheel pacer (R88, R89) -/

/-- The cruise interval in µs (R88). -/
def cruiseInterval (cruise : Nat) : Nat := 1000000 / (4 * cruise)

/-- The ramp intervals above a cruise interval, from an interval on; the first argument is fuel (R88). -/
def rampFrom (floor : Nat) : Nat → Nat → List Nat
  | 0, _ => []
  | n + 1, x => if x ≤ floor then [] else x :: rampFrom floor n (x * 7 / 8)

/-- The ramp of a cruise speed (R88, Table 4-2). -/
def ramp (cruise : Nat) : List Nat := rampFrom (cruiseInterval cruise) 64 1600

/-- `ramp[k]` for k from 1, or the cruise interval beyond the ramp (R88). -/
def rampAt (cruise k : Nat) : Nat := (ramp cruise).getD (k - 1) (cruiseInterval cruise)

/-- The interval in µs of step `i` of a move of `n` petals (R88). -/
def stepInterval (cruise n i : Nat) : Nat := max (rampAt cruise i) (rampAt cruise (4 * n + 1 - i))

/-- The interval in µs of step `i` of a home search: the ramp of 240 petals/s and then its cruise interval (R89). -/
def searchInterval (i : Nat) : Nat := rampAt 240 i

/-- The duration in µs of a move of `n` petals (Table 4-3). -/
def moveDuration (cruise n : Nat) : Nat := ((List.range (4 * n)).map (fun i => stepInterval cruise n (i + 1))).sum

/-- A move request: an IDLE pacer issues the first step; an ACTIVE one refuses (R88). -/
def WheelPacer.request (w : WheelPacer) (forward : Bool) (petals cruise : Nat) : WheelPacer :=
  match w with
  | .idle => .moving forward petals cruise 1
  | w => w

/-- A home search request (R89). -/
def WheelPacer.search (w : WheelPacer) : WheelPacer :=
  match w with
  | .idle => .searching 1 []
  | w => w

/-- The bits read of the home flag after one more step position: the bit is kept while the flag is sensed, and a flag left
before 4 bits were read is read again from its beginning (R89). -/
def readFlag (bits : List Bool) (flag codeBit : Bool) : List Bool :=
  if bits.length = 4 then bits else if flag then bits ++ [codeBit] else []

/-- A step interval ends before the last one and the next step is issued (R88, R89). -/
def WheelPacer.stepEnd (w : WheelPacer) (flag codeBit : Bool) : WheelPacer :=
  match w with
  | .idle => .idle
  | .moving fwd n cruise issued => if issued < 4 * n then .moving fwd n cruise (issued + 1) else w
  | .searching issued bits =>
    if issued < 768 ∧ bits.length < 4 then .searching (issued + 1) (readFlag bits flag codeBit) else w

/-- The wheel code of four bits, the most significant first (R89). -/
def codeOf (bits : List Bool) : Nat := bits.foldl (fun acc b => 2 * acc + b.toNat) 0

/-! ## The feed and ribbon pacers (R90) -/

/-- A feed of `n` half-lines (R90). -/
def FeedPacer.request (f : FeedPacer) (n : Int) : FeedPacer :=
  match f with
  | .idle => .feeding (decide (0 ≤ n)) (12 * n.natAbs) 1
  | f => f

/-- The next step of a feed. -/
def FeedPacer.stepEnd (f : FeedPacer) : FeedPacer :=
  match f with
  | .idle => .idle
  | .feeding fwd n issued => if issued < n then .feeding fwd n (issued + 1) else f

/-- An advance of the ribbon or of the tape (R90). -/
def RibbonPacer.request (r : RibbonPacer) (output : Lift) (steps : Nat) : RibbonPacer :=
  match r with
  | .idle => .advancing output steps 1
  | r => r

/-- The next step of an advance. -/
def RibbonPacer.stepEnd (r : RibbonPacer) : RibbonPacer :=
  match r with
  | .idle => .idle
  | .advancing out n issued => if issued < n then .advancing out n (issued + 1) else r

/-- The ribbon advance after a strike of a width (R90): ceil(w / 2) steps. -/
def ribbonSteps (w : Nat) : Nat := ceilDiv w 2

/-! ## The lifts (R91) -/

/-- The state of a lift driver. -/
def Drive.lift (d : Drive) (l : Lift) : LiftState :=
  match l with
  | .ribbon => d.ribbonLift
  | .tape => d.tapeLift

/-- Sets the state of a lift driver. -/
def Drive.setLift (d : Drive) (l : Lift) (st : LiftState) : Drive :=
  match l with
  | .ribbon => { d with ribbonLift := st }
  | .tape => { d with tapeLift := st }

/-- What a lift driver puts on its solenoid (R91, Table 11-7). -/
inductive LiftOutput where
  /-- The drive is stopped. -/
  | off
  /-- Full drive, for a pull-in of `ms` milliseconds. -/
  | full (ms : Nat)
  /-- The hold PWM: on for one part in `parts` of each period of `period` µs. -/
  | hold (parts period : Nat)
deriving DecidableEq, Repr

/-- The lift is held at a duty of one part in this many: 1/3 for the ribbon lift, 1/2 for the tape lift (R91). -/
def holdParts (l : Lift) : Nat :=
  match l with
  | .ribbon => 3
  | .tape => 2

/-- The drive that each state of a lift driver gives its solenoid (R91): none while RELEASED, full drive for the 12 ms of the pull-in
while PULLING, and the hold duty with a period of 100 µs while DRAWN. -/
def LiftState.output (st : LiftState) (l : Lift) : LiftOutput :=
  match st with
  | .released => .off
  | .pulling => .full 12
  | .drawn => .hold (holdParts l) 100

/-- What drives the solenoid of a lift (R91). -/
def Drive.liftOutput (d : Drive) (l : Lift) : LiftOutput := (d.lift l).output l

/-- The other lift. -/
def otherLift (l : Lift) : Lift :=
  match l with
  | .ribbon => .tape
  | .tape => .ribbon

/-- The hammer is in a pulse. -/
def Hammer.isPulse (h : Hammer) : Bool :=
  match h with
  | .pulse _ => true
  | _ => false

/-- Releases both lifts; while a hammer pulse runs the DRAWN one is released at the end of the pulse (R91). -/
def Drive.releaseLifts (d : Drive) : Drive :=
  let rel (st : LiftState) : LiftState := if d.hammer.isPulse ∧ st = .drawn then .drawn else .released
  { d with ribbonLift := rel d.ribbonLift, tapeLift := rel d.tapeLift, releaseDue := d.hammer.isPulse }

/-- A draw request; the other lift is released in the same event (R62, R91). -/
def Drive.drawLift (d : Drive) (l : Lift) : Drive :=
  let d' := d.setLift (otherLift l) .released
  if d.lift l = .released then d'.setLift l .pulling else d'

/-- Exactly one lift is DRAWN (R77). -/
def Drive.oneDrawn (d : Drive) : Bool := decide (d.ribbonLift = .drawn) != decide (d.tapeLift = .drawn)

/-- The hammer channel is armed (R77). -/
def Drive.armed (d : Drive) : Bool :=
  decide (d.hammer = .idle) && d.carriage.isIdle && decide (d.wheel = .idle) && d.oneDrawn

/-! ## The deadline timers (R92, R93) -/

/-- The length in ms of a move deadline for a distance at a cruise speed and a level (R92). -/
def moveDeadline (distance cruise level : Nat) : Nat :=
  let base := 2 * (distance * 1000 / cruise + 80)
  if level ≤ 2 then 2 * base else base

/-- All three deadline timers stop. -/
def Drive.stopDeadlines (d : Drive) : Drive :=
  { d with carriageDeadline := none, wheelDeadline := none, homingDeadline := none }

/-- A deadline timer. -/
def Drive.deadline (d : Drive) (t : Deadline) : Option Nat :=
  match t with
  | .carriage => d.carriageDeadline
  | .wheel => d.wheelDeadline
  | .homing => d.homingDeadline

end Sys2Proof.Machine
end

