-- ==== Sys2Proof/Machine/Flags.lean ====
section
/-! DEFINITION. The status that the controller shows the other stations: the STATE payload (R186, Table 11-5). -/

namespace Sys2Proof.Machine

/-- The code of the engine state (Table 11-5, byte 0). -/
def EngineState.code (e : EngineState) : Nat :=
  match e with
  | .parked => 0
  | .homing => 1
  | .ready => 2
  | .held => 3
  | .running => 4
  | .halted => 5
  | .locked => 6
  | .down => 7

/-- The hold reasons as bits (Table 11-5, byte 1). -/
def Holds.bits (h : Holds) : Nat :=
  h.cover.toNat + 2 * h.ribbon.toNat + 4 * h.wheel.toNat + 8 * h.low.toNat + 16 * h.heat.toNat

/-- The fault code (Table 11-5, byte 2). -/
def FaultCode.code (f : FaultCode) : Nat :=
  match f with
  | .clear => 0
  | .carriageStall => 1
  | .wheelLost => 2

/-- The code of the heat region (Table 11-5, byte 3). -/
def Region.code (r : Region) : Nat :=
  match r with
  | .cool => 0
  | .warm => 1
  | .hot => 2

/-- The code of the mode (Table 11-4, Table 11-5). -/
def Mode.code (m : Mode) : Nat :=
  match m with
  | .direct => 0
  | .line => 1

/-- The four payload bytes of a STATE made now (R186, Table 11-5). -/
def State.statePayload (s : State) : List Byte :=
  [BitVec.ofNat 8 s.engine.state.code,
   BitVec.ofNat 8 s.engine.holds.bits,
   BitVec.ofNat 8 s.engine.fault.code,
   BitVec.ofNat 8 ((s.supply.ceiling - 1) % 4 + 4 * s.supply.region.code + 16 * s.text.settings.mode.code
     + 32 * s.engine.emptyMark.toNat)]

end Sys2Proof.Machine
end

