-- ==== Sys2Proof/Machine/Coding.lean ====
section
/-! DEFINITION. Frames as bytes and as intervals on the wire: building a frame (R174, R206), reading the intervals of a
reception (R175, R176), and the acceptance tests (R178). -/

namespace Sys2Proof.Machine

/-! ## Building a frame (R206) -/

/-- The kind code of a frame that the controller sends (Table 11-2). -/
def TxKind.code (k : TxKind) : Nat :=
  match k with
  | .rollCall => 1
  | .wordQuery _ _ _ => 12
  | .state => 16
  | .hold => 17
  | .release => 18
  | .sound _ _ => 20

/-- The addressee (Table 9-5). -/
def TxKind.addressee (k : TxKind) : Nat :=
  match k with
  | .wordQuery _ _ target => target
  | .sound _ target => target
  | _ => 15

/-- The pattern code of a SOUND (Table 11-3). -/
def Sound.code (p : Sound) : Nat :=
  match p with
  | .click => 1
  | .bell => 2
  | .double => 3
  | .alarm => 4

/-- The sum of some bytes modulo 256. -/
def byteSum (l : List Byte) : Byte := l.foldl (· + ·) 0

/-- Some bytes followed by the check byte that makes their sum 0 modulo 256 (R201, R206). -/
def withCheck (l : List Byte) : List Byte := l ++ [0 - byteSum l]

/-- The layout of Table 11-1. -/
def frameBytes (sender kind addressee : Nat) (payload : List Byte) : List Byte :=
  withCheck (BitVec.ofNat 8 (sender * 32 + kind) :: BitVec.ofNat 8 (addressee * 16 + payload.length) :: payload)

/-- The payload of a frame that the controller sends; a STATE carries the current values (R186). -/
def State.txPayload (s : State) (k : TxKind) : List Byte :=
  match k with
  | .wordQuery tag letters _ => BitVec.ofNat 8 tag :: letters.map (BitVec.ofNat 8)
  | .state => s.statePayload
  | .sound p _ => [BitVec.ofNat 8 p.code]
  | _ => []

/-- The bytes of a frame that the controller sends (R186, R206). -/
def State.txBytes (s : State) (k : TxKind) : List Byte :=
  frameBytes s.line.station k.code k.addressee (s.txPayload k)

/-! ## The wire (R174 to R176)

Intervals are in the 0.125 µs of the capture: a half cell is 80, a whole cell 160. -/

/-- The bits of a byte, the most significant first (R174). -/
def byteBits (b : Byte) : List Bool := (List.range 8).map (fun i => b.getLsbD (7 - i))

/-- The levels of a frame before its frame end, one for each half cell, from the level before the cell: a change at the
cell start and a second one at mid-cell for a 1 (R174). True is released. -/
def cellLevels (level : Bool) : List Bool → List Bool
  | [] => []
  | true :: bits => (!level) :: level :: cellLevels level bits
  | false :: bits => (!level) :: (!level) :: cellLevels (!level) bits

/-- The levels of a whole frame, half cell by half cell: the start cell, then its bits (R174). -/
def frameLevels (bytes : List Byte) : List Bool := false :: false :: cellLevels false (bytes.flatMap byteBits)

/-- The intervals between successive changes of some levels: `n` half cells have passed at `level`. At the end the line is
released, so a last low interval ends in a change and a last released one does not (R174). -/
def levelIntervals (level : Bool) (n : Nat) : List Bool → List Nat
  | [] => if level then [] else [80 * n]
  | x :: xs => if x = level then levelIntervals level (n + 1) xs else (80 * n) :: levelIntervals x 1 xs

/-- The intervals between successive changes that a frame makes, from the change that begins its start cell (R174). -/
def frameIntervals (bytes : List Byte) : List Nat := levelIntervals false 0 (frameLevels bytes)

/-- What the receiver knows of the last change: it began the start cell, a bit cell, or was a mid-cell change (R175). -/
inductive Edge where
  | startCell
  | cellStart
  | midCell
deriving DecidableEq, Repr

/-- What a reception comes to. -/
inductive Heard where
  /-- A coding error: the receiver abandons the frame and hunts (R175). -/
  | error
  /-- The bits at frame end do not make whole bytes, or make fewer than 3: discarded as a coding error (R176). -/
  | badEnd
  /-- A complete frame. -/
  | frame (bytes : List Byte)
deriving DecidableEq, Repr

/-- Reads an interval against what the coding allows after the last change: the next edge, and the bit it brings (R175).
An interval of 6 to 14 µs is a half cell, one above 14 µs and up to 28 µs a whole cell. -/
def readInterval (e : Edge) (d : Nat) : Option (Edge × Option Bool) :=
  if d < 48 ∨ 224 < d then none
  else match e with
    | .startCell => if d ≤ 112 then none else some (.cellStart, none)
    | .cellStart => if d ≤ 112 then some (.midCell, some true) else some (.cellStart, some false)
    | .midCell => if d ≤ 112 then some (.cellStart, none) else none

/-- Reads the intervals of a reception: the last edge and the bits, or none at a coding error (R175). -/
def readIntervals (e : Edge) (bits : List Bool) : List Nat → Option (Edge × List Bool)
  | [] => some (e, bits)
  | d :: ds =>
    match readInterval e d with
    | none => none
    | some (e', none) => readIntervals e' bits ds
    | some (e', some b) => readIntervals e' (bits ++ [b]) ds

/-- The byte of eight bits, the most significant first. -/
def bitsByte (bits : List Bool) : Byte := bits.foldl (fun acc b => acc * 2 + (if b then 1 else 0)) 0

/-- Eight bits at a time; the first argument is fuel, at least the number of bytes. -/
def bitsBytes : Nat → List Bool → List Byte
  | 0, _ => []
  | n + 1, bits => bitsByte (bits.take 8) :: bitsBytes n (bits.drop 8)

/-- The bits that stand at frame end: a last change from low to released that began no timed interval counts as the start of
a 0 cell if the bits before it stop one short of a whole byte, and as the closing change otherwise (R176). -/
def closeBits (e : Edge) (bits : List Bool) : List Bool :=
  if e = .cellStart ∧ bits.length % 8 = 7 then bits ++ [false] else bits

/-- The intervals of a reception as far as its frame end: low and released intervals alternate, and a released one that reaches
2 cells is the frame end (R175, R176). -/
def frameOf : List Nat → List Nat
  | low :: released :: rest => if 320 ≤ released then [low] else low :: released :: frameOf rest
  | l => l

/-- What a reception comes to whose intervals are these and whose line is then quiet for 2 cells. After an even number of
changes the line is low, which is no frame end but a coding error (R175, R176). -/
def hear (intervals : List Nat) : Heard :=
  let frame := frameOf intervals
  match readIntervals .startCell [] frame with
  | none => .error
  | some (e, bits) =>
    if frame.length % 2 = 0 then .error
    else
      let all := closeBits e bits
      if all.length % 8 = 0 ∧ 24 ≤ all.length then .frame (bitsBytes (all.length / 8) all) else .badEnd

/-! ## Reading a frame and the acceptance tests (R178, R206) -/

/-- The sender field. -/
def frameSender (bytes : List Byte) : Nat := (bytes.getD 0 0).toNat / 32

/-- The kind field. -/
def frameKind (bytes : List Byte) : Nat := (bytes.getD 0 0).toNat % 32

/-- The addressee field. -/
def frameAddressee (bytes : List Byte) : Nat := (bytes.getD 1 0).toNat / 16

/-- The length field. -/
def frameLength (bytes : List Byte) : Nat := (bytes.getD 1 0).toNat % 16

/-- The class of station rostered for a kind that the controller takes; HERE needs none (Table 9-3). -/
def kindClass (kind : Nat) : Option StationClass :=
  match kind with
  | 4 => some .keyboard
  | 5 => some .interface
  | 6 => some .interface
  | 8 => some .power
  | 9 => some .power
  | 13 => some .cartridge
  | _ => none

/-- The kinds of Table 9-3. -/
def takenKind (kind : Nat) : Bool := decide (kind = 2) || (kindClass kind).isSome

/-- The payload lengths of Table 11-2 for the kinds taken. -/
def lengthFits (kind n : Nat) : Bool :=
  match kind with
  | 2 => decide (n = 2)
  | 4 => decide (n = 2)
  | 5 => decide (n ≤ 15)
  | 6 => decide (n = 3)
  | 8 => decide (n = 1)
  | 9 => decide (n = 0)
  | 13 => decide (n = 2)
  | _ => false

/-- What the acceptance tests make of a complete frame that the controller did not itself send (Table 9-2): the number of
the first test that fails, or `none` for a frame that passes them all. -/
def LineInterface.firstFailure (l : LineInterface) (bytes : List Byte) : Option Nat :=
  if byteSum bytes ≠ 0 then some 1
  else if bytes.length ≠ frameLength bytes + 3 then some 2
  else if frameSender bytes = l.station then some 4
  else if frameAddressee bytes ≠ l.station ∧ frameAddressee bytes ≠ 15 then some 5
  else if !takenKind (frameKind bytes) then some 6
  else if (match kindClass (frameKind bytes) with
      | some c => !(match l.station? c with
          | some e => decide (e.number = frameSender bytes)
          | none => false)
      | none => false) then some 7
  else if !lengthFits (frameKind bytes) (frameLength bytes) then some 8
  else none

/-! ## Gaps (R181, Table 9-4) -/

/-- The gap in µs of a frame that the controller sends: 80 for the urgent HOLD, 6 + 2 × station number cells for the normal
class (Table 9-4). -/
def LineInterface.gap (l : LineInterface) (k : TxKind) : Nat :=
  match k with
  | .hold => 80
  | _ => (6 + 2 * l.station) * 20

end Sys2Proof.Machine
end

