-- ==== Sys2Proof/Machine/Removal.lean ====
section
/-! DEFINITION. Finding, marking and removing entries, and what a removal does to the ops, the word records, the
correction list and the marks of the letter run (R3, R4, R107, R108, R117, R121). -/

namespace Sys2Proof.Machine

/-! ## Both line records -/

/-- Changes the entries of both line records with one function. -/
def TextUnit.mapRecords (t : TextUnit) (f : LineRecord → LineRecord) : TextUnit :=
  { t with work := f t.work, print := t.print.map (fun p => { p with record := f p.record }) }

/-- Every entry of the two line records. -/
def TextUnit.allEntries (t : TextUnit) : List Entry :=
  t.work.entries ++ (match t.print with
    | some p => p.record.entries
    | none => [])

/-- The entry of a name, in either record. -/
def TextUnit.find (t : TextUnit) (id : Nat) : Option Entry := t.allEntries.find? (fun e => decide (e.id = id))

/-- Changes the entry of a name where it stands. -/
def TextUnit.modify (t : TextUnit) (id : Nat) (f : Entry → Entry) : TextUnit :=
  t.mapRecords (fun r => { r with entries := r.entries.map (fun e => if e.id = id then f e else e) })

/-- Sets the spell mark of some CHARACTER entries and of their companions (R132). -/
def TextUnit.setMarks (t : TextUnit) (ids : List Nat) (m : SpellMark) : TextUnit :=
  t.mapRecords (fun r =>
    { r with entries := r.entries.map (fun e => if ids.contains (ownerId e) then { e with mark := m } else e) })

/-- The letter run of an entry in whichever record holds it (R117). -/
def TextUnit.letterRun (t : TextUnit) (id : Nat) : List Nat :=
  let inWork := t.work.letterRun id
  let run := match t.print with
    | some p => inWork ++ p.record.letterRun id
    | none => inWork
  run.map Entry.id

/-- Changes the state of an entry. -/
def State.setEntryState (s : State) (id : Nat) (st : EntryState) : State :=
  { s with text := s.text.modify id (fun e => { e with state := st }) }

/-! ## Word records (R121) -/

/-- Some records are let go: each leaves the wait list, its query becomes an orphan, and the result of its lookup, if that is
under way, is discarded (R121, R123, R136). -/
def Spelling.letGo (sp : Spelling) (gone : List Nat) : Spelling :=
  { sp with
    waitList := sp.waitList.filter (fun i => !gone.contains i),
    outstanding := sp.outstanding.map (fun q => { q with record := q.record.filter (fun i => !gone.contains i) }),
    lookup := sp.lookup.map (fun k => { k with record := k.record.filter (fun i => !gone.contains i) }) }

/-- Drops the word records that satisfy a test: each leaves the list and is let go (R121). -/
def Spelling.dropWhere (sp : Spelling) (f : WordRecord → Bool) : Spelling :=
  { sp.letGo ((sp.records.filter f).map WordRecord.id) with records := sp.records.filter (fun r => !f r) }

/-- Drops every word record that names one of some entries (R117). -/
def Spelling.dropNaming (sp : Spelling) (ids : List Nat) : Spelling :=
  sp.dropWhere (fun r => r.entries.any (fun i => ids.contains i))

/-! ## Ops that lose their reference (R4) -/

/-- Clears an op's reference to a removed entry. -/
def Op.forget (ids : List Nat) (o : Op) : Op := { o with ref := o.ref.filter (fun i => !ids.contains i) }

/-- Every op in the queue or in progress that refers to a removed entry has its reference cleared (R4). -/
def State.clearRefs (s : State) (ids : List Nat) : State :=
  { s with
    engine :=
      { s.engine with slots := s.engine.slots.map (Op.forget ids), head := s.engine.head.map (Op.forget ids) } }

/-! ## The correction list (R107, R108) -/

/-- An owner that is removed completes its item, which leaves the list, and pp becomes the owner's position (R107). In
DOWN no correction is under way and pp stands (R5, R113). -/
def State.completeItem (s : State) (e : Entry) : State :=
  if s.corr.items.any (fun i => decide (i.owner = e.id)) then
    { s with
      corr := { s.corr with items := s.corr.items.filter (fun i => decide (i.owner ≠ e.id)) },
      text := if s.isDown then s.text else { s.text with pp := e.pos } }
  else s

/-! ## Removal -/

/-- Takes entries out of both records, out of the run and its feeding, and clears the references to them. -/
def State.takeOut (s : State) (ids : List Nat) : State :=
  let t := s.text.mapRecords (fun r => r.keep (fun e => !ids.contains e.id))
  State.clearRefs
    { s with
      text :=
        { t with
          feeding := t.feeding.filter (fun i => !ids.contains i),
          run := t.run.map (fun h => { h with members := h.members.filter (fun i => !ids.contains i) }) } } ids

/-- The names of the companions of an owner. -/
def TextUnit.companions (t : TextUnit) (id : Nat) : List Nat :=
  (t.allEntries.filter (fun e => decide (e.owner = some id))).map Entry.id

/-- Removes a CHARACTER entry with its companions (R3, R4): the entries of its letter run that remain take the mark NONE
and the word records that name it are dropped (R117), and its item in the correction list is complete (R107). -/
def State.removeOwner (s : State) (e : Entry) : State :=
  let run := s.text.letterRun e.id
  let s1 := s.takeOut (e.id :: s.text.companions e.id)
  let s2 : State :=
    { s1 with
      text := s1.text.setMarks run .plain,
      spell := s1.spell.dropNaming [e.id] }
  s2.completeItem e

/-- Removes a companion alone (R107). -/
def State.removeCompanion (s : State) (e : Entry) : State := s.takeOut [e.id]

/-- Removes an entry of either kind. -/
def State.removeEntry (s : State) (e : Entry) : State := if e.isChar then s.removeOwner e else s.removeCompanion e

/-- Removes CHARACTER entries one after another. -/
def State.removeOwners (s : State) (es : List Entry) : State := es.foldl State.removeOwner s

/-- Empties the working line at once: the records that name its entries are dropped together and the order counter
starts again at 0 (R20, R117). -/
def State.emptyWork (s : State) : State :=
  let ids := s.text.work.entries.map Entry.id
  State.clearRefs { s with text := { s.text with work := .empty }, spell := s.spell.dropNaming ids } ids

/-- Discards the print line with its entries (R27, R28, R117). -/
def State.discardPrint (s : State) : State :=
  match s.text.print with
  | none => s
  | some p =>
    let ids := p.record.entries.map Entry.id
    State.clearRefs { s with text := { s.text with print := none }, spell := s.spell.dropNaming ids } ids

end Sys2Proof.Machine
end

