-- ==== Sys2Proof/Machine/Words.lean ====
section
/-! DEFINITION. The spelling unit (Chapter 6): the token of a word end, word records, lookups, queries and verdicts, and
the user word list. -/

namespace Sys2Proof.Machine

/-! ## Lookup (R124, R125) -/

/-- `l` ends with `t`. -/
def endsWith (l t : List Nat) : Bool := decide (t.length ≤ l.length) && decide (l.drop (l.length - t.length) = t)

/-- The letters of the endings of Table 6-2. -/
inductive Ending where
  | poss
  | s
  | es
  | ed
  | ing
  | ly
  | er
deriving DecidableEq, Repr

/-- The endings in the order of Table 6-2. -/
def endings : List Ending := [.poss, .s, .es, .ed, .ing, .ly, .er]

/-- The letters of an ending. -/
def Ending.letters (e : Ending) : List Nat :=
  match e with
  | .poss => [39, 115]
  | .s => [115]
  | .es => [101, 115]
  | .ed => [101, 100]
  | .ing => [105, 110, 103]
  | .ly => [108, 121]
  | .er => [101, 114]

/-- The flags have the one that an ending requires. -/
def Ending.allowedBy (e : Ending) (f : Config.EndingFlags) : Bool :=
  match e with
  | .poss => f.poss
  | .s => f.s
  | .es => f.s
  | .ed => f.ed
  | .ing => f.ing
  | .ly => f.ly
  | .er => f.er

/-- A stem ends in a doubled consonant (R125). -/
def endsDoubled (stem : List Nat) : Bool :=
  match stem.reverse with
  | x :: y :: _ => decide (x = y) && !([97, 101, 105, 111, 117].contains x)
  | _ => false

/-- The candidate stems of an ending, in order (Table 6-2). -/
def Ending.candidates (e : Ending) (stem : List Nat) : List (List Nat) :=
  match e with
  | .ed | .ing | .er => [stem, stem ++ [101]] ++ (if endsDoubled stem then [stem.dropLast] else [])
  | _ => [stem]

/-- An ending gives KNOWN for a word (R125). -/
def Ending.knows (e : Ending) (w : List Nat) : Bool :=
  let stem := w.take (w.length - e.letters.length)
  endsWith w e.letters && decide (2 ≤ stem.length) &&
    (e.candidates stem).any (fun c => match Config.stem c with
      | some f => e.allowedBy f
      | none => false)

/-- The lookup of R123 to R125 gives KNOWN for a word, which the user word list holds (`listed`) or not. -/
def lookupKnows (listed : Bool) (w : List Nat) : Bool :=
  listed || (Config.stem w).isSome || endings.any (fun e => e.knows w)

/-! ## The token (R119) -/

/-- The token of a word point: the chain of letters, apostrophes and digits that contains every such entry ending there. -/
def LineRecord.tokenAt (r : LineRecord) (p : Nat) : List Entry :=
  let pool := r.chars.filter (fun e => continuesWord e.char)
  closure linked pool (pool.filter (fun e => decide (e.endPos = p)))

/-- A token less its leading apostrophes. -/
def dropLeading : List Entry → List Entry
  | [] => []
  | e :: es => if e.char = 39 then dropLeading es else e :: es

/-- A token less its leading and trailing apostrophes. -/
def trimmed (l : List Entry) : List Entry := (dropLeading (dropLeading l).reverse).reverse

/-- Two of some entries share a position. -/
def sharesPosition : List Entry → Bool
  | [] => false
  | e :: es => es.any (fun x => decide (x.pos = e.pos)) || sharesPosition es

/-- The letters of some entries, each capital folded (R119). -/
def foldedLetters (l : List Entry) : List Nat := l.map (fun e => fold e.char)

/-- The entries of the word of a token, if the token is checked (R119). -/
def checkedWord (token : List Entry) : Option (List Entry) :=
  let w := trimmed token
  if token.any (fun e => isDigit e.char) || sharesPosition token || decide (w.length < 2) || decide (24 < w.length) then none
  else some w

/-! ## Verdicts (R132) -/

/-- A record by its name. -/
def Spelling.record? (sp : Spelling) (id : Nat) : Option WordRecord := sp.records.find? (fun r => decide (r.id = id))

/-- Sets the state of a record. -/
def Spelling.setWord (sp : Spelling) (id : Nat) (st : WordState) : Spelling :=
  { sp with records := sp.records.map (fun r => if r.id = id then { r with state := st } else r) }

/-- The spell mark of a verdict (R132). -/
def verdictMark (v : WordState) : SpellMark :=
  match v with
  | .unknown => .unknown
  | .unchecked => .unchecked
  | _ => .plain

/-- A verdict is applied to a record: it becomes the record's state, the marks of the entries and of their companions are
set, the image is marked dirty, and UNKNOWN asks for DOUBLE (R132). -/
def State.applyVerdict (s : State) (r : WordRecord) (v : WordState) : State :=
  { s with
    spell := s.spell.setWord r.id v,
    text := s.text.setMarks r.entries (verdictMark v),
    display := { s.display with dirty := true },
    line := if v = .unknown then s.line.sound .double else s.line }

/-! ## Queries (R127, R128) -/

/-- A query with the tag is outstanding. -/
def Spelling.tagOut (sp : Spelling) (tag : Nat) : Bool := sp.outstanding.any (fun q => decide (q.tag = tag))

/-- The tag counter advanced past each outstanding tag; the first argument is fuel, at least the outstanding queries. -/
def Spelling.freeTag (sp : Spelling) : Nat → Nat → Nat
  | 0, t => t
  | n + 1, t => if sp.tagOut t then sp.freeTag n ((t + 1) % 64) else t

/-- A record can be asked now: the table holds fewer than 4 queries and the transmit queue accepts a WORD_QUERY (R128). -/
def State.canAsk (s : State) : Bool := decide (s.spell.outstanding.length < 4) && s.line.hasPlace

/-- Asks a record of the cartridge: it takes its tag and becomes ASKING, its query enters the table, and the WORD_QUERY
joins the transmit queue (R127, R128). -/
def State.ask (s : State) (r : WordRecord) : State :=
  let tag := s.spell.freeTag s.spell.outstanding.length s.spell.tagCounter
  { s with
    spell :=
      { s.spell with
        records := s.spell.records.map (fun x =>
          if x.id = r.id then { x with state := .asking, tag := some tag } else x),
        outstanding := s.spell.outstanding ++ [{ tag := tag, record := some r.id }],
        tagCounter := (tag + 1) % 64 },
    line :=
      s.line.join (.wordQuery tag r.letters (match s.line.station? .cartridge with
        | some e => e.number
        | none => 15)) }

/-- A record is to be asked: it is asked if it can be, joins the wait list if that holds fewer than 4, and is otherwise
UNCHECKED at once (R128). -/
def State.askOrWait (s : State) (r : WordRecord) : State :=
  if s.canAsk then s.ask r
  else if s.spell.waitList.length < 4 then
    { s with spell := { s.spell.setWord r.id .waiting with waitList := s.spell.waitList ++ [r.id] } }
  else s.applyVerdict r .unchecked

/-- The head of the wait list is asked if it now can be (R128). -/
def State.serveWait (s : State) : State :=
  match s.spell.waitList with
  | [] => s
  | id :: rest =>
    match s.spell.record? id with
    | none => s
    | some r => if s.canAsk then State.ask { s with spell := { s.spell with waitList := rest } } r else s

/-- Takes a record off the wait list as UNCHECKED (R128). -/
def State.giveUpWaiting (s : State) (id : Nat) : State :=
  let s1 : State := { s with spell := { s.spell with waitList := s.spell.waitList.filter (fun i => decide (i ≠ id)) } }
  match s.spell.record? id with
  | none => s1
  | some r => s1.applyVerdict r .unchecked

/-- The rostered cartridge is SILENT (R126). -/
def LineInterface.cartridgeSilent (l : LineInterface) : Bool :=
  match l.station? .cartridge with
  | some e => decide (e.status = .silent)
  | none => false

/-- Marks the entry of a class (R192, R193). -/
def LineInterface.setStatus (l : LineInterface) (c : StationClass) (st : StationStatus) : LineInterface :=
  { l with roster := l.roster.map (fun e => if e.cls = c then { e with status := st } else e) }

/-- The cartridge is marked SILENT: every WAITING record leaves the wait list and becomes UNCHECKED (R128, R193). A request
while it is already SILENT changes nothing. -/
def State.silenceCartridge (s : State) : State :=
  if s.line.cartridgeSilent then s
  else s.spell.waitList.foldl State.giveUpWaiting { s with line := s.line.setStatus .cartridge .silent }

/-- The timeout run rises by 1, and at 3 the cartridge is marked SILENT and the run returns to 0 (R131). -/
def State.countTimeout (s : State) : State :=
  if 3 ≤ s.spell.timeoutRun + 1 then State.silenceCartridge { s with spell := { s.spell with timeoutRun := 0 } }
  else { s with spell := { s.spell with timeoutRun := s.spell.timeoutRun + 1 } }

/-- A record's verdict if it is still ASKING (R129, R130). -/
def State.settleAsking (s : State) (q : Query) (v : WordState) : State :=
  match q.record with
  | none => s
  | some id =>
    match s.spell.record? id with
    | none => s
    | some r => if r.state = .asking then s.applyVerdict r v else s

/-- A query leaves the outstanding table, and its timer stops (R129, R130). -/
def State.takeQuery (s : State) (q : Query) : State :=
  { s with spell := { s.spell with outstanding := s.spell.outstanding.filter (fun x => decide (x.tag ≠ q.tag)) } }

/-- The timeout of the query of a tag, by its timer or by the discard of its frame: its ASKING record becomes UNCHECKED,
the timeout run rises, and the head of the wait list is asked if it can be (R128, R130). -/
def State.queryTimeout (s : State) (tag : Nat) : State :=
  match s.spell.outstanding.find? (fun q => decide (q.tag = tag)) with
  | none => s
  | some q => ((s.takeQuery q).settleAsking q .unchecked).countTimeout.serveWait

/-- The record at the head of the wait list, which has waited 400 ms, leaves it as UNCHECKED; this is no timeout (R128). -/
def State.waitListTimeout (s : State) : State :=
  match s.spell.waitList with
  | [] => s
  | id :: _ => s.giveUpWaiting id

/-! ## Word records (R119 to R122) -/

/-- The first record in the lookup order (R123). -/
def Spelling.firstLooking (sp : Spelling) : Option WordRecord := sp.records.find? (fun r => decide (r.state = .looking))

/-- With no lookup under way, that of the first record in the lookup order begins (R123). -/
def Spelling.beginLookup (sp : Spelling) : Spelling :=
  match sp.lookup with
  | some _ => sp
  | none =>
    { sp with
      lookup := sp.firstLooking.map (fun r => { record := some r.id, listed := sp.userList.contains r.letters }) }

/-- Makes a word record as the newest of the list, dropping the oldest of 8 (R120, R121); it enters the lookup order (R123). -/
def State.makeWord (s : State) (entries : List Nat) (letters : List Nat) : State :=
  let sp := if s.spell.records.length < 8 then s.spell
    else match s.spell.records with
      | [] => s.spell
      | r :: _ => s.spell.dropWhere (fun x => decide (x.id = r.id))
  { s with
    spell :=
      ({ sp with
        records := sp.records ++
          [{ id := sp.nextRecord, tag := none, line := .working, entries := entries, letters := letters,
             state := .looking }],
        nextRecord := sp.nextRecord + 1 } : Spelling).beginLookup }

/-- Two lists name the same entries. -/
def sameEntries (a b : List Nat) : Bool := a.all (fun i => b.contains i) && b.all (fun i => a.contains i)

/-- A standing record of the working line that names exactly these entries and holds these letters (R120). -/
def Spelling.holdsWord (sp : Spelling) (entries letters : List Nat) : Bool :=
  sp.records.any (fun r => decide (r.line = .working) && sameEntries r.entries entries && decide (r.letters = letters))

/-- The effect of a word end on a token: a word already recorded stands; otherwise every record that names an entry of the
token is dropped, and a new record is made if the token is checked, or its marks are set to NONE if it is not (R119,
R120). -/
def State.recordToken (s : State) (token : List Entry) : State :=
  let ids := token.map Entry.id
  let dropped : State := { s with spell := s.spell.dropNaming ids }
  match checkedWord token with
  | none => { dropped with text := dropped.text.setMarks ids .plain }
  | some w =>
    if s.spell.holdsWord (w.map Entry.id) (foldedLetters w) then s
    else dropped.makeWord (w.map Entry.id) (foldedLetters w)

/-- A word end at a word point (R118): the spell setting is not OFF, no held run stands, and a CHARACTER entry of the
working line ends there. DESIGN CHOICE (log entry 60): the text of a held run that has ended is checked like any other text of
the working line. -/
def State.wordEnd (s : State) (p : Nat) : State :=
  if s.text.settings.spell = .off ∨ s.text.run.isSome ∨ (s.text.work.newestEndingAt p).isNone then s
  else
    let token := s.text.work.tokenAt p
    if token.isEmpty then s else s.recordToken token

/-- A record is settled (R122). -/
def WordRecord.settled (r : WordRecord) : Bool :=
  match r.state with
  | .looking | .waiting | .asking => false
  | .known | .unknown | .unchecked => true

/-- The records of the working line when a dispatch moves its entries (R122): a record that names a carried entry stays on
the working line if it is settled, and is otherwise dropped and made anew; every other goes to the print line. DESIGN CHOICE (log
entry 64): several records made anew are made in the order in which they stood in the list. -/
def State.moveWords (s : State) (carried : List Nat) : State :=
  let names (r : WordRecord) : Bool := decide (r.line = .working) && r.entries.any (fun i => carried.contains i)
  let redo := s.spell.records.filter (fun r => names r && !r.settled)
  let sp := s.spell.dropWhere (fun r => names r && !r.settled)
  let s1 : State :=
    { s with
      spell :=
        { sp with records := sp.records.map (fun r => if names r then r else { r with line := .print }) } }
  redo.foldl (fun acc r => acc.makeWord r.entries r.letters) s1

/-- The working line is settled: no record of it is LOOKING, WAITING or ASKING (R133). -/
def Spelling.lineSettled (sp : Spelling) : Bool :=
  sp.records.all (fun r => decide (r.line = .print) || r.settled)

/-! ## The lookup's end (R123, R126) -/

/-- A lookup that gives no KNOWN passes to the cartridge rule (R126). -/
def State.cartridgeRule (s : State) (r : WordRecord) : State :=
  if !s.line.rostered .cartridge then s.applyVerdict r .unknown
  else if s.line.cartridgeSilent then s.applyVerdict r .unchecked
  else if 15 ≤ r.letters.length ∨ r.letters.contains 39 then s.applyVerdict r .unchecked
  else s.askOrWait r

/-- The result of the lookup of a record: KNOWN, or what the cartridge rule makes of it (R123, R126). -/
def State.lookupResult (s : State) (r : WordRecord) (listed : Bool) : State :=
  if lookupKnows listed r.letters then s.applyVerdict r .known else s.cartridgeRule r

/-- The user word list gives KNOWN for the record of a lookup: as the list stood when the lookup began, or as it stands at its end,
which differ if the word was taken out in between (R123; log entry 25). -/
def Spelling.listGives (sp : Spelling) (k : Lookup) (r : WordRecord) : Bool :=
  let now := sp.userList.contains r.letters
  if k.listed = now then now else if Config.lookupEarly r.id then k.listed else now

/-- The lookup under way ends (R123): its result, unless it is discarded, is its record's, and the next one begins. -/
def State.endLookup (s : State) : State :=
  match s.spell.lookup with
  | none => s
  | some k =>
    let s1 : State := { s with spell := { s.spell with lookup := none } }
    let s2 : State := match k.record with
      | none => s1
      | some id =>
        match s.spell.record? id with
        | none => s1
        | some r => s1.lookupResult r (s.spell.listGives k r)
    { s2 with spell := s2.spell.beginLookup }

/-! ## The user word list (R135 to R138) -/

/-- The order of R135: character by character, the apostrophe first, and the shorter of two words with a common beginning
first. -/
def wordBefore : List Nat → List Nat → Bool
  | [], [] => false
  | [], _ :: _ => true
  | _ :: _, [] => false
  | a :: as, b :: bs => decide (a < b) || (decide (a = b) && wordBefore as bs)

/-- Inserts a word at its place in the alphabetical order (R136). -/
def insertWord (w : List Nat) : List (List Nat) → List (List Nat)
  | [] => [w]
  | x :: xs => if wordBefore w x then w :: x :: xs else x :: insertWord w xs

/-- The bytes of the user word list record (Table 11-6). -/
def encodeWords (ws : List (List Nat)) : List Byte :=
  withCheck (162 :: BitVec.ofNat 8 ws.length ::
    ws.flatMap (fun w => BitVec.ofNat 8 w.length :: w.map (BitVec.ofNat 8)))

/-- A change of the list begins a write of its retained copy, or is left pending while one is under way (R138). -/
def Spelling.changed (sp : Spelling) : Spelling :=
  match sp.writing with
  | some _ => { sp with writePending := true }
  | none => { sp with writing := some (encodeWords sp.userList) }

/-- Every standing record whose letters equal a word becomes KNOWN: its marks become NONE, and it leaves the wait list, its
query and its lookup (R123, R132, R136). -/
def State.makeKnown (s : State) (w : List Nat) : State :=
  let hit := s.spell.records.filter (fun r => decide (r.letters = w))
  { s with
    spell :=
      { s.spell.letGo (hit.map WordRecord.id) with
        records := s.spell.records.map (fun r => if r.letters = w then { r with state := .known } else r) },
    text := s.text.setMarks (hit.flatMap WordRecord.entries) .plain,
    display := { s.display with dirty := true } }

/-- ADD_WORD (R136). -/
def State.addWord (s : State) (a : Action) : State :=
  match s.spell.records.getLast? with
  | none => s.refuse a
  | some r =>
    if s.spell.userList.contains r.letters then s
    else if 128 ≤ s.spell.userList.length then (s.refuse a).post .listFull
    else
      State.makeKnown
        { s with spell := ({ s.spell with userList := insertWord r.letters s.spell.userList } : Spelling).changed }
        r.letters

/-- DELETE_WORD (R137). -/
def State.deleteWord (s : State) (a : Action) : State :=
  match s.spell.records.getLast? with
  | none => s.refuse a
  | some r =>
    if s.spell.userList.contains r.letters then
      { s with spell := ({ s.spell with userList := s.spell.userList.erase r.letters } : Spelling).changed }
    else s

end Sys2Proof.Machine
end

