-- ==== Sys2Proof/Machine/Engine.lean ====
section
/-! DEFINITION. The print engine (Chapter 3): requests to the channels, the steps of each op, completions and drops,
faults and LOCKED, homing, and the taking of ops. -/

namespace Sys2Proof.Machine

/-! ## Heat (R199, R200) -/

/-- The heat region for an estimate, from the region before (R200). -/
def regionFor (r : Region) (h : Nat) : Region :=
  match r with
  | .hot => if 2000 ≤ h then .hot else .warm
  | _ => if 2400 ≤ h then .hot else if 1200 ≤ h then .warm else .cool

/-- The estimate takes a new value and the region is found again: a change is reported, entering HOT sets HEAT and posts
COOL, and leaving it clears both (R194, R200). -/
def State.setHeat (s : State) (h : Nat) : State :=
  let r := regionFor s.supply.region h
  let s1 : State :=
    { s with
      supply := { s.supply with heat := h, region := r },
      line := if r = s.supply.region then s.line else s.line.askState }
  if r = .hot ∧ s.supply.region ≠ .hot then (s1.setHold .heat true).post .cool
  else if r ≠ .hot ∧ s.supply.region = .hot then (s1.setHold .heat false).unpost .cool
  else s1

/-- A pulse's increment, saturating at 4,095 (R199). -/
def State.addHeat (s : State) (inc : Nat) : State := s.setHeat (min 4095 (s.supply.heat + inc))

/-! ## Ops and entries (R53, R66) -/

/-- The op of an entry is in progress. -/
def Engine.inProgress (e : Engine) (id : Nat) : Bool :=
  match e.head, e.progress with
  | some o, some _ => decide (o.ref = some id)
  | _, _ => false

/-- The op of an entry has not begun: it stands in a slot, or in the head place as a put-back op (R53). -/
def Engine.notBegun (e : Engine) (id : Nat) : Bool :=
  e.slots.any (fun o => decide (o.ref = some id)) ||
    (match e.head, e.progress with
      | some o, none => decide (o.ref = some id)
      | _, _ => false)

/-- Removes the ops that satisfy a test and have not begun, from the slots and from the head place (R53). -/
def State.removeOps (s : State) (f : Op → Bool) : State :=
  s.setQueue (s.engine.slots.filter (fun o => !f o))
    (match s.engine.progress with
      | some _ => s.engine.head
      | none => s.engine.head.filter (fun o => !f o))

/-- An op refers to one of some entries. -/
def Op.refersTo (ids : List Nat) (o : Op) : Bool :=
  match o.ref with
  | some i => ids.contains i
  | none => false

/-- What LOCKED does to the entry of a discarded op: a QUEUED entry is removed and a LIFTING entry returns to PRINTED
(R75, Table 1-2). -/
def State.lockEntry (s : State) (o : Op) : State :=
  match o.ref with
  | none => s
  | some id =>
    match s.text.find id with
    | none => s
    | some e =>
      match e.state with
      | .queued => s.removeEntry e
      | .lifting => s.setEntryState id .printed
      | _ => s

/-- Appends an op to the tail slot (R51); a LOCKED engine discards it with the effects of LOCKED on its entry (R75). -/
def State.appendOp (s : State) (o : Op) : State :=
  if s.isLocked then s.lockEntry o else s.setQueue (s.engine.slots ++ [o]) s.engine.head

/-- The text unit's STRIKE op for an entry (R16). -/
def strikeOp (e : Entry) (i : Impression) : Op :=
  { kind := .strike, target := e.strikePos, char := e.char, impression := i, medium := .ribbon, advance := e.width,
    feed := 0, rise := e.rise, ref := some e.id, origin := .text }

/-- A FEED op (R18, R109). -/
def feedOp (n : Int) (o : Origin) : Op :=
  { kind := .feed, target := 0, char := 0, impression := .normal, medium := .ribbon, advance := 0, feed := n, rise := 0,
    ref := none, origin := o }

/-- A RETURN op (R20, R28). -/
def returnOp (lm : Nat) (n : Int) : Op :=
  { kind := .carriageReturn, target := lm, char := 0, impression := .normal, medium := .ribbon, advance := 0, feed := n,
    rise := 0, ref := none, origin := .text }

/-! ## The correction unit's part in drops (R111) -/

/-- The correction unit IDLE, its list empty and its marks clear (R95). -/
def Correction.idle : Correction :=
  { lifting := false, items := [], tapeMark := false, closingMark := false, closingFeeds := 0 }

/-- A tape strike of the correction unit. -/
def Op.isTapeStrike (o : Op) : Bool := decide (o.kind = .strike) && decide (o.origin = .correction)

/-- The correction is abandoned (R111): every tape strike that has not begun is withdrawn and its member returns to PRINTED,
the list is emptied, and for a spent tape TAPE is posted. A report that finds an empty list changes nothing. -/
def State.abandonCorrection (s : State) (tapeEnd : Bool) : State :=
  if s.corr.items.isEmpty then s
  else
    let put := match s.engine.progress with
      | some _ => []
      | none => s.engine.head.toList
    let gone := ((put ++ s.engine.slots).filter Op.isTapeStrike).filterMap Op.ref
    let s1 := s.removeOps Op.isTapeStrike
    let s2 := gone.foldl (fun acc id => acc.setEntryState id .printed) s1
    let s3 : State := { s2 with corr := { s2.corr with items := [] } }
    if tapeEnd then s3.post .tape else s3

/-! ## Completion and drop (R55, R61, R66) -/

/-- A strike's completion reaches its entry (Table 1-2): a QUEUED entry becomes PRINTED with the mounted wheel code; a
LIFTING entry is removed, and if it is an owner pp moves to its position (R107, R111), but not once the correction has been
abandoned by DOWN (R5, R113). -/
def State.strikeDone (s : State) (o : Op) : State :=
  match o.ref with
  | none => s
  | some id =>
    match s.text.find id with
    | none => s
    | some e =>
      match o.origin with
      | .text =>
        if e.state = .queued then
          { s with text := s.text.modify id (fun x => { x with state := .printed, wheel := s.engine.wheel }) }
        else s
      | .correction =>
        if e.state = .lifting then
          let s1 := s.removeEntry e
          if e.isChar ∧ s.corr.lifting then { s1 with text := { s1.text with pp := e.pos } } else s1
        else s

/-- The op moves the carriage to the left margin and the paper up: a RETURN op (R51). -/
def Op.isReturn (o : Op) : Bool := decide (o.kind = .carriageReturn)

/-- A RETURN op completes. That of the print line, the last RETURN op of the queue once it is appended, discards the print line;
an earlier one that is left from direct mode completes first and discards nothing (R1, R28; log entry 14). -/
def State.returnDone (s : State) : State :=
  match s.text.print with
  | some p => if p.returnAppended && !s.engine.slots.any Op.isReturn then s.discardPrint else s
  | none => s

/-- A restoring feed completes; the last one ends the closing (R109). -/
def State.closingFeedDone (s : State) : State :=
  if s.corr.closingMark then
    { s with
      corr := if s.corr.closingFeeds ≤ 1 then .idle else { s.corr with closingFeeds := s.corr.closingFeeds - 1 } }
  else s

/-- The op leaves the head place and its completion is reported to the text unit and to the correction unit; the engine
becomes READY or HELD, or stays DOWN (R55, R66, R76). -/
def State.completeOp (s : State) : State :=
  match s.engine.head with
  | none => s
  | some o =>
    let s1 := s.setQueue s.engine.slots none
    let s2 : State := { s1 with engine := { s1.engine with progress := none } }
    let s3 := match o.kind with
      | .strike => s2.strikeDone o
      | .carriageReturn => s2.returnDone
      | .feed => match o.origin with
        | .correction => s2.closingFeedDone
        | .text => s2
    if s3.engine.state = .down then s3 else s3.setEngine s3.engine.idleState

/-- The op in the head place is dropped without any motion (R61): for a character not on the wheel CHAR is posted; a QUEUED
entry of origin TEXT is removed, a LIFTING entry reverts to PRINTED and the correction is abandoned there. -/
def State.dropOp (s : State) (o : Op) (tapeEnd : Bool) : State :=
  let s1 := s.setQueue s.engine.slots none
  let s2 : State := { s1 with engine := { s1.engine with progress := none } }
  let found : Option Entry := match o.ref with
    | some i => s2.text.find i
    | none => none
  let s3 : State := match found with
    | none => s2
    | some e =>
      if o.origin = .text ∧ e.state = .queued ∧ ¬tapeEnd then s2.removeEntry e
      else if e.state = .lifting then s2.setEntryState e.id .printed
      else s2
  let s4 := if tapeEnd then s3 else s3.post .char
  let s5 : State := match o.origin with
    | .correction => s4.abandonCorrection tapeEnd
    | .text => s4
  s5.setEngine s5.engine.idleState

/-! ## LOCKED and faults (R72, R75, R76) -/

/-- The fault message of a fault code (R59). -/
def FaultCode.message (f : FaultCode) : Message :=
  match f with
  | .wheelLost => .wheel
  | _ => .stall

/-- A held run that was feeding its ops when the engine became LOCKED: the entries not yet fed are removed and the ending
action is refused (R25). -/
def State.endFeedingLocked (s : State) : State :=
  match s.text.waiting with
  | some .runFeeding =>
    let s1 := s.text.feeding.foldl (fun acc id =>
      match acc.text.find id with
      | some e => acc.removeEntry e
      | none => acc) s
    let s2 : State := { s1 with text := { s1.text with feeding := [], waiting := none, resume := none } }
    match s.text.resume with
    | some r => s2.refuse r.action
    | none => s2
  | _ => s

/-- Entering LOCKED (R75): the correction is abandoned, the strike queue is emptied with its effects on the entries, the
print line is discarded, a feeding run ends; LOCKED is posted and ALARM asked for. -/
def State.enterLocked (s : State) (code : FaultCode) : State :=
  let ops := s.engine.head.toList ++ s.engine.slots
  let s1 : State := State.setQueue { s with corr := .idle } [] none
  let s2 : State := { s1 with engine := { s1.engine with progress := none } }
  let s3 := (ops.foldl State.lockEntry s2).discardPrint.endFeedingLocked
  (((s3.post code.message).post .locked).sound .alarm).setEngine .locked

/-- A put-back op (R72): a RETURN op whose feed has ended, or was of 0, has its feed set to 0. -/
def putBack (o : Op) (p : Progress) : Op :=
  match o.kind, p.stage with
  | .carriageReturn, .returning _ false => { o with feed := 0 }
  | _, _ => o

/-- The op in progress, if there is one, stays in the head place marked as not begun; a RETURN's feed that is still running
is remembered (R72). -/
def Engine.putBackHead (e : Engine) : Engine :=
  match e.head, e.progress with
  | some o, some p =>
    { e with
      head := some (putBack o p), progress := none,
      lateFeed := e.lateFeed || (match p.stage with
        | .returning _ true => true
        | _ => false) }
  | _, _ => e

/-- A fault (R72): the carriage and wheel channels stop, both lifts are released, the deadlines stop (R93), position and
petal become unknown, the op in progress is put back, the code is recorded and its message posted, ALARM is asked for; the
engine becomes LOCKED if the fault arose during homing begun by CLEAR, and otherwise HALTED. -/
def State.raiseFault (s : State) (code : FaultCode) : State :=
  let e := s.engine.putBackHead
  let d : Drive := { s.drive with carriage := s.drive.carriage.stop, wheel := .idle }
  let s1 : State :=
    { s with
      drive := d.releaseLifts.stopDeadlines,
      engine :=
        { e with
          carriage := none, petal := none, restMove := false, homing := none,
          startHomed := e.startHomed || (match e.homing with
            | some h => decide (h.kind = .start)
            | none => false) } }
  let s2 := ((s1.setFault code).post code.message).sound .alarm
  match s.engine.homing with
  | some h => if h.kind = .clear then s2.enterLocked code else s2.setEngine .halted
  | none => s2.setEngine .halted

/-! ## Requests to the channels (R60, R62, R92) -/

/-- The carriage position differs from a target. -/
def Engine.awayFrom (e : Engine) (target : Nat) : Bool :=
  match e.carriage with
  | some p => decide (p ≠ target)
  | none => false

/-- Requests a carriage move and starts its deadline (R62, R92). -/
def State.requestCarriage (s : State) (target level : Nat) : State :=
  match s.engine.carriage with
  | none => s
  | some p =>
    { s with
      drive :=
        { s.drive with
          carriage := s.drive.carriage.moveTo p target (carriageCruise level),
          carriageDeadline := some (moveDeadline ((target : Int) - p).natAbs (carriageCruise level) level) } }

/-- Requests a wheel move and starts its deadline (R62, R92). -/
def State.requestWheel (s : State) (path : Bool × Nat) (level : Nat) : State :=
  { s with
    drive :=
      { s.drive with
        wheel := s.drive.wheel.request path.1 path.2 (wheelCruise level),
        wheelDeadline := some (moveDeadline path.2 (wheelCruise level) level) } }

/-- Requests a feed (R62, R64, R65). -/
def State.requestFeed (s : State) (n : Int) : State :=
  { s with drive := { s.drive with feed := s.drive.feed.request n } }

/-- The op in progress reaches a stage. -/
def State.setStage (s : State) (st : Stage) : State :=
  { s with engine := { s.engine with progress := s.engine.progress.map (fun p => { p with stage := st }) } }

/-! ## The steps of a STRIKE (R62, R63) -/

/-- Step 5: the hammer channel fires if it is armed, reports its heat, and the engine records the start of the pulse; a
refusal is a fault (R63, R77, R78). -/
def State.fire (s : State) (p : Progress) : State :=
  if s.drive.armed then
    State.addHeat
      { s with
        drive := { s.drive with hammer := .pulse p.width },
        engine := { s.engine with lastPulse := some s.clock, progress := some { p with stage := .pulse } } }
      (heatIncrement p.width)
  else s.raiseFault .carriageStall

/-- The time (µs) at which the minimum strike interval since the last pulse has passed (R60). -/
def Engine.intervalEnd (e : Engine) (p : Progress) : Nat :=
  match e.lastPulse with
  | some t => t + 1000 * strikeInterval p.level p.region
  | none => 0

/-- Step 4: the engine waits until the minimum strike interval has passed (R62). -/
def State.strikeInterval (s : State) (p : Progress) : State :=
  if s.clock < s.engine.intervalEnd p then s.setStage .interval else s.fire p

/-- Step 3: the lift of the op's medium is drawn and the other released (R62); a lift that is DRAWN already answers at once
(R91). -/
def State.strikeLift (s : State) (o : Op) (p : Progress) : State :=
  let s1 := State.setStage { s with drive := s.drive.drawLift o.medium } .lift
  if s.drive.lift o.medium = .drawn then s1.strikeInterval p else s1

/-- Step 2: a feed brings the paper to the op's rise (R62). -/
def State.strikeRise (s : State) (o : Op) (p : Progress) : State :=
  if o.rise = s.engine.paperRise then s.strikeLift o p
  else (s.requestFeed (o.rise - s.engine.paperRise)).setStage .rise

/-- The wheel's move for the op in progress (R48). -/
def State.wheelMove (s : State) (p : Progress) : Bool × Nat :=
  match s.engine.petal with
  | some c => wheelPath c p.petal
  | none => (true, 0)

/-- Step 1: the moves, together at levels 3 and 4 and one after the other at levels 1 and 2 (R60, R62). -/
def State.strikeMoves (s : State) (o : Op) (p : Progress) : State :=
  let carriage := s.engine.awayFrom o.target
  let path := s.wheelMove p
  let wheel := decide (0 < path.2)
  if overlap p.level then
    if !carriage && !wheel then s.strikeRise o p
    else
      let s1 := if carriage then s.requestCarriage o.target p.level else s
      let s2 := if wheel then s1.requestWheel path p.level else s1
      s2.setStage (.moves carriage wheel)
  else if carriage then (s.requestCarriage o.target p.level).setStage .carriageFirst
  else if wheel then (s.requestWheel path p.level).setStage (.moves false true)
  else s.strikeRise o p

/-- Steps 6 and 7 have ended: step 8 requests the advance (R63). -/
def State.strikeAdvance (s : State) (o : Op) : State :=
  let steps := match o.medium with
    | .ribbon => ribbonSteps o.advance
    | .tape => 3
  State.setStage
    { s with
      drive := { s.drive.releaseLifts with ribbon := s.drive.ribbon.request o.medium steps } } .advance

/-! ## RETURN and FEED (R64, R65) -/

/-- The paper rise takes a value. -/
def State.setPaperRise (s : State) (r : Int) : State := { s with engine := { s.engine with paperRise := r } }

/-- A RETURN op's feed, after its carriage move or without one (R65); a feed of 0 has ended at once. -/
def State.returnFeed (s : State) (o : Op) : State :=
  if o.feed = 0 then (s.setPaperRise 0).completeOp else (s.requestFeed o.feed).setStage (.returning false true)

/-- A RETURN op begins (R65). -/
def State.startReturn (s : State) (o : Op) (p : Progress) : State :=
  let carriage := s.engine.awayFrom o.target
  if carriage then
    let s1 := s.requestCarriage o.target p.level
    if overlap p.level then
      if o.feed = 0 then (s1.setPaperRise 0).setStage (.returning true false)
      else (s1.requestFeed o.feed).setStage (.returning true true)
    else s1.setStage .returnCarriageFirst
  else s.returnFeed o

/-- A FEED op begins (R64). -/
def State.startFeed (s : State) (o : Op) : State :=
  if o.feed = 0 then s.completeOp else (s.requestFeed o.feed).setStage .feeding

/-- What the end of a FEED op does to the paper rise: a half-line adds to it, more moves the line's base (R64). -/
def State.feedRise (s : State) (n : Int) : State :=
  if n.natAbs = 1 then s.setPaperRise (s.engine.paperRise + n) else s

/-! ## Taking ops (R55) -/

/-- A STRIKE op begins: its petal is looked up, it may be dropped, and its width is fixed (R49, R55, R61). Of the two causes of a
drop, a character that is not on the wheel is named first (log entry 45). -/
def State.startStrike (s : State) (o : Op) (p : Progress) : State :=
  match petalFor s.engine.wheel o.char with
  | none => s.dropOp o false
  | some petal =>
    if o.medium = .tape ∧ s.engine.tapeSpent then s.dropOp o true
    else
      let p' : Progress :=
        { p with
          petal := petal,
          width := pulseWidth (impressionClass (s.engine.wheel.getD 0) o.char) o.impression o.medium p.level }
      State.strikeMoves { s with engine := { s.engine with progress := some p' } } o p'

/-- The op taken: the put-back op if there is one, and otherwise the op in the first slot (R55). -/
def Engine.nextOp (e : Engine) : Option (Op × List Op) :=
  match e.head, e.slots with
  | some o, slots => some (o, slots)
  | none, o :: slots => some (o, slots)
  | none, [] => none

/-- The engine takes an op: it becomes RUNNING, fixes the pace, and the op begins (R55). -/
def State.takeOp (s : State) (o : Op) (slots : List Op) : State :=
  let p : Progress :=
    { level := s.supply.ceiling, region := s.supply.region, petal := 0, width := 0, stage := .moves false false }
  let s1 := s.setQueue slots (some o)
  let s2 := State.setEngine { s1 with engine := { s1.engine with progress := some p } } .running
  match o.kind with
  | .strike => s2.startStrike o p
  | .feed => s2.startFeed o
  | .carriageReturn => s2.startReturn o p

/-- The engine may take an op: it is READY, no rest move is in progress and the re-home mark is clear (R55); a feed left
running by a fault is waited for (log entry 20). -/
def State.mayTake (s : State) : Bool :=
  decide (s.engine.state = .ready) && !s.engine.restMove && !s.engine.rehome && decide (s.drive.feed = .idle)

/-- The engine takes ops as long as it may: an op that is dropped or completes at once is followed by the next. The first
argument is fuel, at least the ops in the queue. -/
def State.takeOps : Nat → State → State
  | 0, s => s
  | n + 1, s =>
    if s.mayTake then
      match s.engine.nextOp with
      | some (o, slots) => (s.takeOp o slots).takeOps n
      | none => s
    else s

/-! ## Homing (R68, R69, R71) -/

/-- Homing begins: both lifts are released, and the first phase is due (R68). -/
def State.startHoming (s : State) (k : HomingKind) : State :=
  State.setEngine
    { s with
      drive := s.drive.releaseLifts,
      engine :=
        { s.engine with
          homing := some { kind := k, phase := if k = .wheelOnly then .wheelDue else .carriageDue } } }
    .homing

/-- Sets the phase of the homing in progress. -/
def State.setPhase (s : State) (p : HomingPhase) : State :=
  { s with engine := { s.engine with homing := s.engine.homing.map (fun h => { h with phase := p }) } }

/-- The carriage phase begins: the homing deadline runs, and the carriage moves right first if the home sensor reads
tripped (R68). -/
def State.beginCarriagePhase (s : State) : State :=
  let d := { s.drive with homingDeadline := some 3000 }
  if s.pins.homeTripped then
    State.setPhase { s with drive := { d with carriage := d.carriage.clearHome } } .clearing
  else State.setPhase { s with drive := { d with carriage := d.carriage.searchHome } } .searching

/-- The wheel phase begins and clears the re-home mark (R69, R71, R92). -/
def State.beginWheelPhase (s : State) : State :=
  State.setPhase
    { s with
      drive := { s.drive with wheel := s.drive.wheel.search, wheelDeadline := some (moveDeadline 192 240 1) },
      engine := { s.engine with rehome := false } }
    .wheelSearch

/-- A phase that is due begins once the cover is closed (R68, R71) and its channel is IDLE (log entry 20). -/
def State.advanceHoming (s : State) : State :=
  if s.engine.state = .homing ∧ ¬s.engine.holds.cover then
    match s.engine.homing with
    | some h =>
      match h.phase with
      | .carriageDue => if s.drive.carriage.isIdle then s.beginCarriagePhase else s
      | .wheelDue => if s.drive.wheel = .idle then s.beginWheelPhase else s
      | _ => s
    | none => s
  else s

/-- The text unit takes a wheel code (R8). -/
def TextUnit.wheelReport (t : TextUnit) (code : Nat) : TextUnit :=
  let pitch := match nativePitch code with
    | none => t.settings.pitch
    | some native =>
      if t.previousWheel ≠ some code then native
      else if t.settings.pitch = .ps ∧ native ≠ .ps then native
      else t.settings.pitch
  { t with settings := { t.settings with pitch := pitch }, previousWheel := some code }

/-- The home flag has been read whole (R69): petal 0 stands at the strike point, the code is mounted, WHEEL is set or
cleared, the code is reported to the text unit, and the homing ends. -/
def State.wheelHomed (s : State) (code : Nat) : State :=
  let s1 : State :=
    { s with
      drive := { s.drive with wheel := .idle, wheelDeadline := none },
      engine := { s.engine with petal := some 0, wheel := some code },
      text := s.text.wheelReport code }
  let s2 := s1.setHold .wheel (!hasTable code)
  let s3 := if hasTable code then (if s.engine.fault = .wheelLost then s2 else s2.unpost .wheel) else s2.post .wheel
  let s4 : State :=
    { s3 with
      engine :=
        { s3.engine with
          homing := none,
          startHomed := s3.engine.startHomed || (match s.engine.homing with
            | some h => decide (h.kind = .start)
            | none => false) } }
  s4.setEngine s4.engine.idleState

/-! ## Reports from the channels -/

/-- The carriage has come to rest (R62, R65, R67, R68, R80). -/
def State.atRest (s : State) : State :=
  let s1 : State := { s with drive := { s.drive with carriageDeadline := none } }
  match s.engine.homing with
  | some h =>
    if h.phase = .clearing then
      State.setPhase { s with drive := { s.drive with carriage := s.drive.carriage.searchHome } } .searching
    else s1
  | none =>
    match s.engine.head, s.engine.progress with
    | some o, some p =>
      match p.stage with
      | .moves true true => s1.setStage (.moves false true)
      | .moves true false => s1.strikeRise o p
      | .carriageFirst =>
        let path := s1.wheelMove p
        if 0 < path.2 then (s1.requestWheel path p.level).setStage (.moves false true) else s1.strikeRise o p
      | .returning true true => s1.setStage (.returning false true)
      | .returning true false => s1.completeOp
      | .returnCarriageFirst => s1.returnFeed o
      | _ => s1
    | _, _ => { s1 with engine := { s1.engine with restMove := false } }

/-- The carriage has been found home: its position is 0, the homing deadline stops, and the wheel phase is due (R68, R69,
R93). -/
def State.homeFound (s : State) : State :=
  State.setPhase
    { s with
      drive := { s.drive with homingDeadline := none },
      engine := { s.engine with carriage := some 0 } }
    .wheelDue

/-- The wheel move has ended: the current petal is its target (R48, R62, R93). -/
def State.wheelEnded (s : State) : State :=
  let s1 : State := { s with drive := { s.drive with wheel := .idle, wheelDeadline := none } }
  match s.engine.head, s.engine.progress with
  | some o, some p =>
    let s2 : State := { s1 with engine := { s1.engine with petal := some p.petal } }
    match p.stage with
    | .moves true true => s2.setStage (.moves true false)
    | .moves false true => s2.strikeRise o p
    | _ => s2
  | _, _ => s1

/-- The feed of a RETURN op that a fault left running has ended: the put-back op's feed is 0 and the paper rise 0 (R72). -/
def State.lateFeedEnded (s : State) : State :=
  { s with
    engine :=
      { s.engine with
        paperRise := 0, lateFeed := false,
        head := s.engine.head.map (fun o => if o.kind = .carriageReturn then { o with feed := 0 } else o) } }

/-- A feed has ended (R62, R64, R65, R72). -/
def State.feedEnded (s : State) : State :=
  let s1 : State := { s with drive := { s.drive with feed := .idle } }
  if s.engine.lateFeed then s1.lateFeedEnded
  else
    match s.engine.head, s.engine.progress with
    | some o, some p =>
      match p.stage with
      | .rise => (s1.setPaperRise o.rise).strikeLift o p
      | .feeding => (s1.feedRise o.feed).completeOp
      | .returning true true => (s1.setPaperRise 0).setStage (.returning true false)
      | .returning false true => (s1.setPaperRise 0).completeOp
      | _ => s1
    | _, _ => s1

/-! ## The idle engine (R67, R71) -/

/-- The rest point: pp in DIRECT mode, 1,599 for a pp of 1,600, and LM in LINE mode (R5, R67). -/
def TextUnit.restPoint (t : TextUnit) : Nat :=
  match t.settings.mode with
  | .direct => min t.pp 1599
  | .line => t.settings.lm

/-- An idle engine acts on the re-home mark, and otherwise, READY with an empty queue, begins a rest move if the carriage is
away from the rest point (R67, R71). -/
def State.idleEngine (s : State) : State :=
  if (s.engine.state = .ready ∨ s.engine.state = .held) ∧ s.engine.restMove = false then
    if s.engine.rehome then s.startHoming .wheelOnly
    else if s.engine.state = .ready ∧ s.engine.emptyMark ∧ s.engine.awayFrom s.text.restPoint
        ∧ s.drive.carriage.isIdle then
      let s1 := s.requestCarriage s.text.restPoint s.supply.ceiling
      { s1 with engine := { s1.engine with restMove := true } }
    else s
  else s

end Sys2Proof.Machine
end

