-- ==== Sys2Proof/Machine/Correction.lean ====
section
/-! DEFINITION. The correction unit (Chapter 5): choosing the entries to lift, the disposal of the current item, the tape
strikes and the closing. -/

namespace Sys2Proof.Machine

/-! ## Choosing entries (R96, R99 to R101) -/

/-- Some entries right to left: by position, greatest first, and at one position newest first (R96). -/
def rightToLeft (l : List Entry) : List Entry := (sortEntries l).reverse

/-- Whole positions taken from the right while they fit within 32 entries; `taken` counts those taken before (R101). The
first argument is fuel, at least the entries of the list. -/
def takePositions : Nat → Nat → List Entry → List Entry
  | 0, _, _ => []
  | _, _, [] => []
  | n + 1, taken, e :: es =>
    let here := (e :: es).takeWhile (fun x => decide (x.pos = e.pos))
    if taken + here.length ≤ 32 then
      here ++ takePositions n (taken + here.length) ((e :: es).drop here.length)
    else []

/-- The entries that WORD_CORRECT and LINE_CORRECT lift, limited to the rightmost 32 in whole positions (R101). -/
def limited (l : List Entry) : List Entry := takePositions l.length 0 (rightToLeft l)

/-- The chosen entries are handed to the correction unit, which builds its list with every item NEW; with one item or more
it becomes LIFTING and the text unit waits with CORRECTION (R98). -/
def State.startCorrection (s : State) (es : List Entry) : State :=
  if es.isEmpty then s
  else
    { s with
      corr :=
        { lifting := true, items := (rightToLeft es).map (fun e => { owner := e.id, status := .fresh }),
          tapeMark := false, closingMark := false, closingFeeds := 0 },
      text := { s.text with waiting := some .correction } }

/-! ## The current item (R97, R103 to R105, R110) -/

/-- The members of an item: its owner and the companions that still stand in the working line (R96). -/
def State.members (s : State) (i : Item) : List Entry :=
  s.text.work.entries.filter (fun e => decide (e.id = i.owner) || decide (e.owner = some i.owner))

/-- The current item: the first whose status is NEW, AWAIT_STRIKE or APPENDING (R97). -/
def Correction.current (c : Correction) : Option Item := c.items.find? (fun i => decide (i.status ≠ .inQueue))

/-- Sets the status of an item. -/
def Correction.setStatus (c : Correction) (owner : Nat) (st : ItemStatus) : Correction :=
  { c with items := c.items.map (fun i => if i.owner = owner then { i with status := st } else i) }

/-- The wheel check fails: CLICK, and the current item and every item after it leave the list (R110). -/
def State.stopCorrection (s : State) : State :=
  State.sound
    { s with corr := { s.corr with items := s.corr.items.filter (fun i => decide (i.status = .inQueue)) } } .click

/-- The owner's op is removed with the companions' ops that have not begun, the owner is removed with its companions, and
the item is complete (R103, R107). -/
def State.cancelItem (s : State) (owner : Entry) (unbegun : List Nat) : State :=
  (s.removeOps (Op.refersTo unbegun)).removeOwner owner

/-- The ops of the companions that have not begun are removed and those companions with them; the item awaits the strikes in
progress, or meets the wheel check once every member is PRINTED (R104, R105). -/
def State.awaitItem (s : State) (i : Item) (unbegun : List Entry) : State :=
  let s1 := s.removeOps (Op.refersTo (unbegun.map Entry.id))
  let s2 := unbegun.foldl State.removeCompanion s1
  let left := s2.members i
  if left.any (fun e => decide (e.state = .queued)) then
    { s2 with corr := s2.corr.setStatus i.owner .awaitStrike }
  else if left.all (fun e => onWheel s2.engine.wheel e.char) then
    { s2 with corr := s2.corr.setStatus i.owner .appending }
  else s2.stopCorrection

/-- Disposes of the current item by the first row of Table 5-2 that matches. An item whose owner no longer stands leaves the
list (R108). -/
def State.disposeItem (s : State) (i : Item) : State :=
  let ms := s.members i
  let unbegun := ms.filter (fun e => decide (e.state = .queued) && !s.engine.inProgress e.id)
  match ms.find? (fun e => decide (e.id = i.owner)) with
  | none => { s with corr := { s.corr with items := s.corr.items.filter (fun x => decide (x.owner ≠ i.owner)) } }
  | some owner =>
    if owner.state = .queued ∧ s.engine.inProgress owner.id = false then s.cancelItem owner (unbegun.map Entry.id)
    else s.awaitItem i unbegun

/-- The correction unit acts: it is LIFTING, and the engine is neither HALTED nor in DOWN (R112, R113). -/
def State.correcting (s : State) : Bool :=
  s.corr.lifting && decide (s.engine.state ≠ .halted) && !s.isDown

/-- Disposal of the current item, and of the next one as often as an item is completed at once; an APPENDING item stands
(R97). The first argument is fuel, at least the items of the list. -/
def State.disposeItems : Nat → State → State
  | 0, s => s
  | n + 1, s =>
    match s.corr.current with
    | none => s
    | some i => if i.status = .appending then s else (s.disposeItem i).disposeItems n

/-- The closing of a correction that appended no tape strike ends at once (R109). -/
def State.closeUntaped (s : State) : State :=
  if s.corr.items.isEmpty ∧ s.corr.tapeMark = false then { s with corr := .idle } else s

/-- What the correction unit does at once in an event: it disposes of its current items and may close. -/
def State.correctionActs (s : State) : State :=
  if s.correcting then (s.disposeItems (s.corr.items.length + 1)).closeUntaped else s

/-! ## Tape strikes (R105, R106) -/

/-- The members still to be struck, in the order of R106: the UNDERSCORE companions from right to left, the BOLD companion,
the owner. -/
def tapeOrder (ms : List Entry) : List Entry :=
  let left := ms.filter (fun e => decide (e.state = .printed))
  (rightToLeft (left.filter (fun e => decide (e.kind = .underscore))))
    ++ left.filter (fun e => decide (e.kind = .bold)) ++ left.filter Entry.isChar

/-- The tape strike of a member (Table 5-3), at HEAVY if another wheel than the one mounted as it is appended struck the member
(R105; log entry 50). -/
def State.tapeOp (s : State) (e : Entry) : Op :=
  { kind := .strike, target := e.strikePos, char := e.char,
    impression := if e.wheel = s.engine.wheel then s.text.settings.impression else .heavy,
    medium := .tape, advance := e.width, feed := 0, rise := e.rise, ref := some e.id, origin := .correction }

/-- Appends the tape strike of a member, which becomes LIFTING; the tape mark is set, and with the owner's strike the item
becomes IN_QUEUE (R106). -/
def State.appendTape (s : State) (i : Item) (e : Entry) : State :=
  let s1 := (s.appendOp (s.tapeOp e)).setEntryState e.id .lifting
  let c : Correction := { s1.corr with tapeMark := true }
  { s1 with corr := if e.isChar then c.setStatus i.owner .inQueue else c }

/-- The TAPE_APPEND event: with an APPENDING item and a free slot the next tape strike is appended (R106). -/
def State.tapeAppend (s : State) : State :=
  if s.correcting ∧ 0 < s.freeSlots then
    match s.corr.current with
    | some i =>
      if i.status = .appending then
        match tapeOrder (s.members i) with
        | e :: _ => s.appendTape i e
        | [] => s
      else s
    | none => s
  else s

/-! ## The closing (R109) -/

/-- The closing of a correction that used tape, once the strike queue is empty: the restoring feeds are appended and the
closing mark is set, or the unit becomes IDLE. -/
def State.correctionClosing (s : State) : State :=
  if s.correcting ∧ s.corr.items.isEmpty ∧ s.corr.tapeMark ∧ s.corr.closingMark = false ∧ s.engine.emptyMark then
    let d := s.text.settings.rise - s.engine.paperRise
    if d = 0 then { s with corr := .idle }
    else
      let s1 := (List.replicate d.natAbs (feedOp (if 0 < d then 1 else -1) .correction)).foldl State.appendOp s
      { s1 with corr := { s1.corr with closingMark := true, closingFeeds := d.natAbs } }
  else s

end Sys2Proof.Machine
end

