-- ==== Sys2Proof/Machine/Typing.lean ====
section
/-! DEFINITION. The text unit's common operations (Chapter 1): slots, waiting, the placement of a character, dispatches,
held runs and the feeding of their ops. -/

namespace Sys2Proof.Machine

/-! ## Waiting and slots (R11, R12) -/

/-- The text unit waits, and an action already taken is to go on at a stage when the wait ends (R12). -/
def State.waitFor (s : State) (w : Waiting) (a : Action) (st : ResumeStage) : State :=
  { s with text := { s.text with waiting := some w, resume := some { action := a, stage := st } } }

/-- The underscore strokes that a character needs: those of its width, or one for a character whose width at PS the mounted
wheel does not give (R31, R34). -/
def State.strokesFor (s : State) (c : Nat) : Nat :=
  if (cell s.text.settings.pitch).isSome ∨ onWheel s.engine.wheel c then
    strokeCount (widthAt s.text.settings.pitch s.engine.wheel c)
  else 1

/-- The slots of a direct-mode CHAR (Table 1-4). -/
def State.charSlots (s : State) (c : Nat) : Nat :=
  1 + s.text.settings.bold.toNat + (if s.text.settings.underline then s.strokesFor c else 0)

/-- The run that stands is a DECIMAL run that this character ends (R23). -/
def State.endsDecimal (s : State) (c : Nat) : Bool :=
  match s.text.run with
  | some h => decide (h.kind = .decimal) && decide (c = s.intake.decimal)
  | none => false

/-- The strike-queue slots that an action needs (Table 1-4). -/
def State.slotsNeeded (s : State) (a : Action) : Nat :=
  match a.kind with
  | .char =>
    if s.text.settings.mode = .direct ∧ (s.text.run.isNone ∨ s.endsDecimal a.code) then s.charSlots a.code else 0
  | .index | .reverseIndex =>
    if s.text.settings.mode = .direct then 1 else if s.text.print.isNone then 1 else 0
  | .halfUp | .halfDown => if s.text.settings.mode = .direct then 1 else 0
  | .carriageReturn => if s.text.settings.mode = .direct ∧ s.text.run.isNone then 1 else 0
  | _ => 0

/-! ## Small changes -/

/-- Sets pp. -/
def State.setPp (s : State) (p : Nat) : State := { s with text := { s.text with pp := p } }

/-- Changes the settings. -/
def State.setSettings (s : State) (x : Settings) : State := { s with text := { s.text with settings := x } }

/-- A taken edit clears the spell-stop armed mark (R134). DESIGN CHOICE (log entry 61): one that waits with PRINT_LINE_BUSY
clears it when it goes on. -/
def State.edited (s : State) : State := { s with text := { s.text with armed := false } }

/-- Changes the working line. -/
def State.setWork (s : State) (r : LineRecord) : State := { s with text := { s.text with work := r } }

/-- The edit of an action taken in line mode (R134). -/
def State.lineEdit (s : State) : State := if s.text.settings.mode = .line then s.edited else s

/-- The bell rule for a CHARACTER entry at a position with a width (R15, R36). -/
def State.bell (s : State) (p w : Nat) : State :=
  if entersBell s.text.settings.rm p w ∧ s.text.bellGiven = false then
    State.sound { s with text := { s.text with bellGiven := true } } .bell
  else s

/-- The word end of an action whose word point is `p`, for an action that may make one (R118). -/
def State.endWord (s : State) (p : Nat) (ends : Bool) : State := if ends then s.wordEnd p else s

/-- The stop at the left of a BACKSPACE: LM, or 0 under margin release (R17). -/
def Settings.leftStop (x : Settings) : Nat := if x.marginRelease then 0 else x.lm

/-! ## Placing a character (R15, R16, R23, R26) -/

/-- The placement of a character at pp with the settings in force (R31, R32). -/
def State.placement (s : State) (c : Nat) : Placement :=
  { char := c, pos := s.text.pp, width := widthAt s.text.settings.pitch s.engine.wheel c,
    offset := offsetAt s.text.settings.pitch s.engine.wheel c, rise := s.text.settings.rise,
    bold := s.text.settings.bold, underline := s.text.settings.underline }

/-- The character, or the stroke it is to be underlined with, is not on the mounted wheel (R15). -/
def State.offWheel (s : State) (c : Nat) : Bool :=
  !onWheel s.engine.wheel c || (s.text.settings.underline && !onWheel s.engine.wheel 95)

/-- The refusals of R15 that do not read RM. -/
def State.noPlace (s : State) (c : Nat) : Bool :=
  let p := s.placement c
  s.offWheel c || decide (1600 < p.pos + p.width)
    || decide (320 < s.text.work.entries.length + entryCount p.width p.bold p.underline)
    || decide (2 ≤ (s.text.work.charsAt p.pos).length)

/-- The entry would end beyond RM with margin release off. -/
def State.pastRm (s : State) (w : Nat) : Bool :=
  decide (s.text.settings.rm < s.text.pp + w) && !s.text.settings.marginRelease

/-- Adds the entries of a placement to the working line in a state (R2, R3). -/
def State.addEntries (s : State) (p : Placement) (st : EntryState) : State :=
  let es := makeEntries s.nextId p st
  { s with nextId := s.nextId + es.length, text := { s.text with work := s.text.work.addAll es } }

/-- A direct-mode placement: the entries join QUEUED with one STRIKE op each, owner first; pp advances, the bell rule
applies, and a character that continues no word makes a word end (R15, R16, R118). -/
def State.placeDirect (s : State) (a : Action) (ends : Bool) : State :=
  let p := s.placement a.code
  let es := makeEntries s.nextId p .queued
  let s1 := (es.map (fun e => strikeOp e s.text.settings.impression)).foldl State.appendOp (s.addEntries p .queued)
  ((s1.setPp (p.pos + p.width)).bell p.pos p.width).endWord p.pos (ends && !continuesWord a.code)

/-- A CHAR in direct mode outside a held run (R15). -/
def State.charDirect (s : State) (a : Action) (ends : Bool) : State :=
  if s.isLocked ∨ s.noPlace a.code ∨ s.pastRm (s.placement a.code).width then s.refuse a else s.placeDirect a ends

/-- A line-mode placement: the entries join PENDING (R26). -/
def State.placePending (s : State) (c : Nat) : State :=
  let p := s.placement c
  (((s.addEntries p .pending).setPp (p.pos + p.width)).edited).bell p.pos p.width

/-! ## Dispatch (R27, R43 to R47) -/

/-- The return feed of a dispatch: the spacing less the rise of the entry that comes last, or the spacing (R27). -/
def returnFeedOf (spacing : Nat) (l : List Entry) : Int :=
  match l.getLast? with
  | some e => spacing - e.rise
  | none => spacing

/-- Entries of a word moved to the new line by LM − ws, in the order of their making (R2, R43). -/
def carriedEntries (lm ws : Nat) (l : List Entry) : List Entry :=
  byOrder (moveOwners (fun _ => (lm : Int) - ws) l)

/-- A dispatch, its waits and refusals past. `word` lists the carried CHARACTER entries; `newPp` is LM or the end of the
carried word (R27). -/
def State.dispatch (s : State) (wrapped : Bool) (word : List Entry) : State :=
  let x := s.text.settings
  let ids := word.map Entry.id
  let carried := s.text.work.entries.filter (fun e => ids.contains (ownerId e))
  let rest := s.text.work.entries.filter (fun e => !ids.contains (ownerId e))
  let moved := if wrapped && x.justify then justified x.pitch x.rm rest else rest
  let ws := leastPos x.lm word
  let line : PrintLine :=
    { record := { entries := moved, counter := s.text.work.counter }, returnFeed := returnFeedOf x.spacing moved,
      impression := x.impression, returnAppended := false }
  let s1 : State :=
    { s with
      text :=
        { s.text with
          print := some line,
          work := LineRecord.empty.addAll (carriedEntries x.lm ws carried),
          pp := if word.isEmpty then x.lm else x.lm + (s.text.pp - ws),
          settings := if wrapped then x else { x with rise := 0, marginRelease := false },
          bellGiven := false, armed := false } }
  let s2 := if wrapped && x.justify && justLimit x.pitch x.rm (rest.filter Entry.isChar) then s1.post .justLimit else s1
  s2.moveWords ids

/-- The dispatch of a line-mode RETURN: it waits while the print line exists and is refused by a LOCKED engine (R27). -/
def State.returnDispatch (s : State) (a : Action) : State :=
  if s.text.print.isSome then s.waitFor .printLineBusy a .dispatch
  else if s.isLocked then s.refuse a
  else s.dispatch false []

/-- The dispatch that a line-mode SPACE makes at the right margin; its word end comes before the dispatch (R44, R118). DESIGN
CHOICE (log entry 61): a SPACE that waits leaves the armed mark as it is until its dispatch clears it (R134). -/
def State.spaceDispatch (s : State) (a : Action) (ends : Bool) : State :=
  if s.text.print.isSome then s.waitFor .printLineBusy a .dispatch
  else if s.isLocked then s.refuse a
  else (s.endWord s.text.pp ends).dispatch true []

/-- The wrapped dispatch of a CHAR and the placement after it (R42, cases 3 and 6). A CHAR that waits goes on at case 1 of its
wrap, and its dispatch then clears the armed mark (log entry 61). -/
def State.wrapChar (s : State) (a : Action) (word : List Entry) : State :=
  if s.text.print.isSome then s.waitFor .printLineBusy a .wrap
  else if s.isLocked then s.refuse a
  else ((s.endWord s.text.pp (!continuesWord a.code)).dispatch true word).placePending a.code

/-- How many entries a wrap carries: the CHARACTER entries of the word with their companions (R43). -/
def State.carriedCount (s : State) (word : List Entry) : Nat :=
  (s.text.work.entries.filter (fun e => (word.map Entry.id).contains (ownerId e))).length

/-- The new line could not take the character and its companions behind the carried word within the 320 entries of a record
(R1). -/
def State.carryFull (s : State) (a : Action) (word : List Entry) : Bool :=
  let p := s.placement a.code
  decide (320 < s.carriedCount word + entryCount p.width p.bold p.underline)

/-- A line-mode CHAR that would end beyond RM (R42). One that the new line could not take within 320 entries behind the carried
word is refused before anything changes (R1; log entry 44). -/
def State.charWrap (s : State) (a : Action) : State :=
  let x := s.text.settings
  let w := (s.placement a.code).width
  let word := s.text.work.wordAt s.text.pp
  let ws := leastPos x.lm word
  if s.offWheel a.code ∨ x.rm < x.lm + w then s.refuse a
  else if word.isEmpty then s.wrapChar a []
  else if ws ≤ x.lm ∨ s.text.work.chars.length ≤ word.length then s.refuse a
  else if x.rm - x.lm < (s.text.pp - ws) + w then s.refuse a
  else if s.carryFull a word then s.refuse a
  else s.wrapChar a word

/-- A CHAR in line mode (R26). -/
def State.charLine (s : State) (a : Action) (ends : Bool) : State :=
  if s.pastRm (s.placement a.code).width then s.charWrap a
  else if s.noPlace a.code then s.refuse a
  else (s.placePending a.code).endWord s.text.pp (ends && !continuesWord a.code)

/-- A CHAR with no held run standing (R15, R26). -/
def State.charPlain (s : State) (a : Action) (ends : Bool) : State :=
  match s.text.settings.mode with
  | .direct => s.charDirect a ends
  | .line => s.charLine a ends

/-! ## SPACE, BACKSPACE, TAB (R17, R26, R114) -/

/-- A SPACE with no held run standing. -/
def State.spacePlain (s : State) (a : Action) (ends : Bool) : State :=
  let p := s.text.pp + spaceWidth s.text.settings.pitch
  if s.pastRm (spaceWidth s.text.settings.pitch) then
    match s.text.settings.mode with
    | .direct => s.refuse a
    | .line => s.spaceDispatch a ends
  else if 1600 < p then s.refuse a
  else ((s.setPp p).lineEdit).endWord s.text.pp ends

/-- A BACKSPACE is refused where it stands (R17). -/
def State.backRefused (s : State) : Bool := decide (s.text.pp ≤ s.text.settings.leftStop)

/-- Where a direct-mode BACKSPACE moves pp (R17). -/
def State.backTarget (s : State) : Nat :=
  match s.text.work.newestEndingAt s.text.pp with
  | some e => max s.text.settings.leftStop e.pos
  | none => max s.text.settings.leftStop (s.text.pp - spaceWidth s.text.settings.pitch)

/-- A direct-mode BACKSPACE, which removes no entry (R17). -/
def State.backDirect (s : State) (a : Action) : State := if s.backRefused then s.refuse a else s.setPp s.backTarget

/-- A line-mode BACKSPACE or CORRECT (R114). -/
def State.backLine (s : State) (a : Action) : State :=
  match s.text.work.newestEndingAt s.text.pp with
  | some e => ((s.removeOwner e).setPp e.pos).edited
  | none => if s.backRefused then s.refuse a else (s.setPp s.backTarget).edited

/-- The smallest tab stop greater than pp and less than RM (R17, R22). -/
def State.nextTab (s : State) : Option Nat :=
  s.text.settings.tabs.find? (fun t => decide (s.text.pp < t) && decide (t < s.text.settings.rm))

/-- A TAB with no held run standing (R17). -/
def State.tabPlain (s : State) (a : Action) (ends : Bool) : State :=
  match s.nextTab with
  | none => s.refuse a
  | some t => ((s.setPp t).lineEdit).endWord s.text.pp ends

/-! ## RETURN (R20, R133) -/

/-- A direct-mode RETURN with no held run standing (R20). -/
def State.returnDirect (s : State) (a : Action) : State :=
  if s.isLocked then s.refuse a
  else
    let x := s.text.settings
    let s1 := (s.appendOp (returnOp x.lm (x.spacing - x.rise))).emptyWork
    { s1 with
      text :=
        { s1.text with
          pp := x.lm, settings := { x with rise := 0, marginRelease := false }, bellGiven := false } }

/-- A CHARACTER entry of the working line carries the mark UNKNOWN. -/
def State.unknownStands (s : State) : Bool := s.text.work.chars.any (fun e => decide (e.mark = .unknown))

/-- Steps 4 and 5 of spell-stop (R133). -/
def State.verdictsIn (s : State) (a : Action) : State :=
  if s.unknownStands then
    State.refuse (State.post { s with text := { s.text with armed := true } } .checkWord) a
  else s.returnDispatch a

/-- A line-mode RETURN (R118, R133): its word end, then spell-stop under CHECK_STOP with the armed mark clear, then the dispatch.
A RETURN that a LOCKED engine refuses at once in its dispatch has made no word end (R13, R118; log entry 12). -/
def State.returnLine (s : State) (a : Action) : State :=
  let s1 := s.wordEnd s.text.pp
  let stops : Bool := decide (s.text.settings.spell = .checkStop) && !s.text.armed
  if stops && !s1.spell.lineSettled then s1.waitFor .verdicts a .verdicts
  else if stops && s1.unknownStands then s1.verdictsIn a
  else if s.text.print.isNone && s.isLocked then s.refuse a
  else s1.returnDispatch a

/-- A RETURN with no held run standing. -/
def State.returnPlain (s : State) (a : Action) : State :=
  match s.text.settings.mode with
  | .direct => s.returnDirect a
  | .line => s.returnLine a

/-! ## INDEX, REVERSE_INDEX, HALF_UP, HALF_DOWN (R18) -/

/-- INDEX (`n` = +spacing) or REVERSE_INDEX (`n` = −spacing). -/
def State.indexPlain (s : State) (a : Action) (n : Int) : State :=
  if s.isLocked then s.refuse a
  else if s.text.settings.mode = .line ∧ s.text.print.isSome then s.waitFor .printLineBusy a .afresh
  else if s.freeSlots = 0 then s.waitFor (.queueRoom 1) a .afresh
  else s.appendOp (feedOp n .text)

/-- HALF_DOWN (`d` = 1) or HALF_UP (`d` = −1). -/
def State.halfPlain (s : State) (a : Action) (d : Int) : State :=
  let r := s.text.settings.rise + d
  if 2 < r.natAbs then s.refuse a
  else
    match s.text.settings.mode with
    | .line => s.setSettings { s.text.settings with rise := r }
    | .direct =>
      if s.isLocked then s.refuse a
      else (s.appendOp (feedOp d .text)).setSettings { s.text.settings with rise := r }

/-! ## The correction actions with no held run standing (R98 to R102, R114, R115) -/

/-- CORRECT in direct mode (R99). -/
def State.correctDirect (s : State) (a : Action) : State :=
  if s.isLocked ∨ s.backRefused then s.refuse a
  else (s.setPp s.backTarget).startCorrection (s.text.work.charsAt s.backTarget)

/-- The word point of WORD_CORRECT: pp, or the greatest end less than pp; none if there is none (R100, R115). -/
def State.wordPoint (s : State) : Option Nat :=
  if (s.text.work.newestEndingAt s.text.pp).isSome then some s.text.pp
  else
    match s.text.work.chars.filter (fun e => decide (e.endPos < s.text.pp)) with
    | [] => none
    | e :: es => some (greatestEnd 0 (e :: es))

/-- WORD_CORRECT in direct mode (R100). -/
def State.wordCorrectDirect (s : State) (a : Action) : State :=
  if s.isLocked then s.refuse a
  else
    match s.wordPoint with
    | none => s.refuse a
    | some p => (s.setPp p).startCorrection (limited (s.text.work.wordAt p))

/-- LINE_CORRECT in direct mode (R101). -/
def State.lineCorrectDirect (s : State) (a : Action) : State :=
  if s.isLocked ∨ s.text.work.chars.isEmpty then s.refuse a else s.startCorrection (limited s.text.work.chars)

/-- WORD_CORRECT in line mode (R115). -/
def State.wordCorrectLine (s : State) (a : Action) : State :=
  match s.wordPoint with
  | none => s.refuse a
  | some p =>
    let word := s.text.work.wordAt p
    ((s.removeOwners word).setPp (leastPos p word)).edited

/-- LINE_CORRECT in line mode (R115). -/
def State.lineCorrectLine (s : State) (a : Action) : State :=
  if s.text.work.entries.isEmpty ∧ s.text.pp = s.text.settings.lm then s.refuse a
  else
    let s1 := (s.emptyWork.setPp s.text.settings.lm).edited
    { s1 with text := { s1.text with bellGiven := false } }

/-- RELOCATE with no held run standing (R102). -/
def State.relocatePlain (s : State) : State :=
  match s.text.settings.mode with
  | .direct => s.setPp (greatestEnd s.text.settings.lm s.text.work.chars)
  | .line => s

/-! ## Held runs (R22 to R25, R116) -/

/-- Opens a run; refused in line mode (R22). -/
def State.openRun (s : State) (a : Action) (k : RunKind) : State :=
  match s.text.settings.mode with
  | .line => s.refuse a
  | .direct =>
    match k with
    | .decimal =>
      match s.nextTab with
      | none => s.refuse a
      | some t =>
        { s with
          text :=
            { s.text with
              pp := t, run := some { kind := k, startPp := s.text.pp, origin := t, members := [] } } }
    | _ =>
      { s with
        text := { s.text with run := some { kind := k, startPp := s.text.pp, origin := s.text.pp, members := [] } } }

/-- The length that the run would have with pp at `p` breaks its limit (R23, Table 2-4). -/
def State.overLong (s : State) (h : HeldRun) (p : Nat) : Bool :=
  decide (runLimit h.kind s.text.settings.lm s.text.settings.rm h.startPp h.origin < p - h.origin)

/-- A CHAR added to a run (R23). -/
def State.runChar (s : State) (h : HeldRun) (a : Action) : State :=
  let p := s.placement a.code
  if s.noPlace a.code ∨ 40 ≤ h.members.length ∨ s.overLong h (p.pos + p.width) then s.refuse a
  else
    let s1 := (s.addEntries p .pending).setPp (p.pos + p.width)
    { s1 with text := { s1.text with run := some { h with members := h.members ++ [s.nextId] } } }

/-- A SPACE in a CENTER or FLUSH run (R23). -/
def State.runSpace (s : State) (h : HeldRun) (a : Action) : State :=
  let p := s.text.pp + spaceWidth s.text.settings.pitch
  if 1600 < p ∨ s.overLong h p then s.refuse a else s.setPp p

/-- The CHARACTER entries of a run. -/
def State.runChars (s : State) (h : HeldRun) : List Entry :=
  s.text.work.chars.filter (fun e => h.members.contains e.id)

/-- BACKSPACE or CORRECT in a run (R116). -/
def State.runDelete (s : State) (h : HeldRun) (a : Action) : State :=
  if s.text.pp = h.origin then s.refuse a
  else
    match newest ((s.runChars h).filter (fun e => decide (e.endPos = s.text.pp))) with
    | some e => (s.removeOwner e).setPp e.pos
    | none =>
      s.setPp (max (s.text.pp - spaceWidth s.text.settings.pitch) (max h.origin (greatestEnd 0 (s.runChars h))))

/-- The action is the run's own, which ends it and does nothing more (R22, R25). -/
def HeldRun.ownAction (h : HeldRun) (k : ActionKind) : Bool :=
  match h.kind with
  | .center => decide (k = .center)
  | .flush => decide (k = .flushRight)
  | .decimal => false

/-- The run CHARACTER entries that are the third at their position (R25). -/
def thirdEntries (r : LineRecord) (members : List Nat) : List Entry :=
  r.chars.filter (fun e => members.contains e.id && decide (2 < (r.charsAt e.pos).length))

/-- The run is moved to its final place and the entries that are a third at their position are removed, with one CLICK for a
keyboard action; the run ceases to stand, pp follows it, and the bell rule applies to each entry (R25, R37). -/
def State.settleRun (s : State) (h : HeldRun) (a : Action) : State :=
  let x := s.text.settings
  let len := s.text.pp - h.origin
  let final := finalStart h.kind x.lm x.rm h.startPp h.origin len
  let shift : Int := (final : Int) - h.origin
  let s1 := s.setWork
    { s.text.work with
      entries := moveOwners (fun e => if h.members.contains e.id then shift else 0) s.text.work.entries }
  let thirds := thirdEntries s1.text.work h.members
  let s2 := s1.removeOwners thirds
  let s3 : State := { s2 with text := { s2.text with run := none, pp := final + len } }
  let s4 := if thirds.isEmpty then s3 else s3.refuse a
  (s3.runChars h).foldl (fun acc e => acc.bell e.pos e.width) s4

/-- The entries of an ended run in the order in which they are fed (R25). -/
def State.runEntries (s : State) (h : HeldRun) : List Nat :=
  (s.text.work.entries.filter (fun e => h.members.contains (ownerId e))).map Entry.id

/-- The ended run feeds its ops, and the action that ended it goes on afterwards (R25). -/
def State.feedRun (s : State) (ids : List Nat) (a : Action) (st : ResumeStage) : State :=
  State.waitFor { s with text := { s.text with feeding := ids } } .runFeeding a st

/-- The HELD_RUN_FEED event: with a free slot the next entry's op is appended; after the last one the wait ends, and an own
action has nothing left to do (R25). -/
def State.heldRunFeed (s : State) : State :=
  if s.text.waiting = some .runFeeding ∧ 0 < s.freeSlots ∧ s.isDown = false then
    match s.text.feeding with
    | [] => s
    | id :: rest =>
      let s1 : State := { s with text := { s.text with feeding := rest } }
      match s.text.find id with
      | none => s1
      | some e => (s1.appendOp (strikeOp e s.text.settings.impression)).setEntryState id .queued
  else s

/-- The entries of the print line that have not been fed, in order. -/
def PrintLine.unfed (p : PrintLine) : List Entry := p.record.entries.filter (fun e => decide (e.state = .pending))

/-- The PRINT_LINE_FEED event: with a free slot the next entry's op is appended, and after the last entry the RETURN op
(R28). -/
def State.printLineFeed (s : State) : State :=
  if 0 < s.freeSlots ∧ s.isDown = false then
    match s.text.print with
    | none => s
    | some p =>
      match p.unfed with
      | e :: _ => (s.appendOp (strikeOp e p.impression)).setEntryState e.id .queued
      | [] =>
        if p.returnAppended then s
        else
          State.appendOp { s with text := { s.text with print := some { p with returnAppended := true } } }
            (returnOp s.text.settings.lm p.returnFeed)
  else s

end Sys2Proof.Machine
end

