-- ==== Sys2Proof/Machine/Actions.lean ====
section
/-! DEFINITION. The setting actions (R7, R19, R21), the handling of an action with and without a held run (R24), the end of
a run (R25), and the continuing of an action whose wait has ended (R12). -/

namespace Sys2Proof.Machine

/-! ## Tab stops (R7) -/

/-- Inserts a stop at its place in the order; a stop already in the list stands once. -/
def insertTab (t : Nat) : List Nat → List Nat
  | [] => [t]
  | x :: xs => if t < x then t :: x :: xs else if t = x then x :: xs else x :: insertTab t xs

/-- TAB_SET of a position; refused with 24 stops, unless the position is in the list already (R7). -/
def State.setTab (s : State) (a : Action) (p : Nat) : State :=
  if s.text.settings.tabs.contains p then s
  else if 24 ≤ s.text.settings.tabs.length then s.refuse a
  else s.setSettings { s.text.settings with tabs := insertTab p s.text.settings.tabs }

/-- TAB_SET (R7). -/
def State.tabSet (s : State) (a : Action) : State :=
  match a.value with
  | some v => s.setTab a (min v 1599)
  | none => if s.text.pp = 1600 then s.refuse a else s.setTab a s.text.pp

/-- TAB_CLEAR (R7). -/
def State.tabClear (s : State) : State :=
  s.setSettings { s.text.settings with tabs := s.text.settings.tabs.filter (fun t => decide (t ≠ s.text.pp)) }

/-- TAB_CLEAR_ALL (R7). -/
def State.tabClearAll (s : State) : State := s.setSettings { s.text.settings with tabs := [] }

/-! ## Margins (R6, R21) -/

/-- LM_SET (R21). -/
def State.lmSet (s : State) (a : Action) : State :=
  match a.value with
  | some v =>
    if min v 1599 < s.text.settings.rm then s.setSettings { s.text.settings with lm := min v 1599 } else s
  | none => if s.text.pp < s.text.settings.rm then s.setSettings { s.text.settings with lm := s.text.pp } else s.refuse a

/-- RM_SET (R21). -/
def State.rmSet (s : State) (a : Action) : State :=
  match a.value with
  | some v =>
    if s.text.settings.lm < max 1 (min v 1600) then
      s.setSettings { s.text.settings with rm := max 1 (min v 1600) }
    else s
  | none => if s.text.settings.lm < s.text.pp then s.setSettings { s.text.settings with rm := s.text.pp } else s.refuse a

/-- MARGIN_RELEASE (R6). -/
def State.marginRelease (s : State) : State := s.setSettings { s.text.settings with marginRelease := true }

/-! ## The cycled settings (R21, Tables 1-6 and 11-4) -/

/-- The pitch after a keyboard PITCH: PS is skipped on a fixed-pitch wheel. -/
def nextPitch (proportional : Bool) (p : Pitch) : Pitch :=
  match p with
  | .p10 => .p12
  | .p12 => .p15
  | .p15 => if proportional then .ps else .p10
  | .ps => .p10

/-- The pitch of a setting value; PS is not offered on a fixed-pitch wheel. -/
def pitchOf (proportional : Bool) (v : Nat) : Option Pitch :=
  match v with
  | 0 => some .p10
  | 1 => some .p12
  | 2 => some .p15
  | 3 => if proportional then some .ps else none
  | _ => none

/-- PITCH (R21). -/
def State.setPitch (s : State) (a : Action) : State :=
  let prop := proportional s.engine.wheel
  match a.value with
  | none => s.setSettings { s.text.settings with pitch := nextPitch prop s.text.settings.pitch }
  | some v =>
    match pitchOf prop v with
    | some p => s.setSettings { s.text.settings with pitch := p }
    | none => s

/-- SPACING (R21). -/
def State.setSpacing (s : State) (a : Action) : State :=
  match a.value with
  | none =>
    s.setSettings
      { s.text.settings with spacing := if s.text.settings.spacing < 4 then s.text.settings.spacing + 1 else 2 }
  | some v => s.setSettings { s.text.settings with spacing := max 2 (min v 4) }

/-- The impression after a keyboard IMPRESSION. -/
def nextImpression (i : Impression) : Impression :=
  match i with
  | .light => .normal
  | .normal => .heavy
  | .heavy => .light

/-- The impression of a setting value. -/
def impressionOf (v : Nat) : Option Impression :=
  match v with
  | 0 => some .light
  | 1 => some .normal
  | 2 => some .heavy
  | _ => none

/-- IMPRESSION (R21). -/
def State.setImpression (s : State) (a : Action) : State :=
  match a.value with
  | none => s.setSettings { s.text.settings with impression := nextImpression s.text.settings.impression }
  | some v =>
    match impressionOf v with
    | some i => s.setSettings { s.text.settings with impression := i }
    | none => s

/-- UNDERLINE (R21). -/
def State.toggleUnderline (s : State) : State :=
  s.setSettings { s.text.settings with underline := !s.text.settings.underline }

/-- BOLD (R21). -/
def State.toggleBold (s : State) : State := s.setSettings { s.text.settings with bold := !s.text.settings.bold }

/-- JUSTIFY (R21). -/
def State.setJustify (s : State) (a : Action) : State :=
  match a.value with
  | none => s.setSettings { s.text.settings with justify := !s.text.settings.justify }
  | some 0 => s.setSettings { s.text.settings with justify := false }
  | some 1 => s.setSettings { s.text.settings with justify := true }
  | some _ => s

/-- The spell setting after a keyboard SPELL. -/
def nextSpell (x : SpellSetting) : SpellSetting :=
  match x with
  | .off => .check
  | .check => .checkStop
  | .checkStop => .off

/-- The spell setting of a setting value. -/
def spellOf (v : Nat) : Option SpellSetting :=
  match v with
  | 0 => some .off
  | 1 => some .check
  | 2 => some .checkStop
  | _ => none

/-- SPELL (R21). -/
def State.setSpell (s : State) (a : Action) : State :=
  match a.value with
  | none => s.setSettings { s.text.settings with spell := nextSpell s.text.settings.spell }
  | some v =>
    match spellOf v with
    | some x => s.setSettings { s.text.settings with spell := x }
    | none => s

/-! ## MODE (R19) -/

/-- The other mode. -/
def Mode.other (m : Mode) : Mode :=
  match m with
  | .direct => .line
  | .line => .direct

/-- A change of mode, which asks for a STATE (R9, R19). -/
def State.changeMode (s : State) (a : Action) : State :=
  if s.text.work.entries.isEmpty = false ∨ s.text.run.isSome then s.refuse a
  else if s.text.settings.mode = .line ∧ s.text.print.isSome then s.waitFor .printLineBusy a .afresh
  else State.askState (s.setSettings { s.text.settings with mode := s.text.settings.mode.other })

/-- MODE (R19): an interface value that names the mode in force, or none, changes nothing. -/
def State.setMode (s : State) (a : Action) : State :=
  match a.value with
  | none => s.changeMode a
  | some v => if v < 2 ∧ v ≠ s.text.settings.mode.code then s.changeMode a else s

/-! ## An action with no held run standing -/

/-- The handling of an action with no held run standing; `ends` is false for an action that ended a run, which makes no word
end (R118). -/
def State.performPlain (s : State) (a : Action) (ends : Bool) : State :=
  match a.kind with
  | .char => s.charPlain a ends
  | .space => s.spacePlain a ends
  | .backspace =>
    match s.text.settings.mode with
    | .direct => s.backDirect a
    | .line => s.backLine a
  | .carriageReturn => s.returnPlain a
  | .tab => s.tabPlain a ends
  | .index => s.indexPlain a s.text.settings.spacing
  | .reverseIndex => s.indexPlain a (-(s.text.settings.spacing : Int))
  | .halfUp => s.halfPlain a (-1)
  | .halfDown => s.halfPlain a 1
  | .correct =>
    match s.text.settings.mode with
    | .direct => s.correctDirect a
    | .line => s.backLine a
  | .wordCorrect =>
    match s.text.settings.mode with
    | .direct => s.wordCorrectDirect a
    | .line => s.wordCorrectLine a
  | .lineCorrect =>
    match s.text.settings.mode with
    | .direct => s.lineCorrectDirect a
    | .line => s.lineCorrectLine a
  | .relocate => s.relocatePlain
  | .tabSet => s.tabSet a
  | .tabClear => s.tabClear
  | .tabClearAll => s.tabClearAll
  | .lmSet => s.lmSet a
  | .rmSet => s.rmSet a
  | .marginRelease => s.marginRelease
  | .pitch => s.setPitch a
  | .spacing => s.setSpacing a
  | .impression => s.setImpression a
  | .mode => s.setMode a
  | .underline => s.toggleUnderline
  | .bold => s.toggleBold
  | .center => s.openRun a .center
  | .flushRight => s.openRun a .flush
  | .decimalTab => s.openRun a .decimal
  | .justify => s.setJustify a
  | .spell => s.setSpell a
  | .addWord => s.addWord a
  | .deleteWord => s.deleteWord a

/-! ## The end of a run (R24, R25) -/

/-- The action that ended a run goes on: it waits for the slots it needs, and is then applied (R25). -/
def State.afterRun (s : State) (a : Action) : State :=
  if s.freeSlots < s.slotsNeeded a then s.waitFor (.queueRoom (s.slotsNeeded a)) a .afterRun
  else s.performPlain a false

/-- An action ends the run: refused while the engine is LOCKED; otherwise the run is settled, and the action goes on at once
or after the run has fed its ops (R25). -/
def State.endRun (s : State) (h : HeldRun) (a : Action) : State :=
  if s.isLocked then s.refuse a
  else
    let s1 := s.settleRun h a
    let ids := s1.runEntries h
    if h.ownAction a.kind then (if ids.isEmpty then s1 else s1.feedRun ids a .ownRun)
    else if ids.isEmpty then s1.afterRun a
    else s1.feedRun ids a .afterRun

/-- The handling of an action while a DECIMAL run stands (R23, R24). MODE too ends the run and is then applied, by R24 and not
by R19's refusal while a held run stands (log entry 55). -/
def State.performDecimal (s : State) (h : HeldRun) (a : Action) : State :=
  match a.kind with
  | .char => if a.code = s.intake.decimal then s.endRun h a else s.runChar h a
  | .backspace | .correct => s.runDelete h a
  | _ => s.endRun h a

/-- The handling of an action while a CENTER or FLUSH run stands (R24). -/
def State.performCentred (s : State) (h : HeldRun) (a : Action) : State :=
  match a.kind with
  | .char => s.runChar h a
  | .space => s.runSpace h a
  | .backspace | .correct => s.runDelete h a
  | .underline => s.toggleUnderline
  | .bold => s.toggleBold
  | .impression => s.setImpression a
  | .carriageReturn => s.endRun h a
  | k => if h.ownAction k then s.endRun h a else s.refuse a

/-- The handling of a taken action. -/
def State.perform (s : State) (a : Action) : State :=
  match s.text.run with
  | none => s.performPlain a true
  | some h =>
    match h.kind with
    | .decimal => s.performDecimal h a
    | _ => s.performCentred h a

/-! ## Taking and continuing (R11, R12, R169) -/

/-- The conditions of R11 but for the queue: no waiting reason, no action that is still to continue, not DOWN, and start
homing has ended. -/
def State.mayTakeAction (s : State) : Bool :=
  s.text.waiting.isNone && s.text.resume.isNone && !s.isDown && s.engine.startHomed

/-- The head action is removed from the key queue; a take that brings the count to 8 with the hold state set clears it and
queues RELEASE (R169, R171). -/
def State.taken (s : State) (rest : List Action) : State :=
  if s.intake.hold ∧ rest.length = 8 then
    State.flowFrame { s with intake := { s.intake with queue := rest, hold := false } } .release
  else { s with intake := { s.intake with queue := rest } }

/-- The text unit takes the head action, if it is of a kind: it waits with QUEUE_ROOM when slots are short, and otherwise
the action leaves the queue and is handled (R11). The wait holds the need found as it begins, and ends when that many slots are
free; the need is found anew when the action is then taken (log entry 54). -/
def State.takeAction (s : State) (k : ActionKind) : State :=
  match s.intake.queue with
  | [] => s
  | a :: rest =>
    if s.mayTakeAction ∧ a.kind = k then
      if s.freeSlots < s.slotsNeeded a then
        { s with text := { s.text with waiting := some (.queueRoom (s.slotsNeeded a)) } }
      else (s.taken rest).perform a
    else s

/-- A continuing action goes on from the point where it stopped (R12). -/
def State.continueAt (s : State) (r : Resume) : State :=
  match r.stage with
  | .afresh => s.performPlain r.action true
  | .wrap => s.charWrap r.action
  | .afterRun => s.afterRun r.action
  | .ownRun => s
  | .dispatch =>
    match r.action.kind with
    | .space => s.spaceDispatch r.action true
    | _ => s.returnDispatch r.action
  | .verdicts => s.verdictsIn r.action

/-- The ACTION_RESUME event: an action taken earlier, whose wait has ended, goes on (R12). -/
def State.actionResume (s : State) : State :=
  match s.text.waiting, s.text.resume with
  | none, some r =>
    if s.isDown then s else State.continueAt { s with text := { s.text with resume := none } } r
  | _, _ => s

end Sys2Proof.Machine
end

