-- ==== Sys2Proof/Machine/Intake.lean ====
section
/-! DEFINITION. The intake unit (Chapter 8): the joining tests, HOLD, CLEAR and the report that the roster has closed. -/

namespace Sys2Proof.Machine

/-! ## Joining (R165 to R167, R170) -/

/-- A repeat-marked action of this kind is dropped at any count (R166). -/
def neverRepeats (k : ActionKind) : Bool :=
  match k with
  | .correct | .wordCorrect | .lineCorrect | .carriageReturn | .mode => true
  | _ => false

/-- The typamatic throttle drops an action that finds `count` actions in the queue (R166). -/
def throttled (a : Action) (count : Nat) : Bool := a.repeated && (neverRepeats a.kind || decide (4 ≤ count))

/-- An action meets a full queue: the first keyboard drop of a drop run asks for CLICK (R167). -/
def State.dropFull (s : State) (a : Action) : State :=
  if a.source = .keyboard ∧ s.intake.dropSounded = false then
    State.sound { s with intake := { s.intake with dropSounded := true } } .click
  else s

/-- An action is accepted: it joins the tail, the drop run returns to NONE, and a count of 24 with the hold state clear sets
it and queues HOLD (R165, R170). -/
def State.accept (s : State) (a : Action) : State :=
  let i : Intake := { s.intake with queue := s.intake.queue ++ [a], dropSounded := false }
  if s.intake.queue.length + 1 = 24 ∧ s.intake.hold = false then
    State.flowFrame { s with intake := { i with hold := true } } .hold
  else { s with intake := i }

/-- The joining tests for an action other than CLEAR (R165). -/
def State.join (s : State) (a : Action) : State :=
  if throttled a s.intake.queue.length then s
  else if 32 ≤ s.intake.queue.length then s.dropFull a
  else s.accept a

/-- An action, if a frame makes one, meets the tests. -/
def State.joinSome (s : State) (a : Option Action) : State :=
  match a with
  | some x => s.join x
  | none => s

/-! ## The frames of the intake unit (R162 to R164) -/

/-- The intake unit takes frames from the rostered station of a class: it is OPEN and the class is rostered (R159, Table
9-3). -/
def State.intakeTakes (s : State) (c : StationClass) : Bool :=
  decide (s.intake.state = .opened) && s.line.rostered c

/-! ## CLEAR (R29, R74, R156, R168) -/

/-- CLEAR at the text unit: a run that stands is cancelled and its entries removed, pp returns to the run's start pp, and the
armed mark is cleared (R29). -/
def State.clearText (s : State) : State :=
  let s1 := s.edited
  match s.text.run with
  | none => s1
  | some h =>
    let s2 := s1.removeOwners (s1.runChars h)
    { s2 with text := { s2.text with pp := h.startPp, run := none } }

/-- CLEAR at the engine (R74): in HALTED it clears the fault code, removes the fault's message unless the hold reason WHEEL
keeps it, clears the re-home mark and begins a full homing; in LOCKED it asks for CLICK; elsewhere it has no effect. -/
def State.clearEngine (s : State) : State :=
  match s.engine.state with
  | .halted =>
    let s1 := if s.engine.fault = .wheelLost ∧ s.engine.holds.wheel then s else s.unpost s.engine.fault.message
    let s2 := s1.setFault .clear
    State.startHoming { s2 with engine := { s2.engine with rehome := false } } .clear
  | .locked => s.sound .click
  | _ => s

/-- CLEAR at the display unit (R156). -/
def State.clearDisplay (s : State) : State := { s with display := s.display.clearTransients }

/-! ## The roster closes (R160) -/

/-- The decimal character of the rostered keyboard (R160). -/
def LineInterface.decimal (l : LineInterface) : Nat :=
  match l.station? .keyboard with
  | some e => if e.variant = 1 then 44 else 46
  | none => 46

/-- The report that the roster has closed: the decimal character is fixed, RELEASE is queued, and a CLOSED intake unit
becomes OPEN; one that is DOWN stays so (R159, R160). -/
def State.intakeOpens (s : State) : State :=
  match s.intake.state with
  | .closed =>
    State.flowFrame { s with intake := { s.intake with decimal := s.line.decimal, state := .opened } } .release
  | _ => s

end Sys2Proof.Machine
end

