-- ==== Sys2Proof/Machine/Operands.lean ====
section
/-! DEFINITION. Reading the payloads of the frames that the controller takes (R207, Tables 8-3, 11-3, 11-4). -/

namespace Sys2Proof.Machine

/-! ## KEY (R162) -/

/-- The repeat mark of a KEY: bit 0 of its second byte; the other bits are disregarded (R207). -/
def repeatMark (flags : Byte) : Bool := flags.getLsbD 0

/-- The kind of a function number other than 0 (Table 8-3). -/
def functionKind (n : Nat) : Option ActionKind :=
  match n with
  | 1 => some .space
  | 2 => some .backspace
  | 3 => some .carriageReturn
  | 4 => some .tab
  | 5 => some .index
  | 6 => some .reverseIndex
  | 7 => some .halfUp
  | 8 => some .halfDown
  | 9 => some .correct
  | 10 => some .wordCorrect
  | 11 => some .lineCorrect
  | 12 => some .relocate
  | 13 => some .tabSet
  | 14 => some .tabClear
  | 15 => some .tabClearAll
  | 16 => some .lmSet
  | 17 => some .rmSet
  | 18 => some .marginRelease
  | 19 => some .pitch
  | 20 => some .spacing
  | 21 => some .impression
  | 22 => some .mode
  | 23 => some .underline
  | 24 => some .bold
  | 25 => some .center
  | 26 => some .flushRight
  | 27 => some .decimalTab
  | 28 => some .justify
  | 29 => some .spell
  | 30 => some .addWord
  | 31 => some .deleteWord
  | _ => none

/-- A code that makes a CHAR: 33 to 126 or 128 to 159 (R162, R163). -/
def isCharCode (c : Nat) : Bool := within 33 126 c || within 128 159 c

/-- An action with no setting value. -/
def plainAction (k : ActionKind) (code : Nat) (src : Source) (rep : Bool) : Action :=
  { kind := k, code := code, source := src, repeated := rep, value := none }

/-- The action of a KEY value other than 0 (R162): a function, a CHAR, SPACE for 32, or none. -/
def keyAction (value : Nat) (rep : Bool) : Option Action :=
  if value < 32 then (functionKind value).map (fun k => plainAction k 0 .keyboard rep)
  else if isCharCode value then some (plainAction .char value .keyboard rep)
  else if value = 32 then some (plainAction .space 0 .keyboard rep)
  else none

/-! ## TEXT (R163) -/

/-- The action of a TEXT code, or none (R163). -/
def textAction (code : Nat) : Option Action :=
  if isCharCode code then some (plainAction .char code .interface false)
  else match code with
    | 32 => some (plainAction .space 0 .interface false)
    | 13 => some (plainAction .carriageReturn 0 .interface false)
    | 8 => some (plainAction .backspace 0 .interface false)
    | 9 => some (plainAction .tab 0 .interface false)
    | 10 => some (plainAction .index 0 .interface false)
    | _ => none

/-! ## SETTING (R164, Table 11-4) -/

/-- The kind of a setting item (R164). -/
def settingKind (item : Nat) : Option ActionKind :=
  match item with
  | 1 => some .lmSet
  | 2 => some .rmSet
  | 3 => some .pitch
  | 4 => some .spacing
  | 5 => some .impression
  | 6 => some .mode
  | 7 => some .justify
  | 8 => some .spell
  | 9 => some .tabSet
  | 10 => some .tabClearAll
  | _ => none

/-- The value of a SETTING frame, which payload bytes 1 and 2 give high byte first (R207, Table 11-3). -/
def settingValue (bytes : Byte × Byte) : Nat := 256 * bytes.1.toNat + bytes.2.toNat

/-- The action of a SETTING frame, which carries its value but for TAB_CLEAR_ALL (R164). -/
def settingAction (item value : Nat) : Option Action :=
  (settingKind item).map (fun k =>
    { kind := k, code := 0, source := .interface, repeated := false,
      value := if k = .tabClearAll then none else some value })

/-! ## SUPPLY, HERE and WORD_ANSWER (Table 11-3) -/

/-- The source of a supply report: bit 7. -/
def reportSource (r : Byte) : PowerSource := if r.getLsbD 7 then .battery else .adapter

/-- The sag mark of a supply report: bit 3. -/
def reportSag (r : Byte) : Bool := r.getLsbD 3

/-- The battery level of a supply report: bits 2 to 0. -/
def reportLevel (r : Byte) : Nat := r.toNat % 8

/-- The class that a HERE names, for the classes that are rostered (R190). -/
def hereClass (c : Byte) : Option StationClass :=
  match c.toNat with
  | 2 => some .keyboard
  | 3 => some .power
  | 4 => some .cartridge
  | 5 => some .interface
  | _ => none

/-- The verdict of a WORD_ANSWER: 1 KNOWN, 2 UNKNOWN, others none (R129). -/
def answerVerdict (v : Byte) : Option WordState :=
  match v.toNat with
  | 1 => some .known
  | 2 => some .unknown
  | _ => none

end Sys2Proof.Machine
end

