-- ==== Sys2Proof/Machine/Retained.lean ====
section
/-! DEFINITION. Retained memory (R201, R203, R208, Table 11-6): the layout of the four records, their checks, and what the save
puts into the saved line. Numbers of two bytes are stored high byte first. -/

namespace Sys2Proof.Machine

/-! ## Numbers -/

/-- A number of two bytes, high byte first (spec/11_frame_formats_and_connections.md, opening). -/
def twoBytes (n : Nat) : List Byte := [BitVec.ofNat 8 (n / 256), BitVec.ofNat 8 n]

/-- The byte at an index as a number. -/
def byteAt (l : List Byte) (i : Nat) : Nat := (l.getD i 0).toNat

/-- The number of two bytes at an index. -/
def wordAt (l : List Byte) (i : Nat) : Nat := 256 * byteAt l i + byteAt l (i + 1)

/-- A record has its code, its length and a byte sum of 0 (R208). -/
def recordOk (code length : Nat) (l : List Byte) : Bool :=
  decide (byteAt l 0 = code) && decide (l.length = length) && decide (byteSum l = 0)

/-! ## The settings record -/

/-- The code of a pitch (Table 11-4). -/
def Pitch.code (p : Pitch) : Nat :=
  match p with
  | .p10 => 0
  | .p12 => 1
  | .p15 => 2
  | .ps => 3

/-- The code of an impression (Table 11-4). -/
def Impression.code (i : Impression) : Nat :=
  match i with
  | .light => 0
  | .normal => 1
  | .heavy => 2

/-- The code of a spell setting (Table 11-4). -/
def SpellSetting.code (x : SpellSetting) : Nat :=
  match x with
  | .off => 0
  | .check => 1
  | .checkStop => 2

/-- The mode of a code. -/
def modeOf (v : Nat) : Option Mode :=
  match v with
  | 0 => some .direct
  | 1 => some .line
  | _ => none

/-- The settings record (Table 11-6): the retained settings and the wheel code last read, 255 for none. -/
def encodeSettings (x : Settings) (wheel : Option Nat) : List Byte :=
  withCheck
    (161 :: twoBytes x.lm ++ twoBytes x.rm ++
      [BitVec.ofNat 8 x.pitch.code, BitVec.ofNat 8 x.impression.code, BitVec.ofNat 8 x.mode.code,
       BitVec.ofNat 8 x.justify.toNat, BitVec.ofNat 8 x.spell.code, BitVec.ofNat 8 x.spacing,
       BitVec.ofNat 8 (wheel.getD 255), BitVec.ofNat 8 x.tabs.length] ++ x.tabs.flatMap twoBytes)

/-- A list rises strictly. -/
def rising : List Nat → Bool
  | [] => true
  | [_] => true
  | x :: y :: ys => decide (x < y) && rising (y :: ys)

/-- The wheel code of a settings record's byte: 0 to 15, or 255 for none. -/
def wheelOf (v : Nat) : Option (Option Nat) :=
  if v < 16 then some (some v) else if v = 255 then some none else none

/-- The settings of a valid settings record, with the wheel code; underline, bold, margin release and the rise take their
start values (R10, R208). -/
def parseSettings (l : List Byte) : Option (Settings × Option Nat) :=
  let n := byteAt l 12
  let lm := wordAt l 1
  let rm := wordAt l 3
  let tabs := (List.range n).map (fun i => wordAt l (13 + 2 * i))
  if recordOk 161 (14 + 2 * n) l && decide (n ≤ 24) && decide (lm < rm) && decide (rm ≤ 1600) && rising tabs
      && tabs.all (fun t => decide (t ≤ 1599)) && within 2 4 (byteAt l 10) && decide (byteAt l 8 ≤ 1) then
    match pitchOf true (byteAt l 5), impressionOf (byteAt l 6), modeOf (byteAt l 7), spellOf (byteAt l 9),
        wheelOf (byteAt l 11) with
    | some p, some i, some m, some sp, some w =>
      some ({ lm := lm, rm := rm, tabs := tabs, pitch := p, spacing := byteAt l 10, impression := i, mode := m,
              justify := decide (byteAt l 8 = 1), spell := sp, underline := false, bold := false,
              marginRelease := false, rise := 0 }, w)
    | _, _, _, _, _ => none
  else none

/-! ## The user word list -/

/-- Reads words of a length byte and characters; none if a length or a character is out of range or the bytes run short. -/
def readWords : Nat → List Byte → Option (List (List Nat) × List Byte)
  | 0, rest => some ([], rest)
  | n + 1, rest =>
    match rest with
    | [] => none
    | b :: more =>
      let w := (more.take b.toNat).map BitVec.toNat
      if within 1 24 b.toNat && decide (w.length = b.toNat) && w.all (fun c => decide (c = 39) || within 97 122 c) then
        match readWords n (more.drop b.toNat) with
        | some (ws, left) => some (w :: ws, left)
        | none => none
      else none

/-- Words stand in the order of R135 without duplicates. -/
def wordsInOrder : List (List Nat) → Bool
  | [] => true
  | [_] => true
  | x :: y :: ys => wordBefore x y && wordsInOrder (y :: ys)

/-- The words of a valid user word list record (R208). -/
def parseWords (l : List Byte) : Option (List (List Nat)) :=
  if decide (byteAt l 0 = 162) && decide (byteSum l = 0) && decide (byteAt l 1 ≤ 128) then
    match readWords (byteAt l 1) (l.drop 2) with
    | some (ws, [_]) => if wordsInOrder ws then some ws else none
    | _ => none
  else none

/-! ## The saved line (R203, R208) -/

/-- The code of an entry kind (R208). -/
def EntryKind.code (k : EntryKind) : Nat :=
  match k with
  | .character => 0
  | .underscore => 1
  | .bold => 2

/-- The index of an entry within a list, or 65,535. -/
def ownerIndex (l : List Entry) (owner : Option Nat) : Nat :=
  match owner with
  | none => 65535
  | some id =>
    match l.findIdx? (fun e => decide (e.id = id)) with
    | some i => i
    | none => 65535

/-- The 8 bytes of a saved-line entry (R208). -/
def savedEntry (l : List Entry) (e : Entry) : List Byte :=
  twoBytes e.pos ++
    [BitVec.ofNat 8 e.width, BitVec.ofNat 8 e.offset, BitVec.ofNat 8 e.char,
     BitVec.ofNat 8 (64 * e.kind.code + (e.rise + 2).toNat)] ++ twoBytes (ownerIndex l e.owner)

/-- The saved line record. -/
def encodeSavedLine (l : List Entry) : List Byte :=
  withCheck (163 :: twoBytes l.length ++ l.flatMap (savedEntry l))

/-- Puts an entry into a list by a key, behind the entries of an equal key. -/
def insertKeyed (key : Entry → Nat) (e : Entry) : List Entry → List Entry
  | [] => [e]
  | x :: xs => if key e < key x then e :: x :: xs else x :: insertKeyed key e xs

/-- The entries of the print part: those of the print line that are not PRINTED, less companions whose owner is not among
them (R203). -/
def PrintLine.unprinted (p : PrintLine) : List Entry :=
  let part := p.record.entries.filter (fun e => decide (e.state ≠ .printed))
  part.filter (fun e => part.any (fun o => decide (o.id = ownerId e)))

/-- The working part shifted; an owner whose end would pass 1,600 is cut with its companions, and so is every entry to its
right, an owner with its companions (R203). -/
def workPart (shift : Int) (l : List Entry) : List Entry :=
  let moved := moveOwners (fun _ => shift) l
  let past := moved.filter (fun e => e.isChar && decide (1600 < e.endPos))
  let left := moved.filter (fun e => past.all (fun x => decide (e.pos ≤ x.pos)))
  let ids := (left.filter (fun e => e.isChar && decide (e.endPos ≤ 1600))).map Entry.id
  left.filter (fun e => ids.contains (ownerId e))

/-- The entries regrouped: each owner in turn with its companions behind it. -/
def ownersFirst (l : List Entry) : List Entry :=
  (l.filter Entry.isChar).flatMap (fun o => o :: l.filter (fun e => !e.isChar && decide (ownerId e = o.id)))

/-- The owners that fit with their companions within 320 entries, taken in order (R203). -/
def fitting (all : List Entry) (taken : Nat) : List Entry → List Nat
  | [] => []
  | o :: os =>
    let n := (all.filter (fun e => decide (ownerId e = o.id))).length
    if taken + n ≤ 320 then o.id :: fitting all (taken + n) os else fitting all taken os

/-- The entries of the saved line in the order in which they are written: by position, each owner before its companions, and a
stroke that stands left of its owner behind it (R203, R208; log entry 29). DESIGN CHOICE (log entry 63): entries of one place
stand by the order numbers of their owners, an owner's companions with it. -/
def State.savedEntries (s : State) : List Entry :=
  let part := match s.text.print with
    | some p => p.unprinted
    | none => []
  let work := s.text.work.entries
  let shift : Int :=
    if part.isEmpty then 0
    else (greatestEnd 0 (part.filter Entry.isChar) : Int) + spaceWidth s.text.settings.pitch - leastPos 0 work
  let all := ownersFirst (byOrder part ++ byOrder (workPart shift work))
  let key (e : Entry) : Nat :=
    match all.find? (fun o => decide (o.id = ownerId e)) with
    | some o => max e.pos o.pos
    | none => e.pos
  let sorted := all.foldl (fun acc e => insertKeyed key e acc) []
  let ids := fitting sorted 0 (sorted.filter Entry.isChar)
  sorted.filter (fun e => ids.contains (ownerId e))

/-- One entry read from 8 bytes at an index, with the index of its owner; none if a value is out of range (R208). -/
def readEntry (l : List Byte) (i : Nat) : Option (Entry × Nat) :=
  let flags := byteAt l (i + 5)
  let kind : Option EntryKind := match flags / 64 with
    | 0 => some .character
    | 1 => some .underscore
    | 2 => some .bold
    | _ => none
  match kind with
  | none => none
  | some k =>
    let e : Entry :=
      { id := 0, pos := wordAt l i, width := byteAt l (i + 2), offset := byteAt l (i + 3), char := byteAt l (i + 4),
        kind := k, owner := none, rise := (flags % 8 : Nat) - 2, state := .pending, wheel := none, mark := .plain,
        order := 0 }
    if e.pos + e.width ≤ 1600 && within 6 14 e.width && decide (e.offset ≤ 4) && isCharCode e.char
        && decide (flags / 8 % 8 = 0) && decide (flags % 8 ≤ 4)
        && (e.isChar == decide (wordAt l (i + 6) = 65535)) then
      some (e, wordAt l (i + 6))
    else none

/-- Reads the entries of a saved line in turn. -/
def readEntries (l : List Byte) (i : Nat) : Nat → Option (List (Entry × Nat))
  | 0 => some []
  | n + 1 =>
    match readEntry l i, readEntries l (i + 8) n with
    | some e, some es => some (e :: es)
    | _, _ => none

/-- An owner index names a CHARACTER entry of the record. -/
def ownerStands (l : List (Entry × Nat)) (x : Entry × Nat) : Bool :=
  x.1.isChar || (match l[x.2]? with
    | some o => o.1.isChar
    | none => false)

/-- No position holds three CHARACTER entries (R1). -/
def noThird (l : List Entry) : Bool :=
  l.all (fun e => decide ((l.filter (fun x => x.isChar && decide (x.pos = e.pos))).length ≤ 2))

/-- The entries of a valid saved line record, with owner indexes (R205, R208). -/
def parseSavedLine (l : List Byte) : Option (List (Entry × Nat)) :=
  let n := wordAt l 1
  if recordOk 163 (4 + 8 * n) l && decide (n ≤ 320) then
    match readEntries l 3 n with
    | some es => if es.all (ownerStands es) && noThird (es.map Prod.fst) then some es else none
    | none => none
  else none

/-- The restored entries: PENDING, with names from `id` upward, owners by name and fresh order numbers in position order
(R205). DESIGN CHOICE (log entry 63): entries at one position are numbered as they stand in the saved line. -/
def restoredEntries (id : Nat) (l : List (Entry × Nat)) : List Entry :=
  let named := l.zipIdx.map (fun q =>
    { q.1.1 with id := id + q.2, owner := if q.1.1.isChar then none else some (id + q.1.2), order := q.2 })
  numberFrom 0 (sortEntries named)

/-! ## The saved mark -/

/-- The saved mark of a state, an entry count and a check byte (Table 11-6). -/
def encodeMark (state count : Nat) (check : Byte) : List Byte :=
  withCheck (164 :: BitVec.ofNat 8 state :: twoBytes count ++ [check])

/-- The saved mark that names a saved line as complete (R203). -/
def setMark (line : List Byte) : List Byte := encodeMark 1 (wordAt line 1) (line.getLastD 0)

/-- The CLEAR mark (R208). -/
def clearMark : List Byte := encodeMark 0 0 0

/-- The saved mark is valid and SET for the saved line in retained memory (R208). -/
def markNames (mark line : List Byte) : Bool :=
  recordOk 164 6 mark && decide (byteAt mark 1 = 1) && decide (wordAt mark 2 = wordAt line 1)
    && decide (mark.getD 4 0 = line.getLastD 0)

/-- The entries that a start restores: those of a valid saved line that a valid saved mark names (R205). -/
def Retained.restorable (r : Retained) : Option (List (Entry × Nat)) :=
  if markNames r.savedMark r.savedLine then parseSavedLine r.savedLine else none

end Sys2Proof.Machine
end

