-- ==== Sys2Proof/Machine/Settle.lean ====
section
/-! DEFINITION. What follows in the same event as a command's own effect: the correction unit disposes of its items, the
engine takes ops and begins motions, waits end, the dirty mark is set and a composition begins. -/

namespace Sys2Proof.Machine

/-! ## The engine and the correction unit (R55, R66, R67, R71, R97) -/

/-- The engine goes on by itself: a homing phase that is due begins, ops are taken as long as they may, and an idle engine
re-homes the wheel or makes a rest move. -/
def State.engineActs (s : State) : State :=
  let s1 := s.advanceHoming.takeOps (s.engine.slots.length + 2)
  s1.idleEngine.advanceHoming

/-- The correction unit acts before the engine takes an op and again on what the engine has done; each sets the dirty mark for
what it changes. -/
def State.blocksAct (s : State) : State :=
  ((s.marking State.correctionActs).marking State.engineActs).marking State.correctionActs

/-! ## The end of a wait (R12, Table 1-5) -/

/-- The waiting reason has ended. -/
def State.waitOver (s : State) (w : Waiting) : Bool :=
  match w with
  | .queueRoom n => decide (n ≤ s.freeSlots)
  | .runFeeding => s.text.feeding.isEmpty
  | .printLineBusy => s.text.print.isNone
  | .verdicts => s.spell.lineSettled
  | .correction => !s.corr.lifting

/-- A run's own action has nothing left to do when its run has fed its ops (R25). -/
def endOwn (r : Option Resume) : Option Resume :=
  match r with
  | some x => if x.stage = .ownRun then none else some x
  | none => none

/-- A wait that is over ends; the action that continues does so at its own event (R12). -/
def State.endWait (s : State) : State :=
  match s.text.waiting with
  | none => s
  | some w =>
    if s.waitOver w then { s with text := { s.text with waiting := none, resume := endOwn s.text.resume } } else s

/-! ## The event as a whole -/

/-- What follows a command's own effect within its event: the dirty mark for that effect, then what the blocks do of themselves
and the end of a wait, each with the dirty mark for what it changes (R146), and last a composition. `frameStart` marks the
frame-start event (R148). -/
def State.finishIn (s : State) (old : State) (frameStart : Bool) : State :=
  ((s.markDirty old).blocksAct.marking State.endWait).beginComposition frameStart

/-- What follows the effect of a command other than a frame start. -/
def State.finish (s : State) (old : State) : State := s.finishIn old false

/-- A command changes a controller that has power and is not held by the restart pin; otherwise it cannot happen and leaves
the state as it is (R209; log entry 8). -/
def State.event (s : State) (f : State → State) : State :=
  if s.powered ∧ s.restartHeld = false then (f s).finish s else s

/-- The report of a sensor. Its pin follows the machine also while the controller has no power or is held by the restart pin, so that a
start reads the sensor as it then stands (R54, R57, R58, R84); nothing else changes then (R209; log entry 8). -/
def State.sensed (s : State) (f : State → State) : State :=
  if s.powered ∧ s.restartHeld = false then (f s).finish s else { s with pins := (f s).pins }

end Sys2Proof.Machine
end

