-- ==== Sys2Proof/Machine/Power.lean ====
section
/-! DEFINITION. Supply, heat and restart (Chapter 10): supply reports, the ceiling, entering DOWN, the save, the loss of power
and the start sequence. -/

namespace Sys2Proof.Machine

/-! ## The ceiling (R195, R196, R198) -/

/-- The source limit of a report (Table 10-2). -/
def sourceLimit (src : PowerSource) (level : Nat) : Nat :=
  match src with
  | .adapter => 4
  | .battery => if 6 ≤ level then 3 else if 3 ≤ level then 2 else 1

/-- The ceiling takes a value; a change asks for a STATE (R194). -/
def State.setCeiling (s : State) (n : Nat) : State :=
  { s with
    supply := { s.supply with ceiling := n },
    line := if s.supply.ceiling = n then s.line else s.line.askState }

/-- Step 2 of R195: the ceiling under a new source and limit, and whether the sag timer is started. -/
def Supply.newCeiling (u : Supply) (src : PowerSource) (limit : Nat) : Nat × Bool :=
  if u.source ≠ some src then (limit, false)
  else if limit < u.limit then (min u.ceiling limit, false)
  else (u.ceiling, decide (u.limit < limit))

/-- LOW follows the report (R197). -/
def State.setLow (s : State) (on : Bool) : State :=
  if s.supply.low = on then s
  else
    let s1 := State.setHold { s with supply := { s.supply with low := on } } .low on
    if on then s1.post .low else s1.unpost .low

/-- A supply report taken while RUNNING (R195). The ceiling may change twice, and each change sets the dirty mark (R194). -/
def State.takeReport (s : State) (src : PowerSource) (level : Nat) (sag : Bool) : State :=
  let limit := sourceLimit src level
  let nc := s.supply.newCeiling src limit
  let s1 := s.setCeiling nc.1
  let s2 : State := State.markDirty
    { s1 with
      supply :=
        { s1.supply with
          limit := limit, source := some src, battery := level,
          sagRunning := s.supply.sagRunning || nc.2 || sag } } s
  let s3 := if sag then s2.setCeiling (if nc.1 ≤ 1 then nc.1 else nc.1 - 1) else s2
  s3.setLow (decide (src = .battery) && decide (level = 0))

/-- The power station is absent or SILENT (R198). -/
def State.loseSupply (s : State) : State :=
  let s1 := s.setCeiling 2
  { s1 with supply := { s1.supply with source := none, limit := 2, sagRunning := false } }

/-- The sag timer expires (R196). -/
def State.sagExpiry (s : State) : State :=
  if s.supply.sagRunning then
    let n := if s.supply.ceiling < s.supply.limit then s.supply.ceiling + 1 else s.supply.ceiling
    let s1 := s.setCeiling n
    { s1 with supply := { s1.supply with sagRunning := decide (n < s1.supply.limit) } }
  else s

/-! ## The save (R202, R203) -/

/-- The save begins once no hammer pulse and no list write runs (R201, R202). -/
def State.beginSave (s : State) : State :=
  if s.supply.phase = .saving ∧ s.supply.saveBegun = false ∧ s.drive.hammer.isPulse = false ∧ s.spell.writing = none then
    { s with supply := { s.supply with saveBegun := true } }
  else s

/-- The settings record that a save writes now (R203, step 1). -/
def State.settingsRecord (s : State) : List Byte := encodeSettings s.text.settings s.text.previousWheel

/-- The saved line record that a save writes now (R203, step 2). -/
def State.savedLineRecord (s : State) : List Byte := encodeSavedLine s.savedEntries

/-- Retained memory after a whole save (R203). -/
def State.savedRetained (s : State) : Retained :=
  match s.text.settings.mode with
  | .direct => { s.retained with settings := s.settingsRecord }
  | .line =>
    { s.retained with
      settings := s.settingsRecord, savedLine := s.savedLineRecord,
      savedMark := if s.savedEntries.isEmpty then s.retained.savedMark else setMark s.savedLineRecord }

/-- A record whose write was cut short: it is invalid (R201). -/
def cutRecord : List Byte := []

/-- Retained memory after a save that was cut short at a point (R201, R203): the records before it are whole, one that was being
written is invalid, and those behind it stand. -/
def State.cutSave (s : State) (point : SavePoint) : Retained :=
  let first : Retained := { s.retained with settings := s.settingsRecord }
  match point, s.text.settings.mode with
  | .settingsNext, _ => s.retained
  | .settingsRecord, _ => { s.retained with settings := cutRecord }
  | .lineNext, _ => first
  | _, .direct => first
  | .savedLine, .line => { first with savedLine := cutRecord }
  | .markNext, .line => { first with savedLine := s.savedLineRecord }
  | .savedMark, .line =>
    { first with
      savedLine := s.savedLineRecord,
      savedMark := if s.savedEntries.isEmpty then s.retained.savedMark else cutRecord }

/-- Retained memory when power is lost or the restart pin is asserted: a save under way is cut at a point, and a list write
under way is cut (R138, R203, R204). -/
def State.cutRetained (s : State) (point : SavePoint) : Retained :=
  let r := if s.supply.phase = .saving ∧ s.supply.saveBegun then s.cutSave point else s.retained
  if s.spell.writing.isSome then { r with words := cutRecord } else r

/-- The save ends: SAVED, and the strike queue, both line records and the recent words list are empty (R203). -/
def State.saveComplete (s : State) : State :=
  if s.supply.phase = .saving ∧ s.supply.saveBegun then
    let s1 := s.setQueue [] none
    { s1 with
      retained := s.savedRetained,
      supply := { s1.supply with phase := .saved },
      engine := { s1.engine with progress := none },
      text := { s1.text with work := .empty, print := none, feeding := [] },
      spell := { s1.spell with records := [], waitList := [], outstanding := [] } }
  else s

/-- A write of the user word list ends; a pending write begins, but not in DOWN (R138, R201). -/
def State.listWriteEnd (s : State) : State :=
  match s.spell.writing with
  | none => s
  | some bytes =>
    let again := s.spell.writePending && !s.isDown
    State.beginSave
      { s with
        retained := { s.retained with words := bytes },
        spell :=
          { s.spell with
            writing := if again then some (encodeWords s.spell.userList) else none,
            writePending := s.spell.writePending && !again } }

/-! ## Entering DOWN (R202) -/

/-- The drive channels on entering DOWN (R94). -/
def Drive.down (d : Drive) : Drive :=
  let d1 := d.releaseLifts.stopDeadlines
  { d1 with
    carriage := d.carriage.stop, wheel := .idle, feed := .idle, ribbon := .idle,
    hammer := match d.hammer with
      | .settle => .idle
      | h => h }

/-- The op in progress has had its pulse: it is in its settle or its advance (R76). -/
def Stage.struck (st : Stage) : Bool :=
  match st with
  | .settle | .advance => true
  | _ => false

/-- The engine on entering DOWN: motions stop, an op whose pulse has not begun is put back, and it becomes DOWN unless it is
LOCKED (R76). The current petal stands, also where a wheel move is stopped (R54; log entry 48). -/
def Engine.down (e : Engine) : Engine :=
  let keeps : Bool := match e.progress with
    | some p => p.stage.struck || decide (p.stage = .pulse)
    | none => false
  let e1 := if keeps then e else e.putBackHead
  { e1 with homing := none, restMove := false, rehome := false, lateFeed := false }

/-- The text unit on entering DOWN (R30, R134). -/
def TextUnit.down (t : TextUnit) : TextUnit :=
  { t with waiting := none, resume := none, run := none, feeding := [], armed := false }

/-- The spelling unit on entering DOWN (R121, R128, R131, R139). -/
def Spelling.down (sp : Spelling) : Spelling :=
  { sp with records := [], lookup := none, waitList := [], outstanding := [], timeoutRun := 0 }

/-- The intake unit on entering DOWN (R172). -/
def Intake.down (i : Intake) : Intake := { i with state := .down, queue := [], dropSounded := false }

/-- The display unit on entering DOWN: a composition in progress is abandoned, and the showing cycle stops (R158). -/
def Display.down (d : Display) : Display :=
  { d with
    stopped := true,
    composer := match d.composer with
      | .composing _ => .idle
      | c => c }

/-- The controller enters DOWN at a time (R202). An op whose pulse has ended completes at once (R76, R78). -/
def State.enterDown (s : State) (time : Nat) : State :=
  let struck : Bool := match s.engine.progress with
    | some p => p.stage.struck
    | none => false
  let s1 : State :=
    { s with
      supply := { s.supply with phase := .saving, lastFailing := some time, sagRunning := false, saveBegun := false },
      drive := s.drive.down, engine := s.engine.down, text := s.text.down, corr := .idle, spell := s.spell.down,
      intake := s.intake.down, display := s.display.down, line := { s.line with silenceRunning := false } }
  let s2 := if s.engine.state = .locked then s1 else s1.setEngine .down
  (if struck then s2.completeOp else s2).beginSave

/-- A POWER_FAILING frame (R202). -/
def State.takeFailing (s : State) (time : Nat) : State :=
  if s.isDown then { s with supply := { s.supply with lastFailing := some time } } else s.enterDown time

/-! ## Start (R205) -/

/-- Every block at its start values; the pins, retained memory, the time base and the waiting commands are not blocks'
state. -/
def State.startValues (s : State) : State :=
  { State.reset with pending := s.pending, clock := s.clock, pins := s.pins, retained := s.retained }

/-- The station number, the messages and the sensors at start (R54, R57, R58, R157, R188). -/
def State.readPins (s : State) : State :=
  let s1 : State :=
    { s with
      line := { s.line with station := s.pins.straps % 8 },
      engine :=
        { s.engine with
          holds := { s.engine.holds with cover := s.pins.coverOpen, ribbon := s.pins.ribbonSpent },
          tapeSpent := s.pins.tapeSpent } }
  let s2 := s1.post .start
  let s3 := if s.pins.coverOpen then s2.post .cover else s2
  if s.pins.ribbonSpent then s3.post .ribbon else s3

/-- The settings record is checked (R205, step 1). -/
def State.checkSettings (s : State) : State :=
  match parseSettings s.retained.settings with
  | some (x, w) => { s with text := { s.text with settings := x, previousWheel := w, pp := x.lm } }
  | none => s

/-- The user word list is checked (R205, step 2). -/
def State.checkWords (s : State) : State :=
  match parseWords s.retained.words with
  | some ws => { s with spell := { s.spell with userList := ws } }
  | none => State.post { s with retained := { s.retained with words := encodeWords [] } } .listLost

/-- The saved line is checked, and the saved mark is written clear in every case (R205, step 3). -/
def State.checkLine (s : State) : State :=
  let cleared : State := { s with retained := { s.retained with savedMark := clearMark } }
  match s.retained.restorable with
  | some l =>
    let es := restoredEntries s.nextId l
    State.post
      { cleared with
        nextId := s.nextId + es.length,
        text :=
          { s.text with
            work := { entries := es, counter := es.length },
            settings := { s.text.settings with mode := .line },
            pp := greatestEnd s.text.settings.lm (es.filter Entry.isChar) } } .restored
  | none => cleared

/-- The start sequence (R205). -/
def State.start (s : State) : State :=
  let s1 := s.startValues.readPins.checkSettings.checkWords.checkLine
  let s2 : State := { s1 with line := s1.line.rollCall }
  s2.startHoming .start

/-- Every block is held at its start values by the restart pin, or has lost its state with the power (R201, R209). -/
def State.atRestValues (s : State) (retained : Retained) (powered held : Bool) : State :=
  { s.startValues with retained := retained, powered := powered, restartHeld := held }

/-- POWER_ON: the start, unless the restart pin is held low (R205, R209). -/
def State.powerOn (s : State) : State :=
  if s.restartHeld then s.atRestValues s.retained true true else s.start.finish s

/-- RESTART_ASSERT: a save or a list write is cut short, and every block is held at its start values (R204, R209). -/
def State.restartAssert (s : State) (point : SavePoint) : State :=
  s.atRestValues (s.cutRetained point) s.powered true

/-- RESTART_RELEASE: the start sequence, if the pin was held low with power applied (R209). -/
def State.restartRelease (s : State) : State :=
  if s.restartHeld then
    (if s.powered then s.start.finish s else { s with restartHeld := false })
  else s

/-- POWER_LOSS: a save or a list write is cut short, and what is not retained is lost (R201, R203). -/
def State.powerLoss (s : State) (point : SavePoint) : State :=
  if s.powered then s.atRestValues (s.cutRetained point) false s.restartHeld else s

/-- A supply report taken in DOWN starts the controller in SAVED, 500 ms or more after the last POWER_FAILING (R204). -/
def State.mayRestart (s : State) (time : Nat) : Bool :=
  decide (s.supply.phase = .saved) && (match s.supply.lastFailing with
    | some t => decide (t + 500000 ≤ time)
    | none => false)

end Sys2Proof.Machine
end

