-- ==== Sys2Proof/Machine/Sensors.lean ====
section
/-! DEFINITION. What the drive channels, the deadline timers and the sensors report, each as one event (Chapters 3 and 4). -/

namespace Sys2Proof.Machine

/-! ## The carriage (R79 to R87) -/

/-- Sets the carriage channel. -/
def State.setCarriage (s : State) (c : Carriage) : State := { s with drive := { s.drive with carriage := c } }

/-- The end of the 8 ms brake: the engine takes what the channel reports (R80, R83 to R85, R87). -/
def State.carriageBrakeEnd (s : State) : State :=
  let r := s.drive.carriage.endBrake
  let s1 := s.setCarriage r.1
  match r.2 with
  | .ended .search => s1.homeFound
  | .ended _ => s1.atRest
  | .overshootFault | .stalled => s1.raiseFault .carriageStall
  | .goesOn => s1
  | .unchecked => s1

/-- An encoder edge: the channel's count and loop, and the engine's position while it is known (R82, R86). An edge that
carries the count above 0 leaves the home sensor (log entry 21). -/
def State.encoderEdge (s : State) (rightward : Bool) (interval : Nat) : State :=
  let c := s.drive.carriage.edge rightward interval
  let s1 := s.setCarriage c
  { s1 with
    engine := { s1.engine with carriage := s1.engine.carriage.map (fun p => if rightward then p + 1 else p - 1) },
    pins := { s1.pins with homeTripped := s1.pins.homeTripped && decide (c.count ≤ 0) } }

/-- The stall time runs out in a drive phase (R87): the channel stops driving and brakes, and reports the stall at the end of the
brake. -/
def State.carriageStall (s : State) : State :=
  if s.drive.carriage.driving then s.setCarriage (s.drive.carriage.beginBrake .stall) else s

/-- The home sensor trips (R84); a trip that ends a search stops the homing deadline (R68; log entry 47). -/
def State.homeSensorTrip (s : State) : State :=
  { s with
    pins := { s.pins with homeTripped := true },
    drive :=
      { s.drive with
        carriage := s.drive.carriage.tripHome,
        homingDeadline := if s.drive.carriage.seeksHome then none else s.drive.homingDeadline } }

/-! ## The pacers (R88 to R90) -/

/-- The end of the last step interval of a wheel move (R88). -/
def State.wheelMoveEnded (s : State) : State :=
  match s.drive.wheel with
  | .moving _ n _ issued => if issued = 4 * n then s.wheelEnded else s
  | _ => s

/-- The home flag has been read whole (R69, R89). -/
def State.wheelHomeFound (s : State) : State :=
  match s.drive.wheel with
  | .searching _ bits => if bits.length = 4 then s.wheelHomed (codeOf bits) else s
  | _ => s

/-- 768 steps have been issued without a whole flag read (R69, R89). -/
def State.flagNotFound (s : State) : State :=
  match s.drive.wheel with
  | .searching issued bits => if issued = 768 ∧ bits.length < 4 then s.raiseFault .wheelLost else s
  | _ => s

/-- The end of the last step interval of a feed (R90). -/
def State.feedEndReport (s : State) : State :=
  match s.drive.feed with
  | .feeding _ n issued => if issued = n then s.feedEnded else s
  | .idle => s

/-- The end of the last step interval of an advance: the strike completes (R63, R90). -/
def State.advanceEnded (s : State) : State :=
  match s.drive.ribbon with
  | .advancing _ n issued =>
    if issued = n then
      let s1 : State := { s with drive := { s.drive with ribbon := .idle } }
      match s.engine.progress with
      | some p => if p.stage = .advance then s1.completeOp else s1
      | none => s1
    else s
  | .idle => s

/-- A step interval ends before the last one, and the next step is issued (R88 to R90). -/
def State.stepIntervalEnd (s : State) (p : Pacer) (flag codeBit : Bool) : State :=
  match p with
  | .wheel => { s with drive := { s.drive with wheel := s.drive.wheel.stepEnd flag codeBit } }
  | .feed => { s with drive := { s.drive with feed := s.drive.feed.stepEnd } }
  | .ribbon => { s with drive := { s.drive with ribbon := s.drive.ribbon.stepEnd } }

/-! ## The lifts and the hammer (R62, R63, R78, R91) -/

/-- The time base is read; it never goes back. -/
def State.atTime (s : State) (time : Nat) : State := { s with clock := max s.clock time }

/-- The op in progress with its pace, if its stage is this one. -/
def State.atStage (s : State) (st : Stage) : Option (Op × Progress) :=
  match s.engine.head, s.engine.progress with
  | some o, some p => if p.stage = st then some (o, p) else none
  | _, _ => none

/-- A pull-in ends: the lift is DRAWN, and step 3 of the strike that drew it ends (R62, R91). -/
def State.liftDrawn (s : State) (l : Lift) (time : Nat) : State :=
  if s.drive.lift l = .pulling then
    let s1 := (State.atTime { s with drive := s.drive.setLift l .drawn } time)
    match s1.atStage .lift with
    | some (o, p) => if o.medium = l then s1.strikeInterval p else s1
    | none => s1
  else s

/-- The minimum strike interval has passed since the last pulse began (R60, R62). -/
def State.strikeIntervalEnd (s : State) : State :=
  match s.atStage .interval with
  | some (_, p) => (s.atTime (s.engine.intervalEnd p)).fire p
  | none => s

/-- A lift release that waited for the end of the pulse is carried out (R91). -/
def Drive.releaseWaiting (d : Drive) : Drive :=
  if d.releaseDue then { d with ribbonLift := .released, tapeLift := .released, releaseDue := false } else d

/-- The pulse ends: the settle begins, or in DOWN the op completes at once and the save may begin (R76, R78). -/
def State.pulseEnd (s : State) : State :=
  if s.drive.hammer.isPulse then
    if s.isDown then
      (State.completeOp { s with drive := ({ s.drive with hammer := .idle } : Drive).releaseWaiting }).beginSave
    else State.setStage { s with drive := ({ s.drive with hammer := .settle } : Drive).releaseWaiting } .settle
  else s

/-- The settle ends: the lift is released and the advance requested (R63, R78). -/
def State.settleEnd (s : State) : State :=
  if s.drive.hammer = .settle then
    let s1 : State := { s with drive := { s.drive with hammer := .idle } }
    match s1.atStage .settle with
    | some (o, _) => s1.strikeAdvance o
    | none => s1
  else s

/-! ## The deadlines (R92, R93) -/

/-- What an expired timer reports (R93). -/
def deadlineFault (t : Deadline) : FaultCode :=
  match t with
  | .wheel => .wheelLost
  | _ => .carriageStall

/-- A running deadline timer expires (R93). -/
def State.deadlineExpiry (s : State) (t : Deadline) : State :=
  match s.drive.deadline t with
  | some _ => s.raiseFault (deadlineFault t)
  | none => s

/-! ## The cover, the ribbon and the tape (R57, R58, R71) -/

/-- The phase from which a homing that was interrupted begins again (R71). -/
def HomingKind.firstPhase (k : HomingKind) : HomingPhase :=
  match k with
  | .wheelOnly => .wheelDue
  | _ => .carriageDue

/-- Homing is stopped by the cover: the channels and the deadlines stop, and it waits to begin again (R71). The petal of a wheel
that is stopped in its search is unknown (R89). -/
def State.suspendHoming (s : State) : State :=
  match s.engine.homing with
  | none => s
  | some h =>
    let d : Drive := { s.drive with carriage := s.drive.carriage.stop, wheel := .idle }
    { s with
      drive := d.stopDeadlines,
      engine :=
        { s.engine with
          homing := some { h with phase := h.kind.firstPhase, interrupted := true },
          petal := if s.drive.wheel = .idle then s.engine.petal else none } }

/-- The cover opens (R57, R71). -/
def State.coverOpens (s : State) : State :=
  if s.pins.coverOpen then s
  else
    let s1 : State := { s with pins := { s.pins with coverOpen := true } }
    ((s1.setHold .cover true).post .cover).suspendHoming

/-- A closing of the cover sets the re-home mark but in LOCKED and in DOWN (R57). -/
def EngineState.takesRehome (e : EngineState) : Bool :=
  match e with
  | .locked | .down => false
  | _ => true

/-- The re-home mark at a closing of the cover (R57, R71). A homing that the opening interrupted begins again and serves the mark
at once; in a homing that waited for the cover from its start (R68) the mark stands until the wheel phase. -/
def Engine.closeCover (e : Engine) : Engine :=
  match e.homing with
  | some h =>
    if h.interrupted then { e with rehome := false, homing := some { h with interrupted := false } }
    else { e with rehome := e.rehome || e.state.takesRehome }
  | none => { e with rehome := e.rehome || e.state.takesRehome }

/-- The cover closes (R57, R71). -/
def State.coverCloses (s : State) : State :=
  if s.pins.coverOpen then
    let s1 : State := { s with pins := { s.pins with coverOpen := false } }
    let s2 := (s1.setHold .cover false).unpost .cover
    { s2 with engine := s2.engine.closeCover }
  else s

/-- The ribbon-end sensor reports (R58). -/
def State.ribbonReport (s : State) (spent : Bool) : State :=
  let s1 := State.setHold { s with pins := { s.pins with ribbonSpent := spent } } .ribbon spent
  if spent then s1.post .ribbon else s1.unpost .ribbon

/-- The tape-end sensor reports (R58). -/
def State.tapeReport (s : State) (spent : Bool) : State :=
  { s with pins := { s.pins with tapeSpent := spent }, engine := { s.engine with tapeSpent := spent } }

/-! ## Heat (R199) -/

/-- The decay timer expires: H falls by ceil(H / 50), and the region is found again (R199, R200). -/
def State.decay (s : State) : State := s.setHeat (s.supply.heat - ceilDiv s.supply.heat 50)

/-! ## The glass (R140, R147, R158) -/

/-- A frame start, but for the composition that it may begin (R140); in DOWN nothing advances (R158). -/
def State.frameStart (s : State) : State := if s.isDown then s else { s with display := s.display.frameStart }

/-- The composition ends (R147); none runs in DOWN. -/
def State.compositionEnd (s : State) : State := { s with display := s.display.compositionEnd }

end Sys2Proof.Machine
end

