-- ==== Sys2Proof/Machine/ModuleLine.lean ====
section
/-! DEFINITION. The line interface (Chapter 9): the receiver, transmissions and losses, the roll call and the roster, and the
frames that are handed on. -/

namespace Sys2Proof.Machine

/-! ## The receiver (R175 to R177) -/

/-- Sets the receiver. -/
def State.setReceiver (s : State) (r : Receiver) : State := { s with line := { s.line with receiver := r } }

/-- A frame end is recognised: the receiver waits for the next start cell (R176). -/
def State.frameEnd (s : State) : State := s.setReceiver .waiting

/-- A change from released to low begins a start cell (R176). -/
def State.startCell (s : State) : State := if s.line.receiver = .waiting then s.setReceiver .receiving else s

/-- A hunt ends with a frame end (R175); the line has been released, so it is not stuck. -/
def State.huntFrameEnd (s : State) : State :=
  if s.line.receiver = .hunting ∧ s.line.stuck = false then s.frameEnd else s

/-- A reception whose intervals are a coding error: the frame is abandoned and the receiver hunts, or, for bits that do not
make whole bytes at a frame end, it is discarded there (R175, R176). -/
def State.codingError (s : State) (heard : List Nat) : State :=
  if s.line.receiver = .receiving then
    match hear heard with
    | .error => s.setReceiver .hunting
    | .badEnd => s.frameEnd
    | .frame _ => s
  else s

/-- The line has been low for more than 50 cells (R177). -/
def State.lineStuck (s : State) : State :=
  State.post { s with line := { s.line with stuck := true, receiver := .hunting } } .line

/-- A stuck line is released (R177). -/
def State.lineReleased (s : State) : State :=
  if s.line.stuck then State.unpost { s with line := { s.line with stuck := false } } .line else s

/-! ## Room in the transmit queue (R183, R185) -/

/-- An owed STATE is queued and the mark cleared; with no free place it stays owed (R185). -/
def State.payState (s : State) : State :=
  if s.line.stateOwed then State.askState { s with line := { s.line with stateOwed := false } } else s

/-- A place has freed: the spelling unit is told of the room and an owed STATE is queued, in either order (R185). -/
def State.roomReport (s : State) (stateFirst : Bool) : State :=
  if stateFirst then s.payState.serveWait else s.serveWait.payState

/-- The frame of a stamp stands in a place. -/
def LineInterface.inPlace (l : LineInterface) (stamp : Nat) : Bool := l.places.any (fun f => decide (f.stamp = stamp))

/-- Takes the frame of a stamp out of its place or of the flow slot. -/
def LineInterface.remove (l : LineInterface) (stamp : Nat) : LineInterface :=
  { l with
    places := l.places.filter (fun f => decide (f.stamp ≠ stamp)),
    flow := l.flow.filter (fun f => decide (f.stamp ≠ stamp)) }

/-- A frame leaves the transmit queue; a freed place is reported. A flow frame holds no place, so that a HOLD or RELEASE that is
discarded reports no room (R183, R185; log entry 59). -/
def State.freePlace (s : State) (stamp : Nat) (stateFirst : Bool) : State :=
  let s1 : State := { s with line := s.line.remove stamp }
  if s.line.inPlace stamp then s1.roomReport stateFirst else s1

/-- A call of the roll call has been made: its window begins (R189). -/
def LineInterface.callMade (l : LineInterface) : LineInterface :=
  { l with callsMade := l.callsMade + 1, window := true }

/-! ## Transmission (R181 to R186) -/

/-- The first frame in the order of R184: HOLD, then the others by their joining. -/
def LineInterface.firstFrame (l : LineInterface) : Option TxFrame :=
  match l.flow with
  | none => l.places.head?
  | some f =>
    if f.kind = .hold then some f
    else
      match l.places with
      | [] => some f
      | g :: _ => if f.stamp < g.stamp then some f else some g

/-- A transmission begins with the first frame: the line is not stuck, the receiver is not hunting, the controller is not
DOWN, and the line has been quiet for the gap of the frame's class. Its bytes are made now (R181, R184, R186). -/
def State.beginTransmission (s : State) (quiet : Nat) : State :=
  if s.line.receiver = .waiting ∧ s.line.stuck = false ∧ s.line.sending = none ∧ s.isDown = false then
    match s.line.firstFrame with
    | none => s
    | some f =>
      if s.line.gap f.kind ≤ quiet then
        { s with
          line := { s.line with sending := some { frame := f, bytes := s.txBytes f.kind }, receiver := .receiving } }
      else s
  else s

/-- The controller's own frame, sent intact, is recognised at its frame end and leaves the queue; a ROLL_CALL begins its
window (R179, R184, R189). -/
def State.frameSent (s : State) (stateFirst : Bool) : State :=
  match s.line.sending with
  | none => s
  | some x =>
    let s1 : State := State.frameEnd { s with line := { s.line with sending := none } }
    let s2 : State :=
      if x.frame.kind = .rollCall then { s1 with line := { s1.line.callMade with firstCallSent := true } } else s1
    s2.freePlace x.frame.stamp stateFirst

/-- A later STATE stands in the queue beside the one of a stamp (R185). -/
def LineInterface.laterState (l : LineInterface) (stamp : Nat) : Bool :=
  l.places.any (fun f => decide (f.kind = .state) && decide (f.stamp ≠ stamp))

/-- The frame of a stamp is still in the flow slot. -/
def LineInterface.inFlow (l : LineInterface) (stamp : Nat) : Bool :=
  match l.flow with
  | some f => decide (f.stamp = stamp)
  | none => false

/-- What the discard of a frame after 16 losses does besides freeing its place (R183). The window of a ROLL_CALL that is discarded
begins, but a HERE is taken only once a ROLL_CALL has been sent (R190; log entry 58). -/
def State.discarded (s : State) (k : TxKind) : State :=
  match k with
  | .wordQuery tag _ _ => s.queryTimeout tag
  | .rollCall => { s with line := s.line.callMade }
  | _ => s

/-- Raises the loss count of the frame of a stamp (R183). -/
def LineInterface.countLoss (l : LineInterface) (stamp : Nat) : LineInterface :=
  let up (f : TxFrame) : TxFrame := if f.stamp = stamp then { f with losses := f.losses + 1 } else f
  { l with places := l.places.map up, flow := l.flow.map up }

/-- The controller loses in arbitration: it stops sending, and the frame's loss count rises; at 16 losses the frame is
discarded, and so is a flow frame that has been replaced or a STATE that a later one follows (R182, R183, R185). A STATE
discarded at 16 losses sets the STATE-owed mark before its place is reported free (log entry 52). -/
def State.arbitrationLoss (s : State) (stateFirst : Bool) : State :=
  match s.line.sending with
  | none => s
  | some x =>
    let f := x.frame
    let s1 : State := { s with line := { s.line with sending := none } }
    if s.line.inPlace f.stamp = false ∧ s.line.inFlow f.stamp = false then s1
    else if f.kind = .state ∧ s.line.laterState f.stamp then s1.freePlace f.stamp stateFirst
    else if 16 ≤ f.losses + 1 then
      let s2 : State := if f.kind = .state then { s1 with line := { s1.line with stateOwed := true } } else s1
      (s2.freePlace f.stamp stateFirst).discarded f.kind
    else { s1 with line := s1.line.countLoss f.stamp }

/-- A frame bears the controller's own number although the controller did not send it (R179). -/
def State.lineIdClash (s : State) : State := (s.frameEnd).post .lineId

/-! ## The roll call and the roster (R188 to R193) -/

/-- A keyboard or an interface is rostered (R189). -/
def LineInterface.hasSender (l : LineInterface) : Bool := l.rostered .keyboard || l.rostered .interface

/-- The roster closes (R191). -/
def State.rosterCloses (s : State) : State :=
  let s1 := (State.intakeOpens { s with line := { s.line with rosterOpen := false } }).unpost .start
  let s2 := if s1.line.rostered .keyboard then s1 else s1.post .noKeyboard
  let s3 := if s2.line.rostered .power then s2 else s2.loseSupply
  s3.askState

/-- A collection window ends: the roster closes, or a further call is due (R189). -/
def State.windowEnd (s : State) : State :=
  if s.line.window then
    let s1 : State := { s with line := { s.line with window := false } }
    if s.line.rosterOpen = false then s1
    else if s.line.hasSender ∨ 8 ≤ s.line.callsMade then s1.rosterCloses
    else { s1 with line := { s1.line with nextCallDue := true } }
  else s

/-- 500 ms have passed since the last call: the next ROLL_CALL is queued (R189). -/
def State.nextRollCall (s : State) : State :=
  if s.line.nextCallDue ∧ s.line.rosterOpen then
    { s with line := ({ s.line with nextCallDue := false } : LineInterface).rollCall }
  else s

/-- Puts an entry into the roster in the order of station numbers. -/
def insertEntryByNumber (e : RosterEntry) : List RosterEntry → List RosterEntry
  | [] => [e]
  | x :: xs => if e.number < x.number then e :: x :: xs else x :: insertEntryByNumber e xs

/-- The roster with the claim of a HERE (R190); the silence watch of a power station begins, but not in DOWN (R192). -/
def LineInterface.claim (l : LineInterface) (n : Nat) (c : StationClass) (variant : Byte) (watch : Bool) :
    LineInterface :=
  let e : RosterEntry := { number := n, cls := c, variant := variant, status := .present }
  let put : LineInterface :=
    { l with
      roster := insertEntryByNumber e (l.roster.filter (fun x => decide (x.cls ≠ c))),
      silenceRunning := l.silenceRunning || (watch && decide (c = .power)) }
  match l.station? c with
  | none => put
  | some x => if n < x.number then put else l

/-- A HERE (R190): taken while the roster is open and after the frame end of the first ROLL_CALL. -/
def State.takeHere (s : State) (n : Nat) (cls variant : Byte) : State :=
  if s.line.rosterOpen ∧ s.line.firstCallSent ∧ n ≠ s.line.station then
    match hereClass cls with
    | none => s
    | some c =>
      if s.line.roster.any (fun e => decide (e.number = n)) then s
      else { s with line := s.line.claim n c variant !s.isDown }
  else s

/-- A SILENT station has been heard: the entry of its class is PRESENT again, and for the power station the silence timer
runs again (R192, R193). In DOWN the status stands. -/
def State.markPresent (s : State) (c : StationClass) : State :=
  match s.line.station? c with
  | some e =>
    if e.status = .silent ∧ s.isDown = false then
      let l := s.line.setStatus c .present
      { s with line := { l with silenceRunning := l.silenceRunning || decide (c = .power) } }
    else s
  | none => s

/-- A frame from a station number that passes tests 1 to 3 marks the power station or the cartridge (R178, R192, R193). -/
def State.heardFrom (s : State) (n : Nat) : State :=
  let mark (acc : State) (c : StationClass) : State := match s.line.station? c with
    | some e => if e.number = n then acc.markPresent c else acc
    | none => acc
  mark (mark s .power) .cartridge

/-- The power silence timer expires (R192, R198). -/
def State.silenceExpiry (s : State) : State :=
  if s.line.silenceRunning then
    State.loseSupply
      { s with line := { s.line.setStatus .power .silent with silenceRunning := false } }
  else s

/-! ## Frames (R178, R180) -/

/-- A complete frame that fails a test of Table 9-2 other than tests 3 and 4: it is dropped, but one that passes tests 1 to
3 marks its sender PRESENT (R178). A frame that passes every test, or bears the controller's own number, is not dropped. -/
def State.frameDropped (s : State) (bytes : List Byte) : State :=
  match s.line.firstFailure bytes with
  | none => s
  | some 4 => s
  | some n => if 5 ≤ n then (s.frameEnd).heardFrom (frameSender bytes) else s.frameEnd

/-- A SUPPLY frame from the rostered power station (R180, R192, R195, R204). -/
def State.takeSupply (s : State) (report : Byte) (time : Nat) : State :=
  if s.line.rostered .power then
    let s1 := ((s.frameEnd).atTime time).markPresent .power
    if s.isDown then (if s1.mayRestart time then s1.start else s1)
    else
      let s2 : State := { s1 with line := { s1.line with silenceRunning := true } }
      s2.takeReport (reportSource report) (reportLevel report) (reportSag report)
  else s

/-- A POWER_FAILING frame from the rostered power station (R180, R202). -/
def State.powerFailing (s : State) (time : Nat) : State :=
  if s.line.rostered .power then (((s.frameEnd).atTime time).markPresent .power).takeFailing time else s

/-- A WORD_ANSWER at the spelling unit, which discards it in DOWN (R129, R139). The verdict, with its DOUBLE, is applied before the
head of the wait list is asked: R129 gives the two no order (log entry 56). -/
def State.answer (s : State) (tag verdict : Byte) : State :=
  if s.isDown then s
  else
    let s1 : State := { s with spell := { s.spell with timeoutRun := 0 } }
    match s.spell.outstanding.find? (fun q => decide (q.tag = tag.toNat)), answerVerdict verdict with
    | some q, some v => ((s1.takeQuery q).settleAsking q v).serveWait
    | _, _ => s1

/-- A WORD_ANSWER frame from the rostered cartridge (R129, R193). -/
def State.wordAnswer (s : State) (tag verdict : Byte) : State :=
  if s.line.rostered .cartridge then ((s.frameEnd).markPresent .cartridge).answer tag verdict else s

/-- A HERE frame (R178, R190, R192, R193). -/
def State.hereFrame (s : State) (n : Nat) (cls variant : Byte) : State :=
  if n < 8 ∧ n ≠ s.line.station then ((s.frameEnd).heardFrom n).takeHere n cls variant else s

/-- The receiver takes the frame end of a frame for the intake unit; such a frame comes only from a rostered station of its
class, and an intake unit that is not OPEN discards it (R159, R178). -/
def State.intakeFrame (s : State) (c : StationClass) (f : State → State) : State :=
  if s.line.rostered c then
    (if s.intake.state = .opened then f s.frameEnd else s.frameEnd)
  else s

/-- CLEAR, handed on to the text unit, the engine and the display unit (R168). -/
def State.clear (s : State) : State :=
  s.intakeFrame .keyboard (fun t => t.clearText.clearEngine.clearDisplay)

/-- A KEY frame (R162): a value of 0 with the repeat mark clear is CLEAR (R168), and with the mark set it is dropped by the
throttle. -/
def State.keyFrame (s : State) (value flags : Byte) : State :=
  if value = 0 ∧ repeatMark flags = false then s.clear
  else s.intakeFrame .keyboard (fun t => t.joinSome (keyAction value.toNat (repeatMark flags)))

/-- A TEXT frame: its actions join in payload order in one event (R163). -/
def State.textFrame (s : State) (codes : List Byte) : State :=
  s.intakeFrame .interface (fun t => codes.foldl (fun acc c => acc.joinSome (textAction c.toNat)) t)

/-- A SETTING frame (R164, R207). -/
def State.settingFrame (s : State) (item : Byte) (value : Byte × Byte) : State :=
  s.intakeFrame .interface (fun t => t.joinSome (settingAction item.toNat (settingValue value)))

end Sys2Proof.Machine
end

