-- ==== Sys2Proof/Machine/DriveCommands.lean ====
section
/-! DEFINITION. The meanings of the reports of the drive channels, the deadline timers and the sensors (Chapters 3 and 4). Each
leaves the queue of waiting commands alone; none faults or is refused. -/

namespace Sys2Proof.Machine

/-- CARRIAGE_BRAKE_END (R83, R87). -/
def execCarriageBrakeEnd (s : State) : Host.Outcome State Fault Refusal :=
  .next (s.event (fun t => t.carriageBrakeEnd))

/-- ENCODER_EDGE (R82). -/
def execEncoderEdge (rightward : Bool) (interval : Nat) (s : State) : Host.Outcome State Fault Refusal :=
  .next (s.sensed (fun t => t.encoderEdge rightward interval))

/-- PWM_PERIOD_START (R79). -/
def execPwmPeriodStart (s : State) : Host.Outcome State Fault Refusal :=
  .next (s.event (fun t => t.setCarriage t.drive.carriage.periodStart))

/-- PWM_ON_PHASE_END (R79). -/
def execPwmOnPhaseEnd (s : State) : Host.Outcome State Fault Refusal :=
  .next (s.event (fun t => t.setCarriage t.drive.carriage.onPhaseEnd))

/-- CARRIAGE_STALL (R87). -/
def execCarriageStall (s : State) : Host.Outcome State Fault Refusal :=
  .next (s.event (fun t => t.carriageStall))

/-- HOME_SENSOR_TRIP (R84). -/
def execHomeSensorTrip (s : State) : Host.Outcome State Fault Refusal :=
  .next (s.sensed (fun t => t.homeSensorTrip))

/-- WHEEL_MOVE_ENDED (R88). -/
def execWheelMoveEnded (s : State) : Host.Outcome State Fault Refusal :=
  .next (s.event (fun t => t.wheelMoveEnded))

/-- WHEEL_HOME_FOUND (R69). -/
def execWheelHomeFound (s : State) : Host.Outcome State Fault Refusal :=
  .next (s.event (fun t => t.wheelHomeFound))

/-- FLAG_NOT_FOUND (R89). -/
def execFlagNotFound (s : State) : Host.Outcome State Fault Refusal :=
  .next (s.event (fun t => t.flagNotFound))

/-- STEP_INTERVAL_END (R88). -/
def execStepIntervalEnd (pacer : Pacer) (flag codeBit : Bool) (s : State) : Host.Outcome State Fault Refusal :=
  .next (s.event (fun t => t.stepIntervalEnd pacer flag codeBit))

/-- FEED_ENDED (R90). -/
def execFeedEnded (s : State) : Host.Outcome State Fault Refusal :=
  .next (s.event (fun t => t.feedEndReport))

/-- ADVANCE_ENDED (R90). -/
def execAdvanceEnded (s : State) : Host.Outcome State Fault Refusal :=
  .next (s.event (fun t => t.advanceEnded))

/-- LIFT_DRAWN (R91). -/
def execLiftDrawn (lift : Lift) (time : Nat) (s : State) : Host.Outcome State Fault Refusal :=
  .next (s.event (fun t => t.liftDrawn lift time))

/-- STRIKE_INTERVAL_END (R62). -/
def execStrikeIntervalEnd (s : State) : Host.Outcome State Fault Refusal :=
  .next (s.event (fun t => t.strikeIntervalEnd))

/-- PULSE_END (R78). -/
def execPulseEnd (s : State) : Host.Outcome State Fault Refusal :=
  .next (s.event (fun t => t.pulseEnd))

/-- SETTLE_END (R78). -/
def execSettleEnd (s : State) : Host.Outcome State Fault Refusal :=
  .next (s.event (fun t => t.settleEnd))

/-- DEADLINE_EXPIRY (R93). -/
def execDeadlineExpiry (timer : Deadline) (s : State) : Host.Outcome State Fault Refusal :=
  .next (s.event (fun t => t.deadlineExpiry timer))

/-- COVER_OPEN (R57). -/
def execCoverOpen (s : State) : Host.Outcome State Fault Refusal :=
  .next (s.sensed (fun t => t.coverOpens))

/-- COVER_CLOSED (R57). -/
def execCoverClosed (s : State) : Host.Outcome State Fault Refusal :=
  .next (s.sensed (fun t => t.coverCloses))

/-- RIBBON_SPENT (R58). -/
def execRibbonSpent (s : State) : Host.Outcome State Fault Refusal :=
  .next (s.sensed (fun t => t.ribbonReport true))

/-- RIBBON_PRESENT (R58). -/
def execRibbonPresent (s : State) : Host.Outcome State Fault Refusal :=
  .next (s.sensed (fun t => t.ribbonReport false))

/-- TAPE_END_REPORT (R58). -/
def execTapeEndReport (spent : Bool) (s : State) : Host.Outcome State Fault Refusal :=
  .next (s.sensed (fun t => t.tapeReport spent))

end Sys2Proof.Machine
end

