-- ==== Sys2Proof/Machine/LineCommands.lean ====
section
/-! DEFINITION. The meanings of the commands of the module line: accepted frames, the receiver, transmissions and the roll call
(Chapters 8 and 9). Each leaves the queue of waiting commands alone; none faults or is refused. -/

namespace Sys2Proof.Machine

/-- KEY_FRAME (R162). -/
def execKeyFrame (value flags : Byte) (s : State) : Host.Outcome State Fault Refusal :=
  .next (s.event (fun t => t.keyFrame value flags))

/-- CLEAR (R168). -/
def execClear (s : State) : Host.Outcome State Fault Refusal :=
  .next (s.event (fun t => t.clear))

/-- TEXT_FRAME (R163). -/
def execTextFrame (codes : List Byte) (s : State) : Host.Outcome State Fault Refusal :=
  .next (s.event (fun t => t.textFrame codes))

/-- SETTING_FRAME (R164). -/
def execSettingFrame (item : Byte) (value : Byte × Byte) (s : State) : Host.Outcome State Fault Refusal :=
  .next (s.event (fun t => t.settingFrame item value))

/-- HERE (R190). -/
def execHere (sender : Nat) (cls variant : Byte) (s : State) : Host.Outcome State Fault Refusal :=
  .next (s.event (fun t => t.hereFrame sender cls variant))

/-- SUPPLY (R195). -/
def execSupply (report : Byte) (time : Nat) (s : State) : Host.Outcome State Fault Refusal :=
  .next (s.event (fun t => t.takeSupply report time))

/-- POWER_FAILING (R202). -/
def execPowerFailing (time : Nat) (s : State) : Host.Outcome State Fault Refusal :=
  .next (s.event (fun t => t.powerFailing time))

/-- WORD_ANSWER (R129). -/
def execWordAnswer (tag verdict : Byte) (s : State) : Host.Outcome State Fault Refusal :=
  .next (s.event (fun t => t.wordAnswer tag verdict))

/-- FRAME_SENT (R179). -/
def execFrameSent (stateFirst : Bool) (s : State) : Host.Outcome State Fault Refusal :=
  .next (s.event (fun t => t.frameSent stateFirst))

/-- LINE_ID_CLASH (R179). -/
def execLineIdClash (s : State) : Host.Outcome State Fault Refusal :=
  .next (s.event (fun t => t.lineIdClash))

/-- FRAME_DROPPED (R178). -/
def execFrameDropped (bytes : List Byte) (s : State) : Host.Outcome State Fault Refusal :=
  .next (s.event (fun t => t.frameDropped bytes))

/-- CODING_ERROR (R175). -/
def execCodingError (heard : List Nat) (s : State) : Host.Outcome State Fault Refusal :=
  .next (s.event (fun t => t.codingError heard))

/-- LINE_STUCK (R177). -/
def execLineStuck (s : State) : Host.Outcome State Fault Refusal :=
  .next (s.event (fun t => t.lineStuck))

/-- LINE_RELEASED (R177). -/
def execLineReleased (s : State) : Host.Outcome State Fault Refusal :=
  .next (s.event (fun t => t.lineReleased))

/-- BEGIN_TRANSMISSION (R181). -/
def execBeginTransmission (quiet : Nat) (s : State) : Host.Outcome State Fault Refusal :=
  .next (s.event (fun t => t.beginTransmission quiet))

/-- ARBITRATION_LOSS (R182). -/
def execArbitrationLoss (stateFirst : Bool) (s : State) : Host.Outcome State Fault Refusal :=
  .next (s.event (fun t => t.arbitrationLoss stateFirst))

/-- COLLECTION_WINDOW_END (R189). -/
def execCollectionWindowEnd (s : State) : Host.Outcome State Fault Refusal :=
  .next (s.event (fun t => t.windowEnd))

/-- NEXT_ROLL_CALL (R189). -/
def execNextRollCall (s : State) : Host.Outcome State Fault Refusal :=
  .next (s.event (fun t => t.nextRollCall))

/-- POWER_SILENCE_EXPIRY (R192). -/
def execPowerSilenceExpiry (s : State) : Host.Outcome State Fault Refusal :=
  .next (s.event (fun t => t.silenceExpiry))

/-- START_CELL (R176). -/
def execStartCell (s : State) : Host.Outcome State Fault Refusal :=
  .next (s.event (fun t => t.startCell))

/-- HUNT_FRAME_END (R175). -/
def execHuntFrameEnd (s : State) : Host.Outcome State Fault Refusal :=
  .next (s.event (fun t => t.huntFrameEnd))

end Sys2Proof.Machine
end

