-- ==== Sys2Proof/Machine/PowerCommands.lean ====
section
/-! DEFINITION. The meanings of the commands of supply, heat, restart, retained memory and the display (Chapters 7 and 10). Each
leaves the queue of waiting commands alone; none faults or is refused. -/

namespace Sys2Proof.Machine

/-- POWER_ON (R205). -/
def execPowerOn (s : State) : Host.Outcome State Fault Refusal :=
  .next s.powerOn

/-- RESTART_ASSERT (R209). -/
def execRestartAssert (point : SavePoint) (s : State) : Host.Outcome State Fault Refusal :=
  .next (s.restartAssert point)

/-- RESTART_RELEASE (R209). -/
def execRestartRelease (s : State) : Host.Outcome State Fault Refusal :=
  .next s.restartRelease

/-- POWER_LOSS (R201). -/
def execPowerLoss (point : SavePoint) (s : State) : Host.Outcome State Fault Refusal :=
  .next (s.powerLoss point)

/-- SAVE_COMPLETE (R203). -/
def execSaveComplete (s : State) : Host.Outcome State Fault Refusal :=
  .next (s.event (fun t => t.saveComplete))

/-- LIST_WRITE_END (R138). -/
def execListWriteEnd (s : State) : Host.Outcome State Fault Refusal :=
  .next (s.event (fun t => t.listWriteEnd))

/-- SAG_TIMER_EXPIRY (R196). -/
def execSagTimerExpiry (s : State) : Host.Outcome State Fault Refusal :=
  .next (s.event (fun t => t.sagExpiry))

/-- DECAY_TIMER_EXPIRY (R199). -/
def execDecayTimerExpiry (s : State) : Host.Outcome State Fault Refusal :=
  .next (s.event (fun t => t.decay))

/-- FRAME_START (R140). -/
def execFrameStart (s : State) : Host.Outcome State Fault Refusal :=
  .next (if s.powered ∧ s.restartHeld = false then s.frameStart.finishIn s true else s)

/-- COMPOSITION_END (R147). -/
def execCompositionEnd (s : State) : Host.Outcome State Fault Refusal :=
  .next (s.event (fun t => t.compositionEnd))

end Sys2Proof.Machine
end

