-- ==== Sys2Proof/Machine/TextCommands.lean ====
section
/-! DEFINITION. The meanings of the takes of actions by the text unit, its feedings, and the events of the spelling and correction
units (Chapters 1, 5 and 6). Each leaves the queue of waiting commands alone; none faults or is refused. -/

namespace Sys2Proof.Machine

/-- CHAR: the text unit takes the head action of this kind (R11, R15). -/
def execChar (s : State) : Host.Outcome State Fault Refusal :=
  .next (s.event (fun t => t.takeAction .char))

/-- SPACE: the text unit takes the head action of this kind (R11, R17). -/
def execSpace (s : State) : Host.Outcome State Fault Refusal :=
  .next (s.event (fun t => t.takeAction .space))

/-- BACKSPACE: the text unit takes the head action of this kind (R11, R17). -/
def execBackspace (s : State) : Host.Outcome State Fault Refusal :=
  .next (s.event (fun t => t.takeAction .backspace))

/-- RETURN: the text unit takes the head action of this kind (R11, R20). -/
def execCarriageReturn (s : State) : Host.Outcome State Fault Refusal :=
  .next (s.event (fun t => t.takeAction .carriageReturn))

/-- TAB: the text unit takes the head action of this kind (R11, R17). -/
def execTab (s : State) : Host.Outcome State Fault Refusal :=
  .next (s.event (fun t => t.takeAction .tab))

/-- INDEX: the text unit takes the head action of this kind (R11, R18). -/
def execIndex (s : State) : Host.Outcome State Fault Refusal :=
  .next (s.event (fun t => t.takeAction .index))

/-- REVERSE_INDEX: the text unit takes the head action of this kind (R11, R18). -/
def execReverseIndex (s : State) : Host.Outcome State Fault Refusal :=
  .next (s.event (fun t => t.takeAction .reverseIndex))

/-- HALF_UP: the text unit takes the head action of this kind (R11, R18). -/
def execHalfUp (s : State) : Host.Outcome State Fault Refusal :=
  .next (s.event (fun t => t.takeAction .halfUp))

/-- HALF_DOWN: the text unit takes the head action of this kind (R11, R18). -/
def execHalfDown (s : State) : Host.Outcome State Fault Refusal :=
  .next (s.event (fun t => t.takeAction .halfDown))

/-- CORRECT: the text unit takes the head action of this kind (R11, R99). -/
def execCorrect (s : State) : Host.Outcome State Fault Refusal :=
  .next (s.event (fun t => t.takeAction .correct))

/-- WORD_CORRECT: the text unit takes the head action of this kind (R11, R100). -/
def execWordCorrect (s : State) : Host.Outcome State Fault Refusal :=
  .next (s.event (fun t => t.takeAction .wordCorrect))

/-- LINE_CORRECT: the text unit takes the head action of this kind (R11, R101). -/
def execLineCorrect (s : State) : Host.Outcome State Fault Refusal :=
  .next (s.event (fun t => t.takeAction .lineCorrect))

/-- RELOCATE: the text unit takes the head action of this kind (R11, R102). -/
def execRelocate (s : State) : Host.Outcome State Fault Refusal :=
  .next (s.event (fun t => t.takeAction .relocate))

/-- TAB_SET: the text unit takes the head action of this kind (R11, R7). -/
def execTabSet (s : State) : Host.Outcome State Fault Refusal :=
  .next (s.event (fun t => t.takeAction .tabSet))

/-- TAB_CLEAR: the text unit takes the head action of this kind (R11, R7). -/
def execTabClear (s : State) : Host.Outcome State Fault Refusal :=
  .next (s.event (fun t => t.takeAction .tabClear))

/-- TAB_CLEAR_ALL: the text unit takes the head action of this kind (R11, R7). -/
def execTabClearAll (s : State) : Host.Outcome State Fault Refusal :=
  .next (s.event (fun t => t.takeAction .tabClearAll))

/-- LM_SET: the text unit takes the head action of this kind (R11, R21). -/
def execLmSet (s : State) : Host.Outcome State Fault Refusal :=
  .next (s.event (fun t => t.takeAction .lmSet))

/-- RM_SET: the text unit takes the head action of this kind (R11, R21). -/
def execRmSet (s : State) : Host.Outcome State Fault Refusal :=
  .next (s.event (fun t => t.takeAction .rmSet))

/-- MARGIN_RELEASE: the text unit takes the head action of this kind (R11, R6). -/
def execMarginRelease (s : State) : Host.Outcome State Fault Refusal :=
  .next (s.event (fun t => t.takeAction .marginRelease))

/-- PITCH: the text unit takes the head action of this kind (R11, R21). -/
def execPitch (s : State) : Host.Outcome State Fault Refusal :=
  .next (s.event (fun t => t.takeAction .pitch))

/-- SPACING: the text unit takes the head action of this kind (R11, R21). -/
def execSpacing (s : State) : Host.Outcome State Fault Refusal :=
  .next (s.event (fun t => t.takeAction .spacing))

/-- IMPRESSION: the text unit takes the head action of this kind (R11, R21). -/
def execImpression (s : State) : Host.Outcome State Fault Refusal :=
  .next (s.event (fun t => t.takeAction .impression))

/-- MODE: the text unit takes the head action of this kind (R11, R19). -/
def execMode (s : State) : Host.Outcome State Fault Refusal :=
  .next (s.event (fun t => t.takeAction .mode))

/-- UNDERLINE: the text unit takes the head action of this kind (R11, R21). -/
def execUnderline (s : State) : Host.Outcome State Fault Refusal :=
  .next (s.event (fun t => t.takeAction .underline))

/-- BOLD: the text unit takes the head action of this kind (R11, R21). -/
def execBold (s : State) : Host.Outcome State Fault Refusal :=
  .next (s.event (fun t => t.takeAction .bold))

/-- CENTER: the text unit takes the head action of this kind (R11, R22). -/
def execCenter (s : State) : Host.Outcome State Fault Refusal :=
  .next (s.event (fun t => t.takeAction .center))

/-- FLUSH_RIGHT: the text unit takes the head action of this kind (R11, R22). -/
def execFlushRight (s : State) : Host.Outcome State Fault Refusal :=
  .next (s.event (fun t => t.takeAction .flushRight))

/-- DECIMAL_TAB: the text unit takes the head action of this kind (R11, R22). -/
def execDecimalTab (s : State) : Host.Outcome State Fault Refusal :=
  .next (s.event (fun t => t.takeAction .decimalTab))

/-- JUSTIFY: the text unit takes the head action of this kind (R11, R21). -/
def execJustify (s : State) : Host.Outcome State Fault Refusal :=
  .next (s.event (fun t => t.takeAction .justify))

/-- SPELL: the text unit takes the head action of this kind (R11, R21). -/
def execSpell (s : State) : Host.Outcome State Fault Refusal :=
  .next (s.event (fun t => t.takeAction .spell))

/-- ADD_WORD: the text unit takes the head action of this kind (R11, R136). -/
def execAddWord (s : State) : Host.Outcome State Fault Refusal :=
  .next (s.event (fun t => t.takeAction .addWord))

/-- DELETE_WORD: the text unit takes the head action of this kind (R11, R137). -/
def execDeleteWord (s : State) : Host.Outcome State Fault Refusal :=
  .next (s.event (fun t => t.takeAction .deleteWord))

/-- ACTION_RESUME (R12). -/
def execActionResume (s : State) : Host.Outcome State Fault Refusal :=
  .next (s.event (fun t => t.actionResume))

/-- HELD_RUN_FEED (R25). -/
def execHeldRunFeed (s : State) : Host.Outcome State Fault Refusal :=
  .next (s.event (fun t => t.heldRunFeed))

/-- PRINT_LINE_FEED (R28). -/
def execPrintLineFeed (s : State) : Host.Outcome State Fault Refusal :=
  .next (s.event (fun t => t.printLineFeed))

/-- LOOKUP_END (R123). -/
def execLookupEnd (s : State) : Host.Outcome State Fault Refusal :=
  .next (s.event (fun t => t.endLookup))

/-- QUERY_TIMEOUT (R130). -/
def execQueryTimeout (tag : Nat) (s : State) : Host.Outcome State Fault Refusal :=
  .next (s.event (fun t => t.queryTimeout tag))

/-- WAIT_LIST_TIMEOUT (R128). -/
def execWaitListTimeout (s : State) : Host.Outcome State Fault Refusal :=
  .next (s.event (fun t => t.waitListTimeout))

/-- TAPE_APPEND (R106). -/
def execTapeAppend (s : State) : Host.Outcome State Fault Refusal :=
  .next (s.event (fun t => t.tapeAppend))

/-- CORRECTION_CLOSING (R109). -/
def execCorrectionClosing (s : State) : Host.Outcome State Fault Refusal :=
  .next (s.event (fun t => t.correctionClosing))

end Sys2Proof.Machine
end

