-- ==== Sys2Proof/Machine/Dispatch.lean ====
section
/-! DEFINITION. The effect of each command on everything but the queue, one arm for each row of the table. -/

namespace Sys2Proof.Machine

/-- The effect of a command. -/
def exec (i : Instr) (s : State) : Host.Outcome State Fault Refusal :=
  match i with
  | .powerOn => Sys2Proof.Machine.execPowerOn s
  | .restartAssert point => Sys2Proof.Machine.execRestartAssert point s
  | .restartRelease => Sys2Proof.Machine.execRestartRelease s
  | .keyFrame value flags => Sys2Proof.Machine.execKeyFrame value flags s
  | .clear => Sys2Proof.Machine.execClear s
  | .textFrame codes => Sys2Proof.Machine.execTextFrame codes s
  | .settingFrame item value => Sys2Proof.Machine.execSettingFrame item value s
  | .here sender cls variant => Sys2Proof.Machine.execHere sender cls variant s
  | .supply report time => Sys2Proof.Machine.execSupply report time s
  | .powerFailing time => Sys2Proof.Machine.execPowerFailing time s
  | .saveComplete => Sys2Proof.Machine.execSaveComplete s
  | .wordAnswer tag verdict => Sys2Proof.Machine.execWordAnswer tag verdict s
  | .frameSent stateFirst => Sys2Proof.Machine.execFrameSent stateFirst s
  | .lineIdClash => Sys2Proof.Machine.execLineIdClash s
  | .frameDropped bytes => Sys2Proof.Machine.execFrameDropped bytes s
  | .codingError heard => Sys2Proof.Machine.execCodingError heard s
  | .lineStuck => Sys2Proof.Machine.execLineStuck s
  | .lineReleased => Sys2Proof.Machine.execLineReleased s
  | .beginTransmission quiet => Sys2Proof.Machine.execBeginTransmission quiet s
  | .arbitrationLoss stateFirst => Sys2Proof.Machine.execArbitrationLoss stateFirst s
  | .collectionWindowEnd => Sys2Proof.Machine.execCollectionWindowEnd s
  | .nextRollCall => Sys2Proof.Machine.execNextRollCall s
  | .powerSilenceExpiry => Sys2Proof.Machine.execPowerSilenceExpiry s
  | .char => Sys2Proof.Machine.execChar s
  | .space => Sys2Proof.Machine.execSpace s
  | .backspace => Sys2Proof.Machine.execBackspace s
  | .carriageReturn => Sys2Proof.Machine.execCarriageReturn s
  | .tab => Sys2Proof.Machine.execTab s
  | .index => Sys2Proof.Machine.execIndex s
  | .reverseIndex => Sys2Proof.Machine.execReverseIndex s
  | .halfUp => Sys2Proof.Machine.execHalfUp s
  | .halfDown => Sys2Proof.Machine.execHalfDown s
  | .correct => Sys2Proof.Machine.execCorrect s
  | .wordCorrect => Sys2Proof.Machine.execWordCorrect s
  | .lineCorrect => Sys2Proof.Machine.execLineCorrect s
  | .relocate => Sys2Proof.Machine.execRelocate s
  | .tabSet => Sys2Proof.Machine.execTabSet s
  | .tabClear => Sys2Proof.Machine.execTabClear s
  | .tabClearAll => Sys2Proof.Machine.execTabClearAll s
  | .lmSet => Sys2Proof.Machine.execLmSet s
  | .rmSet => Sys2Proof.Machine.execRmSet s
  | .marginRelease => Sys2Proof.Machine.execMarginRelease s
  | .pitch => Sys2Proof.Machine.execPitch s
  | .spacing => Sys2Proof.Machine.execSpacing s
  | .impression => Sys2Proof.Machine.execImpression s
  | .mode => Sys2Proof.Machine.execMode s
  | .underline => Sys2Proof.Machine.execUnderline s
  | .bold => Sys2Proof.Machine.execBold s
  | .center => Sys2Proof.Machine.execCenter s
  | .flushRight => Sys2Proof.Machine.execFlushRight s
  | .decimalTab => Sys2Proof.Machine.execDecimalTab s
  | .justify => Sys2Proof.Machine.execJustify s
  | .spell => Sys2Proof.Machine.execSpell s
  | .addWord => Sys2Proof.Machine.execAddWord s
  | .deleteWord => Sys2Proof.Machine.execDeleteWord s
  | .actionResume => Sys2Proof.Machine.execActionResume s
  | .heldRunFeed => Sys2Proof.Machine.execHeldRunFeed s
  | .printLineFeed => Sys2Proof.Machine.execPrintLineFeed s
  | .lookupEnd => Sys2Proof.Machine.execLookupEnd s
  | .queryTimeout tag => Sys2Proof.Machine.execQueryTimeout tag s
  | .waitListTimeout => Sys2Proof.Machine.execWaitListTimeout s
  | .listWriteEnd => Sys2Proof.Machine.execListWriteEnd s
  | .tapeAppend => Sys2Proof.Machine.execTapeAppend s
  | .correctionClosing => Sys2Proof.Machine.execCorrectionClosing s
  | .carriageBrakeEnd => Sys2Proof.Machine.execCarriageBrakeEnd s
  | .encoderEdge rightward interval => Sys2Proof.Machine.execEncoderEdge rightward interval s
  | .pwmPeriodStart => Sys2Proof.Machine.execPwmPeriodStart s
  | .carriageStall => Sys2Proof.Machine.execCarriageStall s
  | .homeSensorTrip => Sys2Proof.Machine.execHomeSensorTrip s
  | .wheelMoveEnded => Sys2Proof.Machine.execWheelMoveEnded s
  | .wheelHomeFound => Sys2Proof.Machine.execWheelHomeFound s
  | .flagNotFound => Sys2Proof.Machine.execFlagNotFound s
  | .feedEnded => Sys2Proof.Machine.execFeedEnded s
  | .advanceEnded => Sys2Proof.Machine.execAdvanceEnded s
  | .liftDrawn lift time => Sys2Proof.Machine.execLiftDrawn lift time s
  | .strikeIntervalEnd => Sys2Proof.Machine.execStrikeIntervalEnd s
  | .pulseEnd => Sys2Proof.Machine.execPulseEnd s
  | .settleEnd => Sys2Proof.Machine.execSettleEnd s
  | .deadlineExpiry timer => Sys2Proof.Machine.execDeadlineExpiry timer s
  | .coverOpen => Sys2Proof.Machine.execCoverOpen s
  | .coverClosed => Sys2Proof.Machine.execCoverClosed s
  | .ribbonSpent => Sys2Proof.Machine.execRibbonSpent s
  | .ribbonPresent => Sys2Proof.Machine.execRibbonPresent s
  | .tapeEndReport spent => Sys2Proof.Machine.execTapeEndReport spent s
  | .sagTimerExpiry => Sys2Proof.Machine.execSagTimerExpiry s
  | .decayTimerExpiry => Sys2Proof.Machine.execDecayTimerExpiry s
  | .frameStart => Sys2Proof.Machine.execFrameStart s
  | .compositionEnd => Sys2Proof.Machine.execCompositionEnd s
  | .startCell => Sys2Proof.Machine.execStartCell s
  | .huntFrameEnd => Sys2Proof.Machine.execHuntFrameEnd s
  | .pwmOnPhaseEnd => Sys2Proof.Machine.execPwmOnPhaseEnd s
  | .stepIntervalEnd pacer flag codeBit => Sys2Proof.Machine.execStepIntervalEnd pacer flag codeBit s
  | .powerLoss point => Sys2Proof.Machine.execPowerLoss point s

end Sys2Proof.Machine
end

