-- ==== Sys2Proof/Safety.lean ====
section
/-! DEFINITION. The terms in which the statements about the controller are made: when a command can happen, when an action can
be taken, when nothing follows a command of itself, and the bounds that a run of the controller keeps. -/

namespace Sys2Proof.Machine

/-! ## When a command has its effect -/

/-- The controller has power and is not held by the restart pin (R205, R209). -/
abbrev State.live (s : State) : Prop := s.powered = true ∧ s.restartHeld = false

/-- Nothing follows a command of itself: no correction is under way and the engine is in a state in which it neither takes an
op nor begins a motion (R55, R67, R68, R97). -/
abbrev State.still (s : State) : Prop :=
  s.corr.lifting = false ∧ (s.engine.state = .running ∨ s.engine.state = .halted ∨ s.engine.state = .locked
    ∨ s.engine.state = .down ∨ s.engine.state = .parked)

/-- The command by which the text unit takes an action of a kind (R11). -/
def ActionKind.command (k : ActionKind) : Instr :=
  match k with
  | .char => .char
  | .space => .space
  | .backspace => .backspace
  | .carriageReturn => .carriageReturn
  | .tab => .tab
  | .index => .index
  | .reverseIndex => .reverseIndex
  | .halfUp => .halfUp
  | .halfDown => .halfDown
  | .correct => .correct
  | .wordCorrect => .wordCorrect
  | .lineCorrect => .lineCorrect
  | .relocate => .relocate
  | .tabSet => .tabSet
  | .tabClear => .tabClear
  | .tabClearAll => .tabClearAll
  | .lmSet => .lmSet
  | .rmSet => .rmSet
  | .marginRelease => .marginRelease
  | .pitch => .pitch
  | .spacing => .spacing
  | .impression => .impression
  | .mode => .mode
  | .underline => .underline
  | .bold => .bold
  | .center => .center
  | .flushRight => .flushRight
  | .decimalTab => .decimalTab
  | .justify => .justify
  | .spell => .spell
  | .addWord => .addWord
  | .deleteWord => .deleteWord

/-- The head action `a` of the key queue, with `rest` behind it, is of a kind and may be taken now (R11). -/
abbrev State.offers (s : State) (k : ActionKind) (a : Action) (rest : List Action) : Prop :=
  s.live ∧ s.intake.queue = a :: rest ∧ a.kind = k ∧ s.text.waiting = none ∧ s.text.resume = none
    ∧ s.supply.phase = .running ∧ s.engine.startHomed = true

/-- The same, with no held run standing. -/
abbrev State.plain (s : State) (k : ActionKind) (a : Action) (rest : List Action) : Prop :=
  s.offers k a rest ∧ s.text.run = none

/-- The same in direct mode, with the engine not LOCKED and a number of slots free. -/
abbrev State.direct (s : State) (k : ActionKind) (a : Action) (rest : List Action) (slots : Nat) : Prop :=
  s.plain k a rest ∧ s.text.settings.mode = .direct ∧ s.engine.state ≠ .locked ∧ slots ≤ s.freeSlots

/-- The same in line mode. -/
abbrev State.inLine (s : State) (k : ActionKind) (a : Action) (rest : List Action) : Prop :=
  s.plain k a rest ∧ s.text.settings.mode = .line

/-! ## The message list -/

/-- From `d` to `d'` the message list becomes `l` and the standing faults `standing` (R154, R155). A MESSAGE phase goes on while its
message stands in the list and is no newer copy (`again`; log entry 53), and otherwise the LINE phase begins; in the LINE phase a list
that becomes non-empty calls for a MESSAGE phase at once if it has been empty since the last one. A showing cycle that is stopped
stands (R158). -/
abbrev Relisted (d : Display) (standing l : List Message) (again : Option Message) (d' : Display) : Prop :=
  d' = { d with
      messages := l, standing := standing, dirty := d.dirty || again.isSome, phase := d'.phase, phaseCount := d'.phaseCount,
      emptySince := d'.emptySince, messageDue := d'.messageDue }
    ∧ ((d.stopped = true ∨ ∃ m, d.phase = .message m ∧ m ∈ l ∧ again ≠ some m) →
      d'.phase = d.phase ∧ d'.phaseCount = d.phaseCount ∧ d'.emptySince = d.emptySince ∧ d'.messageDue = d.messageDue)
    ∧ (∀ m, d.stopped = false → d.phase = .message m → (m ∉ l ∨ again = some m) →
      d'.phase = .line ∧ d'.phaseCount = 0 ∧ d'.emptySince = l.isEmpty ∧ d'.messageDue = false)
    ∧ (d.stopped = false → d.phase = .line →
      d'.phase = .line ∧ d'.phaseCount = d.phaseCount ∧ d'.emptySince = (d.emptySince && l.isEmpty)
        ∧ d'.messageDue = (if l = [] then false else if d.messages = [] then d.emptySince else d.messageDue))

/-! ## The start -/

/-- What a start posts (R57, R58, R157, R205): START and the faults of the sensors, the newest first, and behind them, newest first,
RESTORED and LIST LOST as far as the list of 4 has room (R152, R153; log entry 24). -/
def State.startFaults (s : State) : List Message :=
  (if s.pins.ribbonSpent then [.ribbon] else []) ++ (if s.pins.coverOpen then [.cover] else []) ++ [.start]

/-- The transients that the checks of retained memory post, newest first (R205). -/
def State.startTransients (s : State) : List Message :=
  (if s.retained.restorable.isSome then [.restored] else [])
    ++ (if (parseWords s.retained.words).isSome then [] else [.listLost])

/-- The text unit after a start (R5, R10, R205): the settings of a valid settings record or the defaults, and with them the entries
of a saved line that is restored, PENDING at their saved positions in a working line of its own, in LINE mode with pp at the greatest
end among its CHARACTER entries. That entries at one position are numbered as they stand in the saved line is the model's choice (log
entry 63). -/
abbrev StartedText (s : State) (t : TextUnit) (nextId : Nat) : Prop :=
  let settings := match parseSettings s.retained.settings with
    | some (x, _) => x
    | none => Settings.defaults
  let wheel := match parseSettings s.retained.settings with
    | some (_, w) => w
    | none => none
  match s.retained.restorable with
  | none =>
    nextId = 0 ∧ t = { State.reset.text with settings := settings, previousWheel := wheel, pp := settings.lm }
  | some l =>
    nextId = l.length ∧ ∃ (es : List Entry) (pp : Nat),
      t = { State.reset.text with
          work := { entries := es, counter := l.length }, settings := { settings with mode := .line },
          previousWheel := wheel, pp := pp }
        ∧ es.length = l.length
        ∧ (∀ (i : Nat) (x : Entry) (k : Nat), l[i]? = some (x, k) → ∃ e ∈ es,
            e = { x with
                id := i, owner := if x.kind = .character then none else some k, state := .pending, wheel := none,
                mark := .plain, order := e.order })
        ∧ (∀ (i : Nat) (e : Entry), es[i]? = some e → e.order = i)
        ∧ es.Pairwise (fun a b => a.pos < b.pos ∨ (a.pos = b.pos ∧ a.id < b.id))
        ∧ (∀ e ∈ es, e.kind = .character → e.endPos ≤ pp)
        ∧ ((∃ e ∈ es, e.kind = .character ∧ e.endPos = pp) ∨ ((∀ e ∈ es, e.kind ≠ .character) ∧ pp = settings.lm))

/-- After the start sequence (R54, R68, R157, R159, R188, R194, R205; log entries 4 and 24): every block at its start values but for what
the checks of retained memory restore; the straps and the sensors are read, the start messages are posted, the saved mark is
clear, the engine is HOMING with its carriage phase begun unless the cover is open, and the first ROLL_CALL is queued, before the
STATE that HOMING asks for. -/
abbrev Started (s t : State) : Prop :=
  StartedText s t.text t.nextId
    ∧ t = { State.reset with
        pending := s.pending, clock := s.clock, pins := s.pins, nextId := t.nextId, text := t.text,
        retained :=
          { s.retained with
            words := if (parseWords s.retained.words).isSome then s.retained.words else encodeWords [],
            savedMark := clearMark },
        spell := { State.reset.spell with userList := (parseWords s.retained.words).getD [] },
        engine :=
          { State.reset.engine with
            state := .homing, tapeSpent := s.pins.tapeSpent,
            holds :=
              { cover := s.pins.coverOpen, ribbon := s.pins.ribbonSpent, wheel := false, low := false, heat := false },
            homing :=
              some { kind := .start,
                     phase := if s.pins.coverOpen then .carriageDue
                       else if s.pins.homeTripped then .clearing else .searching } },
        drive :=
          if s.pins.coverOpen then State.reset.drive
          else
            { State.reset.drive with
              homingDeadline := some 3000,
              carriage :=
                { State.reset.drive.carriage with
                  phase := .drive, duty := 40, period := 3333, watch := 9999,
                  move :=
                    some { kind := if s.pins.homeTripped then .signed else .search,
                           target := if s.pins.homeTripped then 30 else 0, cruise := 600,
                           rightward := s.pins.homeTripped, travelled := 0, leg := .profile, overshot := false } } },
        display :=
          { State.reset.display with
            messages := s.startFaults ++ s.startTransients.take (4 - s.startFaults.length),
            standing := s.startFaults, messageDue := true, emptySince := false },
        line :=
          { State.reset.line with
            station := s.pins.straps % 8, stamp := 2,
            places := [{ kind := .rollCall, stamp := 0, losses := 0 }, { kind := .state, stamp := 1, losses := 0 }] } }

/-! ## The wait list and room in the transmit queue -/

/-- From `u` to `v` a record is asked of the cartridge `c` (R127, R128): it takes the first tag at or after the counter that no
outstanding query bears, `m` tags on, and becomes ASKING; its query joins the outstanding table and its WORD_QUERY the transmit
queue. -/
abbrev Asked (u : State) (r : WordRecord) (c : RosterEntry) (m : Nat) (v : State) : Prop :=
  let tag := (u.spell.tagCounter + m) % 64
  u.spell.tagCounter < 64 → m ≤ u.spell.outstanding.length →
    (∀ j < m, ∃ q ∈ u.spell.outstanding, q.tag = (u.spell.tagCounter + j) % 64) → (∀ q ∈ u.spell.outstanding, q.tag ≠ tag) →
  v = { u with
    spell :=
      { u.spell with
        records := u.spell.records.map (fun x => if x.id = r.id then { x with state := .asking, tag := some tag } else x),
        outstanding := u.spell.outstanding ++ [{ tag := tag, record := some r.id }],
        tagCounter := (tag + 1) % 64 },
    line :=
      { u.line with
        stamp := u.line.stamp + 1,
        places := u.line.places ++ [{ kind := .wordQuery tag r.letters c.number, stamp := u.line.stamp, losses := 0 }] } }

/-- From `u` to `v` the wait list is served (R128): its head is asked, and leaves it, if the outstanding table holds fewer than 4
queries and the transmit queue has a place; otherwise nothing happens. -/
abbrev Served (u v : State) : Prop :=
  (u.spell.waitList = [] → v = u)
    ∧ ∀ (id : Nat) (rest : List Nat) (r : WordRecord), u.spell.waitList = id :: rest → u.spell.record? id = some r →
      ((4 ≤ u.spell.outstanding.length ∨ 8 ≤ u.line.places.length) → v = u)
      ∧ (u.spell.outstanding.length < 4 → u.line.places.length < 8 →
        ∀ (c : RosterEntry) (m : Nat), u.line.station? .cartridge = some c →
          Asked { u with spell := { u.spell with waitList := rest } } r c m v)

/-- From `u` to `v` room in the transmit queue is reported (R185): an owed STATE is queued and the wait list served, the STATE
first or the query first. -/
abbrev RoomTold (u : State) (first : Bool) (v : State) : Prop :=
  let paid (w : State) : State :=
    { w with
      line := if w.line.stateOwed = true then ({ w.line with stateOwed := false } : LineInterface).askState else w.line }
  (first = true → Served (paid u) v) ∧ (first = false → ∃ w : State, Served u w ∧ v = paid w)

/-! ## Line records -/

/-- The companions of a record stand with their owners, which are CHARACTER entries of it (R3). -/
abbrev LineRecord.Owned (r : LineRecord) : Prop :=
  (∀ e ∈ r.entries, e.kind = .character → e.owner = none)
    ∧ ∀ e ∈ r.entries, e.kind ≠ .character → ∃ o ∈ r.entries, e.owner = some o.id ∧ o.kind = .character

/-! ## Chains of entries and what a removal leaves -/

/-- The entries that are reached from the starting entries of a pool, each linked to one that is reached. -/
inductive Chained (link : Entry → Entry → Prop) (pool start : Entry → Prop) : Entry → Prop where
  | starts {x : Entry} (h : pool x) (hs : start x) : Chained link pool start x
  | joins {x y : Entry} (hx : Chained link pool start x) (h : pool y) (hl : link y x) : Chained link pool start y

/-- Two entries are contiguous or share a position (R117, R119). -/
abbrev Touching (x y : Entry) : Prop := x.pos + x.width = y.pos ∨ y.pos + y.width = x.pos ∨ x.pos = y.pos

/-- A character code of a letter (R118). -/
abbrev Letter (c : Nat) : Prop := (97 ≤ c ∧ c ≤ 122) ∨ (65 ≤ c ∧ c ≤ 90)

/-- An entry is a member of the letter run of `e` (R117): the chain of the CHARACTER entries of the record that are letters or
apostrophes, by contiguity and shared positions, that holds `e`. -/
abbrev LineRecord.InLetterRun (r : LineRecord) (e : Entry) : Entry → Prop :=
  Chained Touching (fun x => x ∈ r.entries ∧ x.kind = .character ∧ (Letter x.char ∨ x.char = 39)) (fun x => x.id = e.id)

/-- The spelling unit without some word records (R121): they leave the list and the wait list, their queries become orphans, and
the lookup of one of them has no record. -/
abbrev Spelling.without (sp : Spelling) (gone : WordRecord → Bool) : Spelling :=
  let out (i : Nat) : Bool := sp.records.any (fun r => gone r && decide (r.id = i))
  { sp with
    records := sp.records.filter (fun r => !gone r),
    waitList := sp.waitList.filter (fun i => !out i),
    outstanding := sp.outstanding.map (fun q => { q with record := q.record.filter (fun i => !out i) }),
    lookup := sp.lookup.map (fun k => { k with record := k.record.filter (fun i => !out i) }) }

/-- From `s` to `u` the CHARACTER entries `es` of the working line are removed with their companions (R3, R117): the other entries
stand, those of the letter runs of `es` and their companions with the mark NONE and the others with the mark they had, and the word
records that name a removed entry are dropped. -/
abbrev Removed (s : State) (es : List Entry) (u : State) : Prop :=
  let ids := es.map Entry.id
  let out (y : Entry) : Prop := y.id ∈ ids ∨ ∃ i ∈ ids, y.owner = some i
  let inRun (y : Entry) : Prop := ∃ e ∈ es, ∃ x, s.text.work.InLetterRun e x ∧ ownerId y = x.id
  (∀ y ∈ s.text.work.entries, ¬out y → ∃ z ∈ u.text.work.entries,
      z = { y with mark := z.mark } ∧ (inRun y → z.mark = .plain) ∧ (¬inRun y → z.mark = y.mark))
    ∧ (∀ z ∈ u.text.work.entries, ∃ y ∈ s.text.work.entries, y.id = z.id ∧ ¬out y)
    ∧ u.spell = s.spell.without (fun r => r.entries.any (fun i => ids.contains i))

/-! ## The glass -/

/-- The line cells of the working line (R142): `spots` are the positions of its CHARACTER entries in rising order, each with the running
end before it, the blank cells of the gap before it and its own cell; `o` is the origin, `r` the running end after the walk. -/
abbrev Walked (t : TextUnit) (o r : Nat) (spots : List Spot) : Prop :=
  let chars := t.work.chars
  let sw := spaceWidth t.settings.pitch
  o ≤ t.settings.lm ∧ o ≤ t.pp ∧ (∀ e ∈ chars, o ≤ e.pos)
    ∧ (o = t.settings.lm ∨ o = t.pp ∨ ∃ e ∈ chars, o = e.pos)
    ∧ (∀ e ∈ chars, e.endPos ≤ r) ∧ (r = o ∨ ∃ e ∈ chars, e.endPos = r) ∧ o ≤ r
    ∧ spots.Pairwise (fun x y => x.pos < y.pos)
    ∧ (∀ q, (∃ x ∈ spots, x.pos = q) ↔ ∃ e ∈ chars, e.pos = q)
    ∧ ∀ (i : Nat) (x : Spot), spots[i]? = some x →
      o ≤ x.before ∧ (∀ e ∈ chars, e.pos < x.pos → e.endPos ≤ x.before)
        ∧ (x.before = o ∨ ∃ e ∈ chars, e.pos < x.pos ∧ e.endPos = x.before)
        ∧ x.blanks = (if x.before < x.pos then max 1 ((x.pos - x.before) / sw) else 0)
        ∧ (i = 0 → x.cell = x.blanks) ∧ (∀ y, spots[i - 1]? = some y → 0 < i → x.cell = y.cell + 1 + x.blanks)

/-- The cursor cell of R143, found from the walk. -/
abbrev CursorAt (t : TextUnit) (r : Nat) (spots : List Spot) (c : Nat) : Prop :=
  let sw := spaceWidth t.settings.pitch
  (r ≤ t.pp → (spots = [] → c = (t.pp - r) / sw) ∧ ∀ x, spots.getLast? = some x → c = x.cell + 1 + (t.pp - r) / sw)
    ∧ (t.pp < r →
      (∀ x ∈ spots, x.pos = t.pp → c = x.cell)
      ∧ (∀ x ∈ spots, x.before ≤ t.pp → t.pp < x.pos →
        c = min (x.cell - x.blanks + (t.pp - x.before) / sw) (x.cell - 1))
      ∧ ((∀ x ∈ spots, x.pos ≠ t.pp ∧ ¬(x.before ≤ t.pp ∧ t.pp < x.pos)) →
        ∀ x ∈ spots, x.pos < t.pp → (∀ y ∈ spots, y.pos < t.pp → y.pos ≤ x.pos) → c = x.cell))

/-- What a glass cell shows of a line cell `n`, before the blink phase and the cursor (R142): the newest character of the position whose
cell it is, or a blank. -/
abbrev CellShows (t : TextUnit) (spots : List Spot) (n : Nat) (base : GlassCell) : Prop :=
  (∀ x ∈ spots, x.cell = n → ∀ e ∈ t.work.chars, e.pos = x.pos →
      (∀ y ∈ t.work.chars, y.pos = x.pos → y.order ≤ e.order) →
    base.glyph = some e.char ∧ base.flash = decide (e.mark = .unknown) ∧ base.inverted = false
      ∧ (base.underline = true ↔
        ∃ u ∈ t.work.entries, u.kind = .underscore ∧ ∃ y ∈ t.work.chars, y.pos = x.pos ∧ ownerId u = y.id))
    ∧ ((∀ x ∈ spots, x.cell ≠ n) → base = { glyph := none, underline := false, flash := false, inverted := false })

/-- The image that a composition makes from its reading, and the window origin after it (R141, R144, R147, R150, R151). -/
abbrev Shows (s : State) (image : Image) (w0 : Nat) : Prop :=
  let x := s.text.settings
  let odd := s.display.blinkOdd
  let run (k : RunKind) : Bool := decide (s.text.run.map HeldRun.kind = some k)
  image.indicators =
      [decide (x.pitch = .p10), decide (x.pitch = .p12), decide (x.pitch = .p15), decide (x.pitch = .ps),
       decide (x.mode = .line), x.justify, run .center, run .flush, run .decimal, x.underline, x.bold,
       decide (x.spell = .check) || decide (x.spell = .checkStop) && odd, x.marginRelease,
       decide (s.supply.source = some .battery) && (decide (3 ≤ s.supply.battery) || odd),
       decide (s.supply.region = .warm) || decide (s.supply.region = .hot) && odd,
       decide (s.engine.state = .locked) || decide (s.engine.state = .halted) && odd]
    ∧ image.cells.length = 40
    ∧ ∃ (o r c : Nat) (spots : List Spot), Walked s.text o r spots ∧ CursorAt s.text r spots c
      ∧ w0 = (if c < s.display.w0 then c - 8 else if s.display.w0 + 39 < c then c - 31 else s.display.w0)
      ∧ (∀ m, s.display.phase = .message m →
        image.cursor = none ∧ ∀ g < 40, image.cells[g]? =
          some { glyph := (m.text[g]?).bind (fun l => if l = ' ' then none else some l.toNat), underline := false,
                 flash := false, inverted := false })
      ∧ (s.display.phase = .line →
        image.cursor =
            some { cell := c - w0, shape := if s.text.run.isSome then .block else .under,
                   manner := if s.text.waiting.isSome then .steady else .blink }
          ∧ ∀ g < 40, ∃ base : GlassCell, CellShows s.text spots (w0 + g) base
            ∧ (let seen := if base.flash && !odd then { base with glyph := none, underline := false } else base
               image.cells[g]? =
                some (if g = c - w0 ∧ (s.text.waiting.isSome = true ∨ odd = false) then
                  (if s.text.run.isSome then { seen with inverted := true } else { seen with underline := true })
                else seen)))

/-! ## The bounds that a run keeps -/

/-- The supply and heat figures lie in their ranges and agree with the engine's holds: the ceiling lies between 1 and the
source limit, which is 2 while no report is held; H is at most 4,095, and HEAT stands exactly while the region is HOT, LOW
exactly while the LOW hold is set (R194, R197, R199, R200). -/
abbrev State.SupplyOk (s : State) : Prop :=
  1 ≤ s.supply.ceiling ∧ s.supply.ceiling ≤ s.supply.limit ∧ s.supply.limit ≤ 4 ∧ s.supply.heat ≤ 4095
    ∧ (s.supply.source = none → s.supply.limit = 2)
    ∧ (s.engine.holds.heat = true ↔ s.supply.region = .hot) ∧ s.engine.holds.low = s.supply.low

/-- The key queue holds at most 32 actions, and fewer than 24 while the hold state is clear (R165, R170). -/
abbrev State.QueueOk (s : State) : Prop :=
  s.intake.queue.length ≤ 32 ∧ (s.intake.hold = false → s.intake.queue.length < 24)

/-- The settings keep their relations: LM is less than RM, which is at most 1,600, the tab stops rise strictly, lie within 0 to
1,599 and are at most 24, the spacing is 2 to 4 and the current rise −2 to +2 (R6, R7, R9). -/
abbrev State.SettingsOk (s : State) : Prop :=
  s.text.settings.lm < s.text.settings.rm ∧ s.text.settings.rm ≤ 1600
    ∧ rising s.text.settings.tabs = true ∧ s.text.settings.tabs.length ≤ 24 ∧ (∀ q ∈ s.text.settings.tabs, q ≤ 1599)
    ∧ 2 ≤ s.text.settings.spacing ∧ s.text.settings.spacing ≤ 4
    ∧ -2 ≤ s.text.settings.rise ∧ s.text.settings.rise ≤ 2

/-- The message list holds at most 4 messages, faults before transients, the standing faults are faults and stand once each,
and the frame count is at most 15 (R140, R152). -/
abbrev State.GlassOk (s : State) : Prop :=
  s.display.messages.length ≤ 4 ∧ s.display.frameCount < 16
    ∧ s.display.messages = s.display.messages.filter Message.isFault
        ++ s.display.messages.filter (fun m => !m.isFault)
    ∧ s.display.standing.Nodup ∧ ∀ m ∈ s.display.standing, m.isFault = true

/-- The entries of the two line records have names of their own; a CHARACTER entry has a width, ends at 1,600 at most and is
no companion; no position of the working line holds three CHARACTER entries (R1, R3, R15). -/
abbrev State.LinesOk (s : State) : Prop :=
  (s.text.allEntries.map Entry.id).Nodup ∧ (∀ e ∈ s.text.allEntries, e.id < s.nextId)
    ∧ (∀ e ∈ s.text.allEntries, e.kind = .character → e.owner = none ∧ 0 < e.width ∧ e.endPos ≤ 1600)
    ∧ ∀ e ∈ s.text.work.chars, (s.text.work.charsAt e.pos).length ≤ 2

/-- A held run stands with no action to continue and no correction; its length keeps the limit of Table 2-4, and its CHARACTER
entries stand between its origin and pp and do not overlap (R12, R23, R98). -/
abbrev State.RunOk (s : State) : Prop :=
  ∀ h : HeldRun, s.text.run = some h →
    let chars := s.text.work.chars.filter (fun e => h.members.contains e.id)
    s.text.resume = none ∧ s.text.waiting ≠ some .correction
      ∧ h.origin ≤ s.text.pp ∧ h.startPp ≤ 1600
      ∧ s.text.pp - h.origin ≤ runLimit h.kind s.text.settings.lm s.text.settings.rm h.startPp h.origin
      ∧ (∀ e ∈ chars, h.origin ≤ e.pos ∧ e.endPos ≤ s.text.pp)
      ∧ chars.Pairwise (fun a b => a.endPos ≤ b.pos ∨ b.endPos ≤ a.pos)

/-- A correction under way has the text unit waiting with CORRECTION, and with none the correction list is empty (R95, R98). -/
abbrev State.CorrectionOk (s : State) : Prop :=
  (s.corr.lifting = true → s.text.waiting = some .correction) ∧ (s.corr.lifting = false → s.corr.items = [])

/-- pp is a position from 0 to 1,599, or 1,600 (R5), with what keeps it so: the lines, the run and the correction as they stand
in every run of the controller. -/
abbrev State.PointOk (s : State) : Prop := s.text.pp ≤ 1600 ∧ s.LinesOk ∧ s.RunOk ∧ s.CorrectionOk

/-- The slots of the strike queue hold at most 64 ops (R51), and an action that is to be handled afresh is one of those that
R18 and R19 have wait. -/
abbrev State.StrikesOk (s : State) : Prop :=
  s.engine.slots.length ≤ 64
    ∧ ∀ r : Resume, s.text.resume = some r → r.stage = .afresh → r.action.kind ∈ [.index, .reverseIndex, .mode]

/-- The recent words list holds at most 8 records, the outstanding table 4 queries, the wait list 4 records and the user word
list 128 words (R120, R128, R135). -/
abbrev State.WordsOk (s : State) : Prop :=
  s.spell.records.length ≤ 8 ∧ s.spell.outstanding.length ≤ 4 ∧ s.spell.waitList.length ≤ 4
    ∧ s.spell.userList.length ≤ 128

/-- Each line record holds at most 320 entries, companions included (R1). -/
abbrev State.RecordsOk (s : State) : Prop :=
  s.text.work.entries.length ≤ 320 ∧ ∀ p : PrintLine, s.text.print = some p → p.record.entries.length ≤ 320

/-- The transmit queue holds at most 8 frames in its places (R184). -/
abbrev State.PlacesOk (s : State) : Prop := s.line.places.length ≤ 8

end Sys2Proof.Machine
end

