-- ==== Sys2Proof/Certificates/Slice0/Obligations.lean ====
section
/-! DEFINITION. The statements about the controller. Where a statement gives `exec c s = .next (t.finish s)`, `t` is the state
after the command's own effect, and `finish` is what follows in the same event: FollowUpStill and FollowUpKeeps say what that
may be. -/

open Sys2Proof Sys2Proof.Machine

/-! ## The machine as a whole -/

/-- The command at the front of the queue is the one that a step runs, with the queue's rest; with no command waiting the
controller idles (log entry 4). -/
def Obligations.StepRunsFront : Prop :=
  ∀ s : State,
    (∀ c rest, s.pending = c :: rest → step s = exec c { s with pending := rest })
      ∧ (s.pending = [] → step s = .next s)

/-- No command changes the queue of the commands that wait. -/
def Obligations.QueueUntouched : Prop := ∀ (c : Instr) (s t : State), exec c s = .next t → t.pending = s.pending

/-- While the controller has no power or is held by the restart pin, the report of a sensor changes the sensor's pin alone, and any
other command than POWER_ON, POWER_LOSS and the two edges of the restart pin changes nothing (R209, log entry 8). The home sensor is
left by an encoder edge that carries the count above 0 (log entry 21). -/
def Obligations.NothingWithoutPower : Prop :=
  ∀ (c : Instr) (s : State), (s.powered = false ∨ s.restartHeld = true) →
    (match c with
      | .powerOn | .restartAssert _ | .restartRelease | .powerLoss _ => True
      | .coverOpen => exec c s = .next { s with pins := { s.pins with coverOpen := true } }
      | .coverClosed => exec c s = .next { s with pins := { s.pins with coverOpen := false } }
      | .ribbonSpent => exec c s = .next { s with pins := { s.pins with ribbonSpent := true } }
      | .ribbonPresent => exec c s = .next { s with pins := { s.pins with ribbonSpent := false } }
      | .tapeEndReport spent => exec c s = .next { s with pins := { s.pins with tapeSpent := spent } }
      | .homeSensorTrip => exec c s = .next { s with pins := { s.pins with homeTripped := true } }
      | .encoderEdge rightward _ =>
        let count := if rightward then s.drive.carriage.count + 1 else s.drive.carriage.count - 1
        exec c s = .next { s with pins := { s.pins with homeTripped := s.pins.homeTripped && decide (count ≤ 0) } }
      | _ => exec c s = .next s)

/-- With no correction under way, no waiting reason, and an engine that neither takes ops nor begins motions, what follows a
command in its event is the glass alone: the dirty mark, a composition that begins, and the window that it moves (R147). The mark is
set where it was set and where the event changed a line record, pp, a setting, the held run, whether the text unit waits, the engine's
state between LOCKED, HALTED and the others, the source, the battery band, the heat region, the ceiling, a message, the blink phase or
the showing cycle's phase, and it is clear once a composition begins (R14, R146, R194). In every state, such a change, made by the
command or by what follows it, leaves the mark set or a composition begun. Which changes set the mark, each part of the event by itself,
is the model's choice in log entry 18, that the window moves in the event in which a composition begins that in log entry 51, and that the
battery band is the level's, whatever the source, that in log entry 62. -/
def Obligations.FollowUpStill : Prop :=
  ∀ (s old : State) (frame : Bool),
    let shown (e : EngineState) : Nat := match e with
      | .locked => 2
      | .halted => 1
      | _ => 0
    let changed (a b : State) : Prop := a.text.work ≠ b.text.work ∨ a.text.print ≠ b.text.print ∨ a.text.pp ≠ b.text.pp
      ∨ a.text.settings ≠ b.text.settings ∨ a.text.run ≠ b.text.run ∨ a.text.waiting.isSome ≠ b.text.waiting.isSome
      ∨ shown a.engine.state ≠ shown b.engine.state ∨ a.supply.source ≠ b.supply.source
      ∨ ¬(a.supply.battery < 3 ↔ b.supply.battery < 3) ∨ a.supply.region ≠ b.supply.region
      ∨ a.supply.ceiling ≠ b.supply.ceiling ∨ a.display.messages ≠ b.display.messages
      ∨ a.display.blinkOdd ≠ b.display.blinkOdd ∨ a.display.phase ≠ b.display.phase
    (s.still → s.text.waiting = none →
      ∃ d : Display, s.finishIn old frame = { s with display := d }
        ∧ d = { s.display with dirty := d.dirty, composer := d.composer, w0 := d.w0 }
        ∧ (let marks : Prop := s.display.dirty = true ∨ changed old s
           let begins : Prop := marks ∧ s.display.composer = .idle ∧ s.supply.phase = .running
             ∧ ((3 ≤ s.supply.ceiling ∧ s.supply.source ≠ some .battery) ∨ (frame = true ∧ s.display.frameCount % 4 = 0))
           (d.dirty = true ↔ marks ∧ ¬begins)
            ∧ (¬begins → d.composer = s.display.composer ∧ d.w0 = s.display.w0)
            ∧ (begins → ∃ image : Image, d.composer = .composing image
              ∧ ((∀ e ∈ s.text.work.chars, 0 < e.width) → (s.text.work.chars.map Entry.order).Nodup → Shows s image d.w0))))
    ∧ (changed old s ∨ changed s (s.finishIn old frame) →
      (s.finishIn old frame).display.dirty = true
        ∨ s.display.composer = .idle ∧ ∃ image, (s.finishIn old frame).display.composer = .composing image)

/-- Whatever follows a command in its event, it changes no setting, nothing of the key queue, the user word list, the roster,
retained memory, the pins, the ceiling or the power phase, and none of the commands that wait. -/
def Obligations.FollowUpKeeps : Prop :=
  ∀ (s old : State) (frame : Bool),
    (s.finishIn old frame).text.settings = s.text.settings
      ∧ (s.finishIn old frame).intake = s.intake
      ∧ (s.finishIn old frame).spell.userList = s.spell.userList
      ∧ (s.finishIn old frame).line.roster = s.line.roster
      ∧ (s.finishIn old frame).retained = s.retained
      ∧ (s.finishIn old frame).pins = s.pins
      ∧ (s.finishIn old frame).supply.ceiling = s.supply.ceiling
      ∧ (s.finishIn old frame).supply.phase = s.supply.phase
      ∧ (s.finishIn old frame).pending = s.pending

/-- An idle READY engine takes the first op in the same event (R55): a FEED op makes it RUNNING and asks the feed pacer for 12
steps for each half-line, forward for a positive feed (R64, R90). A STRIKE op fixes its petal and pulse width (R49) and makes its
carriage move and its wheel move by the shorter path (R48), together at levels 3 and 4 and the carriage first at 1 and 2, with their
deadlines (R60, R62, R92); a strike already in place goes on to its rise or its lift. An op whose character is not on the wheel is
dropped with CHAR, a tape strike with a spent tape with TAPE (R61). A RETURN op moves the carriage and feeds (R65). An engine with an
empty queue makes a rest move, or re-homes the wheel (R67, R71); homing begins its carriage phase and its wheel phase unless the
cover is open (R68, R69). No two characters of a wheel have one petal (R70). The model's choice in these clauses: a RETURN with a feed
of 0 sets the paper rise to 0 as its carriage move begins (log entry 14); an op, a rest move and a homing phase begin only with the feed
pacer or the channel IDLE (log entry 20); a character that is not on the wheel is named before a spent tape (log entry 45); the 30-unit
move cruises at 600 units/s (log entry 46). -/
def Obligations.EngineTakesFeed : Prop :=
  (∀ (s : State) (o : Op) (rest : List Op),
    s.engine.state = .ready → s.engine.restMove = false → s.engine.rehome = false → s.drive.feed = .idle →
      (s.engine.head = some o ∧ s.engine.slots = rest) ∨ (s.engine.head = none ∧ s.engine.slots = o :: rest) →
    let u := s.takeOp o rest
    let level := s.supply.ceiling
    let doubled : Nat := if level ≤ 2 then 2 else 1
    let cruise : Nat := if level = 4 then 1200 else if 2 ≤ level then 960 else 600
    let wheelSpeed : Nat := if level = 4 then 480 else if 2 ≤ level then 360 else 240
    let pace (petal width : Nat) (st : Stage) : Progress :=
      { level := level, region := s.supply.region, petal := petal, width := width, stage := st }
    let begun (p : Progress) (d : Drive) : State :=
      { s with
        engine := { s.engine with state := .running, slots := rest, head := some o, progress := some p },
        drive := d, line := s.line.askState }
    let driven (d : Drive) (p : Int) : Drive :=
      { d with
        carriage :=
          { d.carriage with
            phase := .drive, duty := 40, period := 3333, watch := 9999, count := p, capture := 0,
            move :=
              some { kind := .toPosition, target := o.target, cruise := cruise, rightward := decide (p < o.target),
                     travelled := 0, leg := .profile, overshot := false } },
        carriageDeadline := some (doubled * (2 * ((o.target - p).natAbs * 1000 / cruise + 80))) }
    let turned (d : Drive) (c petal : Nat) : Drive :=
      let n := (petal + 96 - c % 96) % 96
      let back := if n ≤ 48 then n else 96 - n
      { d with
        wheel := .moving (decide (n ≤ 48)) back wheelSpeed 1,
        wheelDeadline := some (doubled * (2 * (back * 1000 / wheelSpeed + 80))) }
    let fed (d : Drive) (n : Int) : Drive := { d with feed := .feeding (decide (0 ≤ n)) (12 * n.natAbs) 1 }
    (∀ n, s.takeOps (n + 1) = u.takeOps n)
    ∧ s.engineActs = (u.takeOps (s.engine.slots.length + 1)).idleEngine.advanceHoming
    ∧ (o.kind = .feed → o.feed ≠ 0 → u = begun (pace 0 0 .feeding) (fed s.drive o.feed) ∧ s.engineActs = u)
    ∧ (∀ (p : Int) (c petal cls : Nat), o.kind = .strike → s.engine.carriage = some p → s.engine.petal = some c →
        c < 96 → petal < 96 → petalFor s.engine.wheel o.char = some petal →
        impressionClass (s.engine.wheel.getD 0) o.char = cls → (o.medium = .tape → s.engine.tapeSpent = false) →
        1 ≤ level → level ≤ 4 → s.drive.carriage.phase = .idle → s.drive.wheel = .idle →
      let base := (250 + 150 * cls) * (match o.impression with | .light => 3 | .normal => 4 | .heavy => 5) / 4
      let lifted := if o.medium = .tape then base * 5 / 4 else base
      let width := max 300 (min 1500 (if level = 1 then lifted * 7 / 8 else lifted))
      let done (st : Stage) (d : Drive) : Prop := u = begun (pace petal width st) d ∧ s.engineActs = u
      (3 ≤ level → p ≠ o.target → petal ≠ c → done (.moves true true) (turned (driven s.drive p) c petal))
      ∧ (3 ≤ level → p ≠ o.target → petal = c → done (.moves true false) (driven s.drive p))
      ∧ (p = o.target → petal ≠ c → done (.moves false true) (turned s.drive c petal))
      ∧ (level ≤ 2 → p ≠ o.target → done .carriageFirst (driven s.drive p))
      ∧ (p = o.target → petal = c → o.rise ≠ s.engine.paperRise → done .rise (fed s.drive (o.rise - s.engine.paperRise)))
      ∧ (p = o.target → petal = c → o.rise = s.engine.paperRise → s.drive.lift o.medium = .released →
        done .lift
          { s.drive with
            ribbonLift := if o.medium = .ribbon then .pulling else .released,
            tapeLift := if o.medium = .tape then .pulling else .released }))
    ∧ (∀ (id : Nat) (e : Entry), o.kind = .strike → o.ref = some id → s.text.find id = some e →
      (petalFor s.engine.wheel o.char = none → o.origin = .text → e.state = .queued →
        u.text.find id = none ∧ u.display = s.display.post .char ∧ u.engine.head = none ∧ u.engine.progress = none
          ∧ u.engine.state = (if s.engine.holds.any then .held else .ready) ∧ u.drive = s.drive
          ∧ u.engine.slots.length = rest.length ∧ u.engine.lastPulse = s.engine.lastPulse)
      ∧ ((petalFor s.engine.wheel o.char = none ∨ (o.medium = .tape ∧ s.engine.tapeSpent = true)) →
          o.origin = .correction → e.state = .lifting → s.corr.items ≠ [] →
        u.corr = { s.corr with items := [] } ∧ u.engine.slots = rest.filter (fun q => !q.isTapeStrike)
          ∧ u.text = (id :: (rest.filter Op.isTapeStrike).filterMap Op.ref).foldl
              (fun t i => t.modify i (fun y => { y with state := .printed })) s.text
          ∧ u.display = s.display.post (if petalFor s.engine.wheel o.char = none then .char else .tape)
          ∧ u.engine.head = none ∧ u.engine.progress = none ∧ u.drive = s.drive))
    ∧ (o.kind = .strike → o.ref = none → o.origin = .text → petalFor s.engine.wheel o.char = none →
      u.text = s.text ∧ u.display = s.display.post .char ∧ u.engine.slots = rest ∧ u.engine.head = none
        ∧ u.engine.progress = none ∧ u.engine.state = (if s.engine.holds.any then .held else .ready) ∧ u.drive = s.drive)
    ∧ (∀ p : Int, o.kind = .carriageReturn → s.engine.carriage = some p → 1 ≤ level → level ≤ 4 →
        s.drive.carriage.phase = .idle →
      (3 ≤ level → p ≠ o.target → o.feed ≠ 0 →
        u = begun (pace 0 0 (.returning true true)) (fed (driven s.drive p) o.feed) ∧ s.engineActs = u)
      ∧ (3 ≤ level → p ≠ o.target → o.feed = 0 →
        u = (begun (pace 0 0 (.returning true false)) (driven s.drive p)).setPaperRise 0 ∧ s.engineActs = u)
      ∧ (level ≤ 2 → p ≠ o.target →
        u = begun (pace 0 0 .returnCarriageFirst) (driven s.drive p) ∧ s.engineActs = u)
      ∧ (p = o.target → o.feed ≠ 0 →
        u = begun (pace 0 0 (.returning false true)) (fed s.drive o.feed) ∧ s.engineActs = u)))
  ∧ (∀ s : State,
    let rest : Nat := match s.text.settings.mode with | .direct => min s.text.pp 1599 | .line => s.text.settings.lm
    let cruise : Nat := if s.supply.ceiling = 4 then 1200 else if 2 ≤ s.supply.ceiling then 960 else 600
    (∀ p : Int, s.engine.state = .ready → s.engine.restMove = false → s.engine.rehome = false → s.engine.head = none →
        s.engine.slots = [] → s.engine.carriage = some p → p ≠ rest → s.drive.carriage.phase = .idle →
        1 ≤ s.supply.ceiling → s.supply.ceiling ≤ 4 →
      s.engineActs =
        { s with
          engine := { s.engine with restMove := true },
          drive :=
            { s.drive with
              carriage :=
                { s.drive.carriage with
                  phase := .drive, duty := 40, period := 3333, watch := 9999, count := p, capture := 0,
                  move :=
                    some { kind := .toPosition, target := rest, cruise := cruise, rightward := decide (p < rest),
                           travelled := 0, leg := .profile, overshot := false } },
              carriageDeadline :=
                some ((if s.supply.ceiling ≤ 2 then 2 else 1)
                  * (2 * (((rest : Int) - p).natAbs * 1000 / cruise + 80))) } })
    ∧ ((s.engine.state = .ready ∨ s.engine.state = .held) → s.engine.restMove = false → s.engine.rehome = true →
        s.engine.holds.cover = false → s.drive.wheel = .idle →
      s.engineActs =
        { s with
          engine :=
            { s.engine with
              state := .homing, rehome := false, homing := some { kind := .wheelOnly, phase := .wheelSearch } },
          drive := { s.drive.releaseLifts with wheel := .searching 1 [], wheelDeadline := some 3520 },
          line := s.line.askState })
    ∧ (∀ h : Homing, s.engine.state = .homing → s.engine.homing = some h →
      (s.engine.holds.cover = true → s.engineActs = s)
      ∧ (s.engine.holds.cover = false → h.phase = .carriageDue → s.drive.carriage.phase = .idle →
        s.engineActs =
          { s with
            engine :=
              { s.engine with
                homing := some { h with phase := if s.pins.homeTripped then .clearing else .searching } },
            drive :=
              { s.drive with
                homingDeadline := some 3000,
                carriage :=
                  { s.drive.carriage with
                    phase := .drive, duty := 40, period := 3333, watch := 9999, count := 0, capture := 0,
                    move :=
                      some { kind := if s.pins.homeTripped then .signed else .search,
                             target := if s.pins.homeTripped then 30 else 0, cruise := 600,
                             rightward := s.pins.homeTripped, travelled := 0, leg := .profile,
                             overshot := false } } } })
      ∧ (s.engine.holds.cover = false → h.phase = .wheelDue → s.drive.wheel = .idle →
        s.engineActs =
          { s with
            engine := { s.engine with rehome := false, homing := some { h with phase := .wheelSearch } },
            drive := { s.drive with wheel := .searching 1 [], wheelDeadline := some 3520 } })))
  ∧ (∀ (wheel : Option Nat) (a b p : Nat), petalFor wheel a = some p → petalFor wheel b = some p → a = b ∧ p < 96)
  ∧ (∀ (wheel : Option Nat) (a : Nat), petalFor wheel a = none ↔ onWheel wheel a = false)

/-! ## Bounds that every step keeps -/

/-- At reset the bounds hold: of supply and heat, of the key queue, of the settings, of the message list, of the transmit queue, of the
strike queue, of the spelling unit's lists, of the correction list, of the two line records, and of pp with the lines, the run and the
correction. -/
def Obligations.BoundsAtReset : Prop :=
  State.reset.SupplyOk ∧ State.reset.QueueOk ∧ State.reset.SettingsOk ∧ State.reset.GlassOk ∧ State.reset.PlacesOk
    ∧ State.reset.StrikesOk ∧ State.reset.WordsOk ∧ State.reset.corr.items.length ≤ 32 ∧ State.reset.PointOk
    ∧ State.reset.RecordsOk

/-- Every step keeps the supply and heat figures in their ranges and in agreement with the engine's holds: the ceiling between 1 and
the source limit, which is 2 while no report is held, H at most 4,095, HEAT standing exactly in HOT, LOW exactly with the LOW hold. -/
def Obligations.StepKeepsSupply : Prop := ∀ s t : State, s.SupplyOk → step s = .next t → t.SupplyOk

/-- Every step keeps the bound of the key queue, 32 actions and fewer than 24 while the hold state is clear, the 8 places of the
transmit queue, the 8 records of the recent words list, the 4 outstanding queries, the 4 records of the wait list and the 128 words of
the user list; the 320 entries of each line record, a wrap that carries a word included, by the model's choice in
log entry 44; the 64 slots of the strike queue, where a closing whose rise differs from the paper's by more than 64 half-lines, which
no rule bounds (log entry 36), is shut out; and the 32 items of the correction list, where no position holds three characters, which
StepKeepsSettings keeps. -/
def Obligations.StepKeepsQueues : Prop :=
  ∀ s t : State, step s = .next t →
    (s.QueueOk → t.QueueOk) ∧ (s.PlacesOk → t.PlacesOk) ∧ (s.WordsOk → t.WordsOk) ∧ (s.RecordsOk → t.RecordsOk)
      ∧ (s.StrikesOk →
          (∀ rest, s.pending = .correctionClosing :: rest → (s.text.settings.rise - s.engine.paperRise).natAbs ≤ 64) →
        t.StrikesOk)
      ∧ (s.corr.items.length ≤ 32 → s.LinesOk → t.corr.items.length ≤ 32)

/-- Every step keeps the relations of the settings: LM less than RM, RM at most 1,600, at most 24 strictly rising tab stops of at most
1,599, the spacing 2 to 4 and the rise −2 to +2; and with them pp at most 1,600, where the entries have names of their own and end at
1,600 at most with no third character at a position, a held run keeps its limit between its origin and pp, and a correction under way
has the text unit wait, all of which every step keeps too. -/
def Obligations.StepKeepsSettings : Prop :=
  ∀ s t : State, s.SettingsOk → step s = .next t → t.SettingsOk ∧ (s.PointOk → t.PointOk)

/-- Every step keeps the message list at 4 messages at most with the faults first, the standing faults without repeats, and the frame
count below 16. -/
def Obligations.StepKeepsMessages : Prop := ∀ s t : State, s.GlassOk → step s = .next t → t.GlassOk

/-- The settings record and the saved line are written only by the save, or cut short with it. -/
def Obligations.OnlySaveWrites : Prop :=
  ∀ (c : Instr) (s t : State), exec c s = .next t →
    (match c with
      | .saveComplete | .powerLoss _ | .restartAssert _ => True
      | _ => t.retained.settings = s.retained.settings ∧ t.retained.savedLine = s.retained.savedLine)

/-! ## The wire, frames and records -/

/-- The receiver reads from the intervals that a frame makes on the wire the bytes that it was made of (R174 to R176). -/
def Obligations.WireRoundTrip : Prop :=
  ∀ bytes : List Byte, 3 ≤ bytes.length → hear (frameIntervals bytes) = .frame bytes

/-- A built frame has byte sum 0, the length of its length field, and gives back its sender, kind and addressee (R174, Table
11-1). -/
def Obligations.FrameFields : Prop :=
  ∀ (sender kind addressee : Nat) (payload : List Byte),
    sender < 8 → kind < 32 → addressee < 16 → payload.length ≤ 15 →
    let b := frameBytes sender kind addressee payload
    byteSum b = 0 ∧ b.length = frameLength b + 3 ∧ frameSender b = sender ∧ frameKind b = kind
      ∧ frameAddressee b = addressee ∧ (b.drop 2).take payload.length = payload

/-- A settings record gives back the settings that are retained and the wheel code; the others take their start values (R10,
R208). -/
def Obligations.SettingsRecordRoundTrip : Prop :=
  ∀ (x : Settings) (wheel : Option Nat),
    x.lm < x.rm → x.rm ≤ 1600 → rising x.tabs = true → x.tabs.length ≤ 24 → (∀ t ∈ x.tabs, t ≤ 1599) → 2 ≤ x.spacing →
    x.spacing ≤ 4 → (∀ w, wheel = some w → w < 16) →
    parseSettings (encodeSettings x wheel)
      = some ({ x with underline := false, bold := false, marginRelease := false, rise := 0 }, wheel)

/-- A user word list record gives back the list (R135, R208). -/
def Obligations.WordListRoundTrip : Prop :=
  ∀ ws : List (List Nat), ws.length ≤ 128 → wordsInOrder ws = true →
    (∀ w ∈ ws, 1 ≤ w.length ∧ w.length ≤ 24 ∧ ∀ c ∈ w, c = 39 ∨ (97 ≤ c ∧ c ≤ 122)) →
    parseWords (encodeWords ws) = some ws

/-- A saved line record gives back, for each entry in turn, its position, width, offset, character, kind and rise, and for a
companion the place of its owner in the record (R203, R208). -/
def Obligations.SavedLineRoundTrip : Prop :=
  ∀ l : List Entry, l.length ≤ 320 → noThird l = true → (l.map Entry.id).Nodup →
    (∀ e ∈ l, e.pos + e.width ≤ 1600 ∧ 6 ≤ e.width ∧ e.width ≤ 14 ∧ e.offset ≤ 4 ∧ isCharCode e.char = true
      ∧ -2 ≤ e.rise ∧ e.rise ≤ 2 ∧ (e.kind = .character → e.owner = none)
      ∧ (e.kind ≠ .character → ∃ o ∈ l, e.owner = some o.id ∧ o.kind = .character)) →
    ∃ r, parseSavedLine (encodeSavedLine l) = some r ∧ r.length = l.length ∧
      ∀ (i : Nat) (e : Entry), l[i]? = some e → ∃ (x : Entry) (k : Nat), r[i]? = some (x, k)
        ∧ x.pos = e.pos ∧ x.width = e.width ∧ x.offset = e.offset ∧ x.char = e.char ∧ x.kind = e.kind ∧ x.rise = e.rise
        ∧ (e.kind ≠ .character → ∃ o : Entry, l[k]? = some o ∧ e.owner = some o.id)

/-! ## Supply, heat and restart -/

/-- POWER_ON with the restart pin released, and the release of the pin with power applied, run the start sequence (R205): every block at
its start values but for what the checks of retained memory restore, the station number and the sensors read from the pins, the saved
mark clear, START posted with the sensors' faults, LIST LOST and RESTORED, the engine HOMING with its carriage phase begun unless
the cover is open, and the first ROLL_CALL queued. A restored line stands PENDING at its saved positions with fresh order numbers
in position order, entries at one position as they stand in the saved line (the model's choice in log entry 63), in LINE mode, with pp at
the greatest end of its CHARACTER entries. POWER_ON with the pin held low holds every block at
its start values (R209), and the release of the pin without power changes the pin alone. That START comes before the other messages
and the ROLL_CALL before the STATE is log entry 24, that the pin's release and POWER_ON each run the sequence is log entry 4, the cruise of
600 units/s of the 30-unit move is log entry 46, and the duty, period and watch of 0 of a carriage that has not moved are log entry 49:
these are the model's choice. -/
def Obligations.StartSequence : Prop :=
  ∀ s : State,
    (s.restartHeld = false → ∃ t : State, exec .powerOn s = .next t ∧ Started s t)
      ∧ (s.powered = true → s.restartHeld = true → ∃ t : State, exec .restartRelease s = .next t ∧ Started s t)
      ∧ (s.restartHeld = true →
        exec .powerOn s
          = .next { State.reset with
              pending := s.pending, clock := s.clock, pins := s.pins, retained := s.retained, powered := true,
              restartHeld := true })
      ∧ (s.powered = false → s.restartHeld = true → exec .restartRelease s = .next { s with restartHeld := false })

/-- A low restart pin holds every block at its start values, and so does a loss of power (R201, R209; log entries 4 and 9). A list write
under way leaves the user word list invalid, and without one it stands. Without a save under way the other three records stand; with one,
the settings record, the saved line and the saved mark are written in this order, so that the records before the point at which the save
is cut are whole, one being written is invalid, and those behind it stand (R201, R203). A mark whose write is cut names no line. That the
blocks stand at their start values without power is log entry 9; that the settings record holds the text unit's previous wheel code is log
entry 31; and that the saved line is savedEntries, in the corners that R203 and R208 leave, is log entry 29, with the order of entries
that share a place log entry 63: these are the model's choice. -/
def Obligations.RestartAndPowerLoss : Prop :=
  ∀ (s : State) (p : SavePoint),
    let left (r : Retained) : Prop :=
      let saving : Prop := s.supply.phase = .saving ∧ s.supply.saveBegun = true
      (s.spell.writing = none → r.words = s.retained.words)
        ∧ (s.spell.writing ≠ none → parseWords r.words = none)
        ∧ (¬saving →
          r.settings = s.retained.settings ∧ r.savedLine = s.retained.savedLine ∧ r.savedMark = s.retained.savedMark)
        ∧ (saving → p = .settingsRecord →
          parseSettings r.settings = none ∧ r.savedLine = s.retained.savedLine ∧ r.savedMark = s.retained.savedMark)
        ∧ (saving → p = .settingsNext →
          r.settings = s.retained.settings ∧ r.savedLine = s.retained.savedLine ∧ r.savedMark = s.retained.savedMark)
        ∧ (saving → p ≠ .settingsNext → p ≠ .settingsRecord →
          r.settings = encodeSettings s.text.settings s.text.previousWheel
            ∧ (s.text.settings.mode = .direct ∨ p = .lineNext →
              r.savedLine = s.retained.savedLine ∧ r.savedMark = s.retained.savedMark)
            ∧ (s.text.settings.mode = .line → p = .savedLine →
              parseSavedLine r.savedLine = none ∧ r.savedMark = s.retained.savedMark)
            ∧ (s.text.settings.mode = .line → p = .markNext →
              r.savedLine = encodeSavedLine s.savedEntries ∧ r.savedMark = s.retained.savedMark)
            ∧ (s.text.settings.mode = .line → p = .savedMark →
              r.savedLine = encodeSavedLine s.savedEntries
                ∧ (s.savedEntries = [] → r.savedMark = s.retained.savedMark)
                ∧ (s.savedEntries ≠ [] → ∀ line, markNames r.savedMark line = false)))
    (∃ r, exec (.restartAssert p) s
        = .next { State.reset with
            pending := s.pending, clock := s.clock, pins := s.pins, retained := r, powered := s.powered,
            restartHeld := true }
      ∧ left r)
    ∧ (s.powered = true →
      ∃ r, exec (.powerLoss p) s
        = .next { State.reset with
            pending := s.pending, clock := s.clock, pins := s.pins, retained := r, powered := false,
            restartHeld := s.restartHeld }
      ∧ left r)

/-- The save ends: SAVED, the strike queue and both line records empty; the settings record is written, in LINE mode the saved line and,
if it holds an entry, the saved mark that names it (R203). The saved line holds the print line's entries that are not PRINTED and behind
them the working line's entries, shifted to follow them after one space, at most 320 in position order; an owner that would pass 1,600 or
find no room is left out with its companions, and so is each entry to the right of an owner that would pass 1,600, an owner with its
companions. Each owner stands before its companions (R208). That a companion whose owner is PRINTED is left out and that a later owner
which fits is saved is log entry 29, and so is that a stroke left of its owner stands behind it; that entries which share a place stand in
the order of savedEntries is log entry 63; that the settings record holds the text unit's previous wheel code is log entry 31: these are
the model's choice. -/
def Obligations.SaveCompletes : Prop :=
  ∀ s : State, s.live → s.supply.phase = .saving →
    (s.retained.savedMark = clearMark → ∀ (t : State) (p : SavePoint),
      exec (.powerLoss p) s = .next t → t.retained.restorable = none)
    ∧ (s.supply.saveBegun = true →
      ∃ t : State, exec .saveComplete s = .next (t.finish s) ∧ t.supply.phase = .saved
        ∧ t.engine.slots = [] ∧ t.engine.head = none ∧ t.text.work = LineRecord.empty ∧ t.text.print = none
        ∧ t.spell.records = []
        ∧ t.retained.settings = encodeSettings s.text.settings s.text.previousWheel ∧ t.retained.words = s.retained.words
        ∧ (s.text.settings.mode = .direct →
            t.retained.savedLine = s.retained.savedLine ∧ t.retained.savedMark = s.retained.savedMark)
        ∧ (s.text.settings.mode = .line →
            t.retained.savedLine = encodeSavedLine s.savedEntries
            ∧ (s.savedEntries ≠ [] → markNames t.retained.savedMark t.retained.savedLine = true)
            ∧ (s.savedEntries = [] → t.retained.savedMark = s.retained.savedMark)))
    ∧ s.savedEntries.length ≤ 320
    ∧ ((s.text.allEntries.map Entry.id).Nodup → s.text.work.Owned → (∀ p, s.text.print = some p → p.record.Owned) →
      let left : List Entry := match s.text.print with
        | some p => p.record.entries.filter (fun e => decide (e.state ≠ .printed))
        | none => []
      let part := left.filter (fun e => left.any (fun o => decide (o.id = ownerId e)))
      let work := s.text.work.entries
      let saved := s.savedEntries
      ∀ far least : Nat,
        ((∃ e ∈ part, e.kind = .character ∧ e.endPos = far) ∧ ∀ e ∈ part, e.kind = .character → e.endPos ≤ far) ∨ part = [] →
        ((∃ e ∈ work, e.pos = least) ∧ ∀ e ∈ work, least ≤ e.pos) ∨ work = [] →
      let shift : Int := if part = [] then 0 else (far : Int) + spaceWidth s.text.settings.pitch - least
      let passes (o : Entry) : Prop := o.kind = .character ∧ 1600 < (o.endPos : Int) + shift
      let cut (o : Entry) : Prop := passes o ∨ ∃ x ∈ work, passes x ∧ x.pos < o.pos
      let room (q : Int) (o : Entry) : Prop :=
        (saved.filter (fun y => saved.any (fun x => decide (x.id = ownerId y) && decide ((x.pos : Int) ≤ q)))).length
          + ((part ++ work).filter (fun y => decide (ownerId y = o.id))).length ≤ 320
      let fits (q : Int) : Prop := ∀ x ∈ work, passes x → q ≤ x.pos + shift
      let comes (e : Entry) (q : Int) : Prop :=
        if shift = 0 ∨ e.kind ≠ .underscore then q = e.pos + shift
        else ∃ o ∈ work, e.owner = some o.id
          ∧ ((strokePositions ((o.pos : Int) + shift).toNat o.width)[strokeIndex work e]?).map Int.ofNat = some q
      (∀ y ∈ saved, y ∈ part ∨ ∃ e ∈ work,
          y = { e with pos := y.pos } ∧ fits y.pos ∧ (∀ q, comes e q → (y.pos : Int) = q)
            ∧ (shift = 0 ∨ e.kind ≠ .underscore → (y.pos : Int) = e.pos + shift))
      ∧ (∀ o ∈ work, o.kind = .character → cut o → ∀ y ∈ saved, ownerId y ≠ o.id)
      ∧ (∀ o ∈ work, o.kind = .character → ¬cut o → room (o.pos + shift) o →
          ∀ e ∈ work, ownerId e = o.id → ∀ q, comes e q → fits q → e.id ∈ saved.map Entry.id)
      ∧ (∀ o ∈ part, o.kind = .character → room o.pos o → ∀ e ∈ part, ownerId e = o.id → e ∈ saved)
      ∧ (∀ y ∈ saved, ∀ e ∈ part, ownerId e = ownerId y → e.id ∈ saved.map Entry.id)
      ∧ (∀ y ∈ saved, ∀ e ∈ work, ownerId e = ownerId y → ∀ q, comes e q → fits q → e.id ∈ saved.map Entry.id)
      ∧ saved.Pairwise (fun x y => ownerId x ≠ y.id ∧ (y.pos < x.pos → ∃ o ∈ saved, ownerId y = o.id ∧ x.pos ≤ o.pos)))

/-- A write of the user word list ends: the retained copy is what was written; a pending write begins with the list as it
stands, but not in DOWN (R138). -/
def Obligations.ListWriteEnds : Prop :=
  ∀ (s : State) (b : List Byte), s.live → s.spell.writing = some b →
    ∃ t : State, exec .listWriteEnd s = .next (t.finish s) ∧ t.retained = { s.retained with words := b } ∧ t.text = s.text
      ∧ t.spell =
        { s.spell with
          writing := if s.spell.writePending = true ∧ s.supply.phase = .running then some (encodeWords s.spell.userList)
            else none,
          writePending := if s.supply.phase = .running then false else s.spell.writePending }

/-- A supply report while RUNNING sets the source limit, the ceiling by the source and the limit with 1 less for a sag, the sag timer and
LOW, and restarts the silence timer (R192, R195, R197, Table 10-2). With LOW its message is posted or removed, and its hold reason decides
between READY and HELD (R56); a STATE is asked for at each change of the ceiling, of the hold reasons and of the state (R59, R194); a change
of the source, of the battery band or of the ceiling sets the dirty mark. That the band is the level's, also in a report from the ADAPTER,
is the model's choice in log entry 62. -/
def Obligations.SupplyReport : Prop :=
  ∀ (s : State) (r : Byte) (time : Nat), s.live → s.line.rostered .power = true → s.supply.phase = .running →
      s.engine.holds.low = s.supply.low →
    ∃ t : State, exec (.supply r time) s = .next (t.finish s)
      ∧ (let src : PowerSource := if r.getLsbD 7 then .battery else .adapter
         let level := r.toNat % 8
         let limit := if src = .adapter then 4 else if 6 ≤ level then 3 else if 3 ≤ level then 2 else 1
         let c := if s.supply.source ≠ some src then limit
           else if limit < s.supply.limit then min s.supply.ceiling limit else s.supply.ceiling
         let climbs : Prop := s.supply.source = some src ∧ s.supply.limit < limit
         t.supply.source = some src ∧ t.supply.battery = level ∧ t.supply.limit = limit
           ∧ t.supply.ceiling = (if r.getLsbD 3 = true ∧ 1 < c then c - 1 else c)
           ∧ (t.supply.sagRunning = true ↔ (s.supply.sagRunning = true ∨ climbs ∨ r.getLsbD 3 = true))
           ∧ t.supply.low = decide (src = .battery ∧ level = 0) ∧ t.engine.holds.low = t.supply.low
           ∧ t.supply.heat = s.supply.heat ∧ t.supply.phase = .running
           ∧ (let same : Prop := s.supply.low = t.supply.low
              let h := s.engine.holds
              let asked (b : Bool) (l : LineInterface) : LineInterface := if b then l.askState else l
              let heard : LineInterface :=
                { s.line with receiver := .waiting, silenceRunning := true, roster := t.line.roster }
              let shown : Display :=
                { s.display with
                  dirty := s.display.dirty || decide (s.supply.source ≠ some src) || decide (s.supply.ceiling ≠ c)
                    || decide (s.supply.battery < 3) != decide (level < 3) }
              t.engine.holds = { h with low := t.supply.low }
                ∧ t.engine.state =
                  (if same ∨ (s.engine.state ≠ .ready ∧ s.engine.state ≠ .held) then s.engine.state
                    else if h.cover || h.ribbon || h.wheel || t.supply.low || h.heat then .held else .ready)
                ∧ t.display = (if same then shown else if t.supply.low then shown.post .low else shown.unpost .low)
                ∧ t.line = asked (decide (t.engine.state ≠ s.engine.state)) (asked (decide ¬same)
                  (asked (decide (t.supply.ceiling ≠ c)) (asked (decide (c ≠ s.supply.ceiling)) heard))))
           ∧ t = { s with
               clock := t.clock, supply := t.supply, line := t.line, display := t.display,
               engine := { s.engine with holds := t.engine.holds, state := t.engine.state } })

/-- When the sag timer expires, the ceiling rises by 1 if it is below the source limit, and the timer runs on while the ceiling
is then still below it (R196); a timer that is stopped does not expire, and it is stopped when the power station falls SILENT and
on entering DOWN. At each expiry of the decay timer H falls by H / 50
rounded up, and the region follows it (R199, R200): HOT stands while H is 2,000 or more, and the other regions are found from
1,200 and 2,400. HEAT and COOL follow HOT. -/
def Obligations.SupplyTimersExpire : Prop :=
  ∀ s : State, s.live →
    (s.supply.sagRunning = true →
      ∃ t : State, exec .sagTimerExpiry s = .next (t.finish s)
        ∧ t.supply =
          { s.supply with
            ceiling := if s.supply.ceiling < s.supply.limit then s.supply.ceiling + 1 else s.supply.ceiling,
            sagRunning := decide (s.supply.ceiling + 1 < s.supply.limit) }
        ∧ t = { s with supply := t.supply, line := t.line })
    ∧ (s.supply.sagRunning = false → exec .sagTimerExpiry s = .next (s.finish s))
    ∧ (s.line.silenceRunning = true →
      ∃ t : State, exec .powerSilenceExpiry s = .next (t.finish s) ∧ t.supply.sagRunning = false)
    ∧ (∀ time : Nat, s.line.rostered .power = true → s.supply.phase = .running →
      ∃ t : State, exec (.powerFailing time) s = .next (t.finish s) ∧ t.supply.sagRunning = false)
    ∧ (∃ t : State, exec .decayTimerExpiry s = .next (t.finish s)
        ∧ t.supply.heat = s.supply.heat - (s.supply.heat + 49) / 50
        ∧ t.supply.region =
          (if s.supply.region = .hot then (if 2000 ≤ t.supply.heat then .hot else .warm)
           else if 2400 ≤ t.supply.heat then .hot else if 1200 ≤ t.supply.heat then .warm else .cool)
        ∧ (s.supply.region = .hot → t.supply.region ≠ .hot →
            t.engine.holds.heat = false ∧ t.display = s.display.unpost .cool)
        ∧ (s.supply.region ≠ .hot → t.supply.region = .hot →
            t.engine.holds.heat = true ∧ t.display = s.display.post .cool)
        ∧ ((s.supply.region = .hot ↔ t.supply.region = .hot) → t.engine = s.engine ∧ t.display = s.display)
        ∧ t = { s with
            supply := { s.supply with heat := t.supply.heat, region := t.supply.region }, line := t.line,
            display := t.display, engine := { s.engine with holds := t.engine.holds, state := t.engine.state } })

/-- POWER_FAILING from the rostered power station (R30, R76, R94, R139, R158, R172, R187, R202). While RUNNING, the controller enters DOWN
and the save begins at once unless a hammer pulse or a list write runs; the glass stops, and a composition in progress is abandoned; the
transmit queue keeps its frames, the flow slot and an owed STATE, and a STATE is asked for where the state changes; the lifts are released
but for one drawn in a pulse. An op whose pulse runs stays in progress; one whose pulse has not begun is put back in the head place, a
RETURN whose feed has ended with a feed of 0; a put-back op stands; and a STRIKE in its settle or its advance completes at once, its
QUEUED entry PRINTED, or its LIFTING entry removed with pp where it was: that a lift-off whose pulse has ended completes so, with the
correction abandoned, is log entry 37, the model's choice between R76 and R113. In DOWN the frame only sets the time of the last one. -/
def Obligations.PowerFailingStops : Prop :=
  ∀ (s : State) (time : Nat), s.live → s.line.rostered .power = true →
    let quiet : TextUnit := { s.text with waiting := none, resume := none, run := none, feeding := [], armed := false }
    let stopped (t : State) (h : Hammer) : Prop :=
      t.supply =
          { s.supply with
            phase := .saving, lastFailing := some time, sagRunning := false,
            saveBegun := !h.isPulse && s.spell.writing.isNone }
        ∧ t.engine.state = (if s.engine.state = .locked then .locked else .down)
        ∧ t.engine.holds = s.engine.holds ∧ t.engine.fault = s.engine.fault ∧ t.engine.wheel = s.engine.wheel
        ∧ t.engine.homing = none ∧ t.engine.restMove = false ∧ t.engine.rehome = false
        ∧ t.intake = { s.intake with state := .down, queue := [], dropSounded := false }
        ∧ t.corr = State.reset.corr
        ∧ t.spell.records = [] ∧ t.spell.lookup = none ∧ t.spell.waitList = [] ∧ t.spell.outstanding = []
        ∧ t.spell.timeoutRun = 0 ∧ t.spell.userList = s.spell.userList
        ∧ t.display =
          { s.display with
            stopped := true,
            composer := match s.display.composer with
              | .composing _ => .idle
              | c => c }
        ∧ t.drive.carriage = s.drive.carriage.stop ∧ t.drive.wheel = .idle ∧ t.drive.feed = .idle ∧ t.drive.ribbon = .idle
        ∧ t.drive.hammer = h
        ∧ (h.isPulse = false → t.drive.ribbonLift = .released ∧ t.drive.tapeLift = .released)
        ∧ (h.isPulse = true →
          t.drive.ribbonLift = (if s.drive.ribbonLift = .drawn then .drawn else .released)
            ∧ t.drive.tapeLift = (if s.drive.tapeLift = .drawn then .drawn else .released))
        ∧ (∃ asked : List TxFrame,
          t.line =
            { s.line with
              receiver := .waiting, silenceRunning := false, roster := t.line.roster, stamp := t.line.stamp,
              stateOwed := t.line.stateOwed, places := s.line.places ++ asked }
          ∧ (∀ f ∈ asked, f.kind = .state) ∧ (s.line.stateOwed = true → t.line.stateOwed = true))
        ∧ t.retained = s.retained ∧ t.pins = s.pins
    let hammer : Hammer := match s.drive.hammer with
      | .settle => .idle
      | h => h
    (s.supply.phase = .running →
        (∀ p, s.engine.progress = some p → p.stage ≠ .settle ∧ p.stage ≠ .advance) →
      ∃ t : State, exec (.powerFailing time) s = .next (t.finish s) ∧ stopped t hammer
        ∧ t.engine.slots = s.engine.slots ∧ t.text = quiet
        ∧ (let kept : LineInterface :=
             { s.line with receiver := .waiting, silenceRunning := false, roster := t.line.roster }
           t.line = (if s.engine.state = .locked ∨ s.engine.state = .down then kept else kept.askState))
        ∧ (s.engine.progress = none → t.engine.head = s.engine.head ∧ t.engine.progress = none)
        ∧ ∀ (o : Op) (p : Progress), s.engine.head = some o → s.engine.progress = some p →
          (p.stage = .pulse → t.engine.head = some o ∧ t.engine.progress = some p)
          ∧ (p.stage ≠ .pulse →
            t.engine.progress = none
              ∧ t.engine.head =
                some (if o.kind = .carriageReturn ∧ (p.stage = .returning true false ∨ p.stage = .returning false false)
                  then { o with feed := 0 } else o)))
    ∧ (∀ (o : Op) (p : Progress) (id : Nat) (e : Entry), s.supply.phase = .running → s.engine.head = some o →
        s.engine.progress = some p → (p.stage = .settle ∨ p.stage = .advance) → s.engine.state ≠ .locked → o.kind = .strike →
        o.ref = some id → s.text.find id = some e →
      ∃ t : State, exec (.powerFailing time) s = .next (t.finish s) ∧ stopped t hammer
        ∧ t.engine.head = none ∧ t.engine.progress = none ∧ t.engine.slots.length = s.engine.slots.length
        ∧ (o.origin = .text → e.state = .queued →
          t.text = quiet.modify id (fun y => { y with state := .printed, wheel := s.engine.wheel }))
        ∧ (o.origin = .correction → e.state = .lifting → t.text.find id = none ∧ t.text.pp = s.text.pp))
    ∧ (s.supply.phase ≠ .running →
      exec (.powerFailing time) s
        = .next (({ s with
            clock := max s.clock time, line := { s.line with receiver := .waiting },
            supply := { s.supply with lastFailing := some time } } : State).finish s))

/-- A supply report in DOWN starts the controller anew in SAVED once 500 ms have passed since the last POWER_FAILING, and
changes nothing of it before (R204). What a start leaves (Started) rests on the model's choice in log entries 4, 24 (the order of the
messages and of the ROLL_CALL and the STATE), 46 (the cruise of the 30-unit move), 49 (a carriage that has not moved) and 63 (the order
numbers of restored entries at one position). -/
def Obligations.SupplyInDown : Prop :=
  ∀ (s : State) (r : Byte) (time failing : Nat), s.live → s.line.rostered .power = true →
      s.supply.lastFailing = some failing →
    (s.supply.phase = .saved → failing + 500000 ≤ time →
      ∃ t : State, exec (.supply r time) s = .next t ∧ Started { s with clock := max s.clock time } t)
    ∧ (s.supply.phase = .saving ∨ (s.supply.phase = .saved ∧ time < failing + 500000) →
      exec (.supply r time) s
        = .next (({ s with clock := max s.clock time, line := { s.line with receiver := .waiting } } : State).finish s))

/-! ## The glass -/

/-- A frame start swaps a finished image, advances the frame count, the blink phase and the showing cycle, and in DOWN nothing of them;
the end of a composition puts its image into the buffer not shown (R140, R145, R147, R149, R150, R154, R155, R158). A composition begins
where the dirty mark is set, the composer IDLE, and batching does not hold it back; it shows the indicators of Table 7-1, and either the
latched message or the window of the working line's cells with the cursor (R141 to R144, R147, R148, R151). A posted message stands first
of its kind, faults before transients; a fifth takes the place of the oldest transient, or finds none among 4 faults; a fault that stands
already changes nothing, and a transient posted again joins anew; where a listed fault ends, the newest standing fault outside the list
joins in its order of posting; CLEAR leaves the faults alone (R152, R153, R156). That the MESSAGE phase of a transient posted again ends
is log entry 53, that a fault outside the list marks no change log entry 57, and that the window moves in the event in which the
composition begins is log entry 51. -/
def Obligations.GlassFrames : Prop :=
  (∀ (s : State) (frame : Bool),
    let begins : Prop := s.display.dirty = true ∧ s.display.composer = .idle ∧ s.supply.phase = .running
      ∧ ((3 ≤ s.supply.ceiling ∧ s.supply.source ≠ some .battery) ∨ (frame = true ∧ s.display.frameCount % 4 = 0))
    (¬begins → s.beginComposition frame = s)
    ∧ (begins → ∃ (image : Image) (w0 : Nat),
      s.beginComposition frame
          = { s with display := { s.display with dirty := false, composer := .composing image, w0 := w0 } }
        ∧ ((∀ e ∈ s.text.work.chars, 0 < e.width) → (s.text.work.chars.map Entry.order).Nodup → Shows s image w0)))
  ∧ (∀ (d : Display) (faults transients : List Message) (m : Message), d.messages = faults ++ transients →
      (∀ x ∈ faults ++ d.standing, x.isFault = true) → (∀ x ∈ transients, x.isFault = false) →
    (m.isFault = true → m ∈ d.standing → d.post m = d)
    ∧ (m.isFault = true → m ∉ d.standing →
      ((faults ++ transients).length < 4 → Relisted d (m :: d.standing) (m :: faults ++ transients) none (d.post m))
      ∧ (∀ (more : List Message) (x : Message), 4 ≤ (faults ++ transients).length → transients = more ++ [x] →
        Relisted d (m :: d.standing) (m :: faults ++ more) none (d.post m))
      ∧ (4 ≤ faults.length → transients = [] → Relisted d (m :: d.standing) faults none (d.post m)))
    ∧ (m.isFault = false →
      let again : Option Message := if m ∈ transients then some m else none
      let others := transients.erase m
      ((faults ++ others).length < 4 → Relisted d d.standing (faults ++ m :: others) again (d.post m))
      ∧ (∀ (more : List Message) (x : Message), 4 ≤ (faults ++ others).length → others = more ++ [x] →
        Relisted d d.standing (faults ++ m :: more) again (d.post m))
      ∧ (4 ≤ faults.length → others = [] → Relisted d d.standing faults again (d.post m)))
    ∧ (m ∉ d.standing → d.unpost m = d)
    ∧ (m ∈ d.standing → m ∉ faults → m.isFault = true → d.unpost m = { d with standing := d.standing.erase m })
    ∧ (m ∈ d.standing → m ∈ faults →
      ((∀ f ∈ d.standing.erase m, f ∈ faults.erase m) →
        Relisted d (d.standing.erase m) (faults.erase m ++ transients) none (d.unpost m))
      ∧ (∀ (newer older : List Message) (f : Message), d.standing.erase m = newer ++ f :: older →
          (∀ x ∈ newer, x ∈ faults.erase m) → f ∉ faults.erase m →
        Relisted d (d.standing.erase m)
          ((d.standing.erase m).filter (fun x => decide (x ∈ faults.erase m ∨ x = f)) ++ transients) none (d.unpost m)))
    ∧ Relisted d d.standing faults none d.clearTransients)
  ∧ ∀ s : State, s.live →
    (s.supply.phase = .running →
      ∃ d : Display, exec .frameStart s = .next (({ s with display := d } : State).finishIn s true)
        ∧ d.frameCount = (s.display.frameCount + 1) % 16
        ∧ d.blinkOdd = (if d.frameCount = 0 then !s.display.blinkOdd else s.display.blinkOdd)
        ∧ d.bufferA = s.display.bufferA ∧ d.bufferB = s.display.bufferB ∧ d.standing = s.display.standing
        ∧ (s.display.composer = .done → d.composer = .idle ∧ d.shown = (if s.display.shown = .a then .b else .a))
        ∧ (s.display.composer ≠ .done → d.composer = s.display.composer ∧ d.shown = s.display.shown)
        ∧ (∀ m rest, s.display.phase = .line → s.display.messages = m :: rest →
            (s.display.messageDue = true ∨ 79 ≤ s.display.phaseCount) →
            d.phase = .message m ∧ d.phaseCount = 0 ∧ d.messages = s.display.messages)
        ∧ (s.display.phase = .line → (s.display.messages = [] ∨ (s.display.messageDue = false ∧ s.display.phaseCount < 79)) →
            d.phase = .line ∧ d.phaseCount = s.display.phaseCount + 1 ∧ d.messages = s.display.messages)
        ∧ (∀ m, s.display.phase = .message m → s.display.phaseCount < 47 →
            d.phase = .message m ∧ d.phaseCount = s.display.phaseCount + 1 ∧ d.messages = s.display.messages)
        ∧ (∀ m, s.display.phase = .message m → 47 ≤ s.display.phaseCount →
            d.phase = .line ∧ d.phaseCount = 0
              ∧ d.messages = (if m.isFault then s.display.messages else s.display.messages.erase m)))
    ∧ (s.supply.phase ≠ .running → exec .frameStart s = .next (s.finishIn s true))
    ∧ (∀ image, s.display.composer = .composing image →
        exec .compositionEnd s
          = .next (({ s with
              display :=
                { s.display with
                  composer := .done,
                  bufferA := if s.display.shown = .b then image else s.display.bufferA,
                  bufferB := if s.display.shown = .a then image else s.display.bufferB } } : State).finish s))

/-! ## The intake unit -/

/-- The payload of a KEY, a TEXT code and a SETTING make the actions of Tables 8-3 and 11-4 (R162 to R164). -/
def Obligations.FramesMakeActions : Prop :=
  (∀ (v : Nat) (rep : Bool), 1 ≤ v →
    keyAction v rep =
      if v ≤ 31 then
        ([.space, .backspace, .carriageReturn, .tab, .index, .reverseIndex, .halfUp, .halfDown, .correct, .wordCorrect,
          .lineCorrect, .relocate, .tabSet, .tabClear, .tabClearAll, .lmSet, .rmSet, .marginRelease, .pitch, .spacing,
          .impression, .mode, .underline, .bold, .center, .flushRight, .decimalTab, .justify, .spell, .addWord,
          .deleteWord] : List ActionKind)[v - 1]?.map (fun k =>
            { kind := k, code := 0, source := .keyboard, repeated := rep, value := none })
      else if v = 32 then some { kind := .space, code := 0, source := .keyboard, repeated := rep, value := none }
      else if v = 127 ∨ 160 ≤ v then none
      else some { kind := .char, code := v, source := .keyboard, repeated := rep, value := none })
  ∧ (∀ c : Nat,
    textAction c =
      let act (k : ActionKind) (code : Nat) : Option Action :=
        some { kind := k, code := code, source := .interface, repeated := false, value := none }
      if c = 32 then act .space 0 else if c = 13 then act .carriageReturn 0 else if c = 8 then act .backspace 0
      else if c = 9 then act .tab 0 else if c = 10 then act .index 0
      else if c < 32 ∨ c = 127 ∨ 160 ≤ c then none else act .char c)
  ∧ (∀ item value : Nat,
    settingAction item value =
      if item = 0 then none
      else
        ([.lmSet, .rmSet, .pitch, .spacing, .impression, .mode, .justify, .spell, .tabSet, .tabClearAll]
          : List ActionKind)[item - 1]?.map (fun k =>
            { kind := k, code := 0, source := .interface, repeated := false,
              value := if item = 10 then none else some value }))

/-- KEY_FRAME (R162, R165 to R168, R170): the throttle, a full queue with the CLICK of its drop run, and the joining, which at 24 sets the
hold state and puts HOLD in the flow slot. A value of 0 with the repeat mark clear is CLEAR, which an intake unit that is OPEN hands at
once to the text unit, the engine and the display unit; with the mark set it is dropped. -/
def Obligations.KeyJoins : Prop :=
  ∀ (s : State) (value flags : Byte), s.live → s.line.rostered .keyboard = true →
    let heard : State := { s with line := { s.line with receiver := .waiting } }
    (keyAction value.toNat (flags.getLsbD 0) = none → (value ≠ 0 ∨ flags.getLsbD 0 = true) →
      exec (.keyFrame value flags) s = .next (heard.finish s))
    ∧ (value = 0 → flags.getLsbD 0 = false →
      exec (.keyFrame value flags) s = exec .clear s
        ∧ (s.intake.state = .opened →
          exec (.keyFrame value flags) s = .next ((heard.clearText.clearEngine.clearDisplay).finish s))
        ∧ (s.intake.state ≠ .opened → exec (.keyFrame value flags) s = .next (heard.finish s)))
    ∧ ∀ a : Action, value ≠ 0 → keyAction value.toNat (flags.getLsbD 0) = some a →
    let n := s.intake.queue.length
    let dropped : Prop := flags.getLsbD 0 = true ∧
      (4 ≤ n ∨ a.kind ∈ [.correct, .wordCorrect, .lineCorrect, .carriageReturn, .mode])
    (s.intake.state ≠ .opened → exec (.keyFrame value flags) s = .next (heard.finish s))
    ∧ (s.intake.state = .opened → dropped → exec (.keyFrame value flags) s = .next (heard.finish s))
    ∧ (s.intake.state = .opened → ¬dropped → 32 ≤ n → s.intake.dropSounded = true →
        exec (.keyFrame value flags) s = .next (heard.finish s))
    ∧ (s.intake.state = .opened → ¬dropped → 32 ≤ n → s.intake.dropSounded = false →
        exec (.keyFrame value flags) s
          = .next (({ heard with
              intake := { s.intake with dropSounded := true }, line := heard.line.sound .click } : State).finish s))
    ∧ (s.intake.state = .opened → ¬dropped → n < 32 →
        exec (.keyFrame value flags) s
          = .next (({ heard with
              intake :=
                { s.intake with
                  queue := s.intake.queue ++ [a], dropSounded := false, hold := s.intake.hold || decide (n + 1 = 24) },
              line := if n + 1 = 24 ∧ s.intake.hold = false then heard.line.flowFrame .hold else heard.line }
              : State).finish s))

/-- TEXT_FRAME and SETTING_FRAME from the rostered interface (R159, R163 to R165, R167, R170, R207): with the intake unit OPEN the actions
of a payload join in payload order in one event, a code that makes none is left out, and a setting joins with its value, high byte
first. An action that meets the full queue of 32 is dropped with no CLICK; a count that reaches 24 with the hold state clear sets it
and puts HOLD in the flow slot; an intake unit that is CLOSED or DOWN discards the frame. -/
def Obligations.TextAndSettingsJoin : Prop :=
  ∀ s : State, s.live → s.line.rostered .interface = true →
    let heard : State := { s with line := { s.line with receiver := .waiting } }
    let n := s.intake.queue.length
    let joins (acts : List Action) : State :=
      let joined := acts.take (32 - n)
      let reaches : Bool := !s.intake.hold && decide (n < 24 ∧ 24 ≤ n + joined.length)
      { heard with
        intake :=
          { s.intake with
            queue := s.intake.queue ++ joined, hold := s.intake.hold || reaches,
            dropSounded := s.intake.dropSounded && joined.isEmpty },
        line := if reaches then heard.line.flowFrame .hold else heard.line }
    (∀ codes : List Byte,
      (s.intake.state = .opened →
        exec (.textFrame codes) s = .next ((joins (codes.filterMap (fun c => textAction c.toNat))).finish s))
      ∧ (s.intake.state ≠ .opened → exec (.textFrame codes) s = .next (heard.finish s)))
    ∧ (∀ item high low : Byte,
      (s.intake.state = .opened →
        exec (.settingFrame item (high, low)) s
          = .next ((joins (settingAction item.toNat (256 * high.toNat + low.toNat)).toList).finish s))
      ∧ (s.intake.state ≠ .opened → exec (.settingFrame item (high, low)) s = .next (heard.finish s)))

/-- CLEAR from the rostered keyboard with the intake unit OPEN (R29, R74, R156, R168): at the text unit it clears the armed mark
and cancels a run that stands, at the engine it begins a full homing in HALTED and asks for CLICK in LOCKED, and at the display
unit it removes the transient messages. The key queue and the settings stand. -/
def Obligations.ClearActs : Prop :=
  ∀ s : State, s.live → s.line.rostered .keyboard = true → s.intake.state = .opened →
    (s.text.run = none → s.engine.state ≠ .halted →
      exec .clear s
        = .next (({ s with
            text := { s.text with armed := false },
            line := if s.engine.state = .locked then ({ s.line with receiver := .waiting } : LineInterface).sound .click
              else { s.line with receiver := .waiting },
            display := s.display.clearTransients } : State).finish s))
    ∧ (s.text.run = none → s.engine.state = .halted →
      ∃ t : State, exec .clear s = .next (t.finish s)
        ∧ t.text = { s.text with armed := false } ∧ t.intake = s.intake ∧ t.drive = s.drive.releaseLifts
        ∧ t.engine =
          { s.engine with
            state := .homing, fault := .clear, rehome := false, homing := some { kind := .clear, phase := .carriageDue } }
        ∧ t.display =
          (if s.engine.fault = .wheelLost ∧ s.engine.holds.wheel = true then s.display
            else s.display.unpost (if s.engine.fault = .wheelLost then .wheel else .stall)).clearTransients)
    ∧ (∀ h : HeldRun, s.text.run = some h → s.supply.phase = .running → (s.text.allEntries.map Entry.id).Nodup →
        s.text.work.Owned →
      ∃ t : State, exec .clear s = .next (t.finish s)
        ∧ t.text.run = none ∧ t.text.pp = h.startPp
        ∧ t.text.settings = s.text.settings ∧ t.text.waiting = s.text.waiting ∧ t.intake = s.intake
        ∧ t.text.work.entries.map Entry.id
          = (s.text.work.entries.filter (fun e =>
              !((s.text.work.chars.filter (fun x => h.members.contains x.id)).map Entry.id).contains (ownerId e))).map
                Entry.id)

/-- HERE (R190): with a number that no roster entry bears, a class of Table 9-5 is claimed when no station of the class stands or the
number is the lower; after the roster has closed, or before the first ROLL_CALL, the frame changes no entry. A HERE with a number that
an entry bears claims nothing, but marks a SILENT power station or cartridge PRESENT (R178, R192, R193). That a HERE in DOWN begins no
silence watch and marks nothing is log entry 23. -/
def Obligations.HereClaims : Prop :=
  ∀ (s : State) (n : Nat) (cls variant : Byte), s.live → n < 8 → n ≠ s.line.station →
    let heard : LineInterface := { s.line with receiver := .waiting }
    (∀ e : RosterEntry, s.line.station? e.cls = some e → e.number = n → (∀ x ∈ s.line.roster, x.number = n → x = e) →
      let wakes : Prop := e.status = .silent ∧ (e.cls = .power ∨ e.cls = .cartridge) ∧ s.supply.phase = .running
      (wakes →
        exec (.here n cls variant) s
          = .next (({ s with
              line :=
                { s.line.setStatus e.cls .present with
                  receiver := .waiting, silenceRunning := s.line.silenceRunning || decide (e.cls = .power) } }
              : State).finish s))
      ∧ (¬wakes → exec (.here n cls variant) s = .next (({ s with line := heard } : State).finish s)))
    ∧ ((∀ e ∈ s.line.roster, e.number ≠ n) →
    (∀ c : StationClass, s.line.rosterOpen = true → s.line.firstCallSent = true → hereClass cls = some c →
      (∀ x, s.line.station? c = some x → n < x.number) →
      exec (.here n cls variant) s
        = .next (({ s with
            line :=
              { heard with
                roster := insertEntryByNumber { number := n, cls := c, variant := variant, status := .present }
                  (s.line.roster.filter (fun x => decide (x.cls ≠ c))),
                silenceRunning := s.line.silenceRunning || (!s.isDown && decide (c = .power)) } } : State).finish s))
    ∧ (s.line.rosterOpen = false ∨ s.line.firstCallSent = false ∨ hereClass cls = none
        ∨ (∃ c x, hereClass cls = some c ∧ s.line.station? c = some x ∧ x.number < n) →
      exec (.here n cls variant) s = .next (({ s with line := heard } : State).finish s)))

/-! ## The roll call -/

/-- COLLECTION_WINDOW_END, NEXT_ROLL_CALL and POWER_SILENCE_EXPIRY (R160, R189, R191, R192, R198): with no keyboard and no interface
rostered a further call is due up to 8 calls; otherwise the roster closes, the intake unit opens with RELEASE and its decimal character,
the comma for a keyboard of variant 1 and otherwise the point, START goes, a missing keyboard is posted, and the supply of an absent power
station is held at level 2. That a roster which closes in DOWN leaves the intake unit DOWN, with no RELEASE, is log entry 23. -/
def Obligations.RollCallRuns : Prop :=
  ∀ s : State, s.live →
    (s.line.window = true → s.line.rosterOpen = true → s.line.rostered .keyboard = false →
        s.line.rostered .interface = false → s.line.callsMade < 8 →
      exec .collectionWindowEnd s
        = .next (({ s with line := { s.line with window := false, nextCallDue := true } } : State).finish s))
    ∧ (s.line.window = true → s.line.rosterOpen = false →
      exec .collectionWindowEnd s = .next (({ s with line := { s.line with window := false } } : State).finish s))
    ∧ (s.line.window = true → s.line.rosterOpen = true →
        (s.line.rostered .keyboard = true ∨ s.line.rostered .interface = true ∨ 8 ≤ s.line.callsMade) →
      let decimal : Nat := match s.line.roster.find? (fun e => decide (e.cls = .keyboard)) with
        | some e => if e.variant = 1 then 44 else 46
        | none => 46
      let closed : LineInterface := { s.line with window := false, rosterOpen := false }
      let opened : LineInterface := if s.intake.state = .closed then closed.flowFrame .release else closed
      let lost : LineInterface := if s.line.rostered .power = false ∧ s.supply.ceiling ≠ 2 then opened.askState else opened
      exec .collectionWindowEnd s
        = .next (({ s with
            intake :=
              if s.intake.state = .closed then { s.intake with state := .opened, decimal := decimal } else s.intake,
            display :=
              if s.line.rostered .keyboard then s.display.unpost .start
              else (s.display.unpost .start).post .noKeyboard,
            supply :=
              if s.line.rostered .power then s.supply
              else { s.supply with source := none, limit := 2, ceiling := 2, sagRunning := false },
            line := lost.askState } : State).finish s))
    ∧ (s.line.nextCallDue = true → s.line.rosterOpen = true → s.line.places.length < 8 →
      exec .nextRollCall s
        = .next (({ s with
            line :=
              { s.line with
                nextCallDue := false, stamp := s.line.stamp + 1,
                places := s.line.places ++ [{ kind := .rollCall, stamp := s.line.stamp, losses := 0 }] } }
            : State).finish s))
    ∧ (s.line.silenceRunning = true →
      let silent : LineInterface := { s.line.setStatus .power .silent with silenceRunning := false }
      exec .powerSilenceExpiry s
        = .next (({ s with
            supply := { s.supply with source := none, limit := 2, ceiling := 2, sagRunning := false },
            line := if s.supply.ceiling = 2 then silent else silent.askState } : State).finish s))

/-! ## Spelling -/

/-- A verdict on an ASKING record (R129 to R132): WORD_ANSWER gives KNOWN or UNKNOWN, and a timeout UNCHECKED; either takes the query out of
the outstanding table and has the wait list served, whose head is then asked if the table and the transmit queue have room (R128). The
third timeout in turn marks the cartridge SILENT, and every WAITING record leaves the wait list as UNCHECKED. WAIT_LIST_TIMEOUT gives
UNCHECKED to the record at the head of the wait list (R128). A WORD_ANSWER whose tag is that of no outstanding query, or whose verdict is
neither KNOWN nor UNKNOWN, only sets the timeout run to 0; an answer or a timeout of an orphan, or of a record that is no longer
ASKING, takes the query out and changes no record (R129, R130). At the third timeout in turn of a cartridge that is SILENT already the run
returns to 0 and nothing more follows (R131). That DOUBLE joins before the WORD_QUERY of the waiting record is log entry 56. LOOKUP_END
gives KNOWN to a word that the user word list holds throughout
its lookup, and the next lookup begins (R123, R124). Each verdict marks the image dirty (R132). -/
def Obligations.VerdictsSettleWords : Prop :=
  ∀ s : State, s.live → s.supply.phase = .running →
    (∀ (tag verdict : Byte) (id : Nat) (r : WordRecord) (q : Query) (v : WordState),
      s.line.rostered .cartridge = true → s.spell.outstanding.find? (fun q => decide (q.tag = tag.toNat)) = some q →
      q.record = some id → s.spell.record? id = some r → r.state = .asking →
      ((verdict.toNat = 1 ∧ v = .known) ∨ (verdict.toNat = 2 ∧ v = .unknown)) →
      let l := (State.markPresent { s with line := { s.line with receiver := .waiting } } .cartridge).line
      let settled : State :=
        { s with
          spell :=
            { (s.spell.setWord r.id v) with
              timeoutRun := 0, outstanding := s.spell.outstanding.filter (fun x => decide (x.tag ≠ q.tag)) },
          text := s.text.setMarks r.entries (if v = .unknown then .unknown else .plain),
          display := { s.display with dirty := true },
          line := if v = .unknown then l.sound .double else l }
      ∃ t : State, exec (.wordAnswer tag verdict) s = .next (t.finish s) ∧ Served settled t)
    ∧ (∀ (tag verdict : Byte), s.line.rostered .cartridge = true →
      let heard : State := State.markPresent { s with line := { s.line with receiver := .waiting } } .cartridge
      ((∀ q ∈ s.spell.outstanding, q.tag ≠ tag.toNat) ∨ (verdict.toNat ≠ 1 ∧ verdict.toNat ≠ 2) →
        exec (.wordAnswer tag verdict) s
          = .next (({ heard with spell := { s.spell with timeoutRun := 0 } } : State).finish s))
      ∧ (∀ q : Query, s.spell.outstanding.find? (fun q => decide (q.tag = tag.toNat)) = some q →
          (verdict.toNat = 1 ∨ verdict.toNat = 2) →
          (∀ (id : Nat) (r : WordRecord), q.record = some id → s.spell.record? id = some r → r.state ≠ .asking) →
        ∃ t : State, exec (.wordAnswer tag verdict) s = .next (t.finish s)
          ∧ Served
            { heard with
              spell :=
                { s.spell with
                  timeoutRun := 0, outstanding := s.spell.outstanding.filter (fun x => decide (x.tag ≠ q.tag)) } } t))
    ∧ (∀ (tag : Nat) (q : Query), s.spell.outstanding.find? (fun q => decide (q.tag = tag)) = some q →
        (∀ (id : Nat) (r : WordRecord), q.record = some id → s.spell.record? id = some r → r.state ≠ .asking) →
        (s.spell.timeoutRun < 2 ∨ s.line.cartridgeSilent = true) →
      ∃ t : State, exec (.queryTimeout tag) s = .next (t.finish s)
        ∧ Served
          { s with
            spell :=
              { s.spell with
                timeoutRun := if s.spell.timeoutRun < 2 then s.spell.timeoutRun + 1 else 0,
                outstanding := s.spell.outstanding.filter (fun x => decide (x.tag ≠ q.tag)) } } t)
    ∧ (∀ (tag : Nat) (q : Query), s.spell.outstanding.find? (fun q => decide (q.tag = tag)) = some q →
        (∀ (id : Nat) (r : WordRecord), q.record = some id → s.spell.record? id = some r → r.state ≠ .asking) →
        2 ≤ s.spell.timeoutRun → s.line.cartridgeSilent = false → (s.spell.records.map WordRecord.id).Nodup →
      let waits (y : WordRecord) : Bool := s.spell.waitList.contains y.id
      ∃ d : Display, exec (.queryTimeout tag) s
          = .next (({ s with
              spell :=
                { s.spell with
                  records := s.spell.records.map (fun y => if waits y = true then { y with state := .unchecked } else y),
                  waitList := [], timeoutRun := 0,
                  outstanding := s.spell.outstanding.filter (fun x => decide (x.tag ≠ q.tag)) },
              text := s.text.setMarks ((s.spell.records.filter waits).flatMap WordRecord.entries) .unchecked,
              display := d, line := s.line.setStatus .cartridge .silent } : State).finish s)
        ∧ d = (if s.spell.records.any waits then { s.display with dirty := true } else s.display))
    ∧ (∀ (tag id : Nat) (r : WordRecord) (q : Query),
      s.spell.outstanding.find? (fun q => decide (q.tag = tag)) = some q → q.record = some id →
      s.spell.record? id = some r → r.state = .asking →
      let left := s.spell.outstanding.filter (fun x => decide (x.tag ≠ q.tag))
      ((s.spell.timeoutRun < 2 ∨ s.line.cartridgeSilent = true) →
        ∃ t : State, exec (.queryTimeout tag) s = .next (t.finish s)
          ∧ Served
            { s with
              spell :=
                { (s.spell.setWord r.id .unchecked) with
                  timeoutRun := if s.spell.timeoutRun < 2 then s.spell.timeoutRun + 1 else 0, outstanding := left },
              text := s.text.setMarks r.entries .unchecked, display := { s.display with dirty := true } } t)
      ∧ (2 ≤ s.spell.timeoutRun → s.line.cartridgeSilent = false → (s.spell.records.map WordRecord.id).Nodup →
        exec (.queryTimeout tag) s
          = .next (({ s with
              spell :=
                { s.spell with
                  records := s.spell.records.map (fun y =>
                    if y.id = r.id ∨ y.id ∈ s.spell.waitList then { y with state := .unchecked } else y),
                  waitList := [], timeoutRun := 0, outstanding := left },
              text :=
                (s.text.setMarks r.entries .unchecked).setMarks
                  ((s.spell.records.filter (fun y => s.spell.waitList.contains y.id)).flatMap WordRecord.entries) .unchecked,
              display := { s.display with dirty := true },
              line := s.line.setStatus .cartridge .silent } : State).finish s)))
    ∧ (∀ (id : Nat) (rest : List Nat) (r : WordRecord),
      s.spell.waitList = id :: rest → s.spell.record? id = some r →
      exec .waitListTimeout s
        = .next (({ s with
            spell :=
              { (s.spell.setWord r.id .unchecked) with waitList := rest.filter (fun i => decide (i ≠ id)) },
            text := s.text.setMarks r.entries .unchecked, display := { s.display with dirty := true } } : State).finish
              s))
    ∧ (∀ (k : Lookup) (r : WordRecord), s.spell.lookup = some k → k.record = some r.id → s.spell.record? r.id = some r →
        k.listed = true → s.spell.userList.contains r.letters = true →
      let known := s.spell.setWord r.id .known
      exec .lookupEnd s
        = .next (({ s with
            spell :=
              { known with
                lookup := (known.records.find? (fun y => decide (y.state = .looking))).map (fun y =>
                  { record := some y.id, listed := s.spell.userList.contains y.letters }) },
            text := s.text.setMarks r.entries .plain, display := { s.display with dirty := true } } : State).finish s))

/-- LOOKUP_END with a lookup under way (R123 to R128): the result is discarded for a record that has been dropped or made KNOWN. A word
is KNOWN exactly when the user word list, as the lookup sees it, or the internal list holds it, or an ending of Table 6-2 with a stem of
2 letters or more makes it of a candidate stem that bears the ending's flag: the stem itself, and for -ed, -ing and -er the stem with e
and the stem less the last letter of a doubled consonant. The internal list holds 20,480 stems of apostrophes and letters, which are small
ones by the model's choice (log entry 7). Of the others, one is UNKNOWN with DOUBLE when no cartridge is rostered,
UNCHECKED when the cartridge is SILENT or the word cannot be asked, and otherwise asked with the next free tag, put on the wait list
where the table or the transmit queue is full, or UNCHECKED where the wait list is full too. Then the next LOOKING record's lookup
begins. What the lookup sees of a word that left the user list during it is free (log entry 25): the list as it began or as it ends. -/
def Obligations.LookupEnds : Prop :=
  ∀ (s : State) (k : Lookup), s.live → s.spell.lookup = some k →
    let next (sp : Spelling) : Spelling :=
      { sp with
        lookup := (sp.records.find? (fun x => decide (x.state = .looking))).map (fun x =>
          { record := some x.id, listed := sp.userList.contains x.letters }) }
    (k.record = none → exec .lookupEnd s = .next (({ s with spell := next s.spell } : State).finish s))
    ∧ ∀ r : WordRecord, k.record = some r.id → s.spell.record? r.id = some r →
    let known : Bool := lookupKnows (s.spell.listGives k r) r.letters
    let gives (t : State) : Prop := exec .lookupEnd s = .next (({ t with spell := next t.spell } : State).finish s)
    let verdict (v : WordState) (l : LineInterface) : State :=
      { s with
        spell := s.spell.setWord r.id v, text := s.text.setMarks r.entries (verdictMark v),
        display := { s.display with dirty := true }, line := l }
    let asks : Prop := s.line.rostered .cartridge = true ∧ s.line.cartridgeSilent = false ∧ r.letters.length < 15
      ∧ 39 ∉ r.letters
    (known = true → gives (verdict .known s.line))
    ∧ (let listed := s.spell.listGives k r
       let now := s.spell.userList.contains r.letters
       (listed = now ∨ listed = k.listed)
        ∧ (known = true ↔ listed = true ∨ (Config.stem r.letters).isSome = true ∨
          ∃ (c e stem : List Nat) (f : Config.EndingFlags), r.letters = c ++ e ∧ 2 ≤ c.length ∧ Config.stem stem = some f
            ∧ (e = [39, 115] ∧ f.poss = true ∨ (e = [115] ∨ e = [101, 115]) ∧ f.s = true ∨ e = [101, 100] ∧ f.ed = true
              ∨ e = [105, 110, 103] ∧ f.ing = true ∨ e = [108, 121] ∧ f.ly = true ∨ e = [101, 114] ∧ f.er = true)
            ∧ (stem = c ∨ (e = [101, 100] ∨ e = [105, 110, 103] ∨ e = [101, 114])
              ∧ (stem = c ++ [101] ∨
                ∃ (d : List Nat) (x : Nat), c = d ++ [x, x] ∧ x ∉ [97, 101, 105, 111, 117] ∧ stem = d ++ [x])))
        ∧ (∃ l : List (List Nat), l.Nodup ∧ l.length = 20480 ∧ (∀ w : List Nat, w ∈ l ↔ (Config.stem w).isSome = true)
            ∧ ∀ w ∈ l, w ≠ [] ∧ ∀ c ∈ w, c = 39 ∨ 97 ≤ c ∧ c ≤ 122))
    ∧ (known = false →
      (s.line.rostered .cartridge = false → gives (verdict .unknown (s.line.sound .double)))
      ∧ (s.line.cartridgeSilent = true → gives (verdict .unchecked s.line))
      ∧ (s.line.rostered .cartridge = true → (15 ≤ r.letters.length ∨ 39 ∈ r.letters) → gives (verdict .unchecked s.line))
      ∧ (asks → (4 ≤ s.spell.outstanding.length ∨ 8 ≤ s.line.places.length) →
        (s.spell.waitList.length < 4 →
          gives
            { s with spell := { s.spell.setWord r.id .waiting with waitList := s.spell.waitList ++ [r.id] } })
        ∧ (4 ≤ s.spell.waitList.length → gives (verdict .unchecked s.line)))
      ∧ (∀ (c : RosterEntry) (m : Nat), asks → s.line.station? .cartridge = some c → s.spell.outstanding.length < 4 →
          s.line.places.length < 8 → s.spell.tagCounter < 64 → m ≤ s.spell.outstanding.length →
          (∀ j < m, ∃ q ∈ s.spell.outstanding, q.tag = (s.spell.tagCounter + j) % 64) →
          (∀ q ∈ s.spell.outstanding, q.tag ≠ (s.spell.tagCounter + m) % 64) →
        let tag := (s.spell.tagCounter + m) % 64
        gives
          { s with
            spell :=
              { s.spell with
                records := s.spell.records.map (fun x =>
                  if x.id = r.id then { x with state := .asking, tag := some tag } else x),
                outstanding := s.spell.outstanding ++ [{ tag := tag, record := some r.id }],
                tagCounter := (tag + 1) % 64 },
            line :=
              { s.line with
                stamp := s.line.stamp + 1,
                places := s.line.places ++
                  [{ kind := .wordQuery tag r.letters c.number, stamp := s.line.stamp, losses := 0 }] } }))

/-! ## The module line -/

/-- START_CELL, HUNT_FRAME_END, CODING_ERROR and FRAME_DROPPED (R175, R176, R178, R192): the receiver goes from its hunt to waiting
at a frame end, to receiving at a start cell, and back to its hunt at a coding error. An interval below 6 µs is one, an interval
above 28 µs with the line low, and one above 28 and below 40 µs with the line released, while a released interval of 40 µs or more is
the frame end. A dropped frame ends there; one that passes tests 1 to 4 and fails a later one, by its addressee, its kind, a sender that is
not rostered for the kind, or its payload length, marks a SILENT power station or cartridge PRESENT (R192, R193). LINE_STUCK posts
LINE and makes the receiver hunt, LINE_RELEASED removes it, and LINE_ID_CLASH posts LINE ID (R177, R179). -/
def Obligations.ReceiverFollows : Prop :=
  ∀ s : State, s.live →
    let now (r : Receiver) : State := { s with line := { s.line with receiver := r } }
    (s.line.receiver = .waiting → exec .startCell s = .next ((now .receiving).finish s))
    ∧ (s.line.receiver = .hunting → s.line.stuck = false → exec .huntFrameEnd s = .next ((now .waiting).finish s))
    ∧ (∀ heard : List Nat, s.line.receiver = .receiving →
        (hear heard = .error → exec (.codingError heard) s = .next ((now .hunting).finish s))
        ∧ (hear heard = .badEnd → exec (.codingError heard) s = .next ((now .waiting).finish s))
        ∧ (∀ (i d : Nat), heard[i]? = some d → (∀ (j x : Nat), j < i → j % 2 = 1 → heard[j]? = some x → x < 320) →
            (d < 48 ∨ 224 < d ∧ i % 2 = 0 ∨ 224 < d ∧ d < 320) → hear heard = .error)
        ∧ (∀ (frame rest : List Nat) (d : Nat), heard = frame ++ d :: rest → frame.length % 2 = 1 → 320 ≤ d →
            (∀ (j x : Nat), j % 2 = 1 → frame[j]? = some x → x < 320) → hear heard = hear frame))
    ∧ (∀ bytes : List Byte, (byteSum bytes ≠ 0 ∨ bytes.length ≠ frameLength bytes + 3) →
        exec (.frameDropped bytes) s = .next ((now .waiting).finish s))
    ∧ (∀ bytes : List Byte, byteSum bytes = 0 → bytes.length = frameLength bytes + 3 → frameSender bytes ≠ s.line.station →
        let kind := frameKind bytes
        let sender := frameSender bytes
        let takes : List (Nat × StationClass) :=
          [(4, .keyboard), (5, .interface), (6, .interface), (8, .power), (9, .power), (13, .cartridge)]
        (frameAddressee bytes ≠ s.line.station ∧ frameAddressee bytes ≠ 15 ∨ (kind ≠ 2 ∧ ∀ x ∈ takes, kind ≠ x.1)
          ∨ (∃ x ∈ takes, kind = x.1 ∧ ∀ e, s.line.station? x.2 = some e → e.number ≠ sender)
          ∨ (∃ x ∈ [(2, 2), (4, 2), (6, 3), (8, 1), (9, 0), (13, 2)], kind = x.1 ∧ frameLength bytes ≠ x.2)) →
        ((∀ c ∈ [StationClass.power, .cartridge], ∀ e, s.line.station? c = some e → e.number = sender →
            e.status = .present ∨ s.supply.phase ≠ .running) →
          exec (.frameDropped bytes) s = .next ((now .waiting).finish s))
        ∧ (∀ (c d : StationClass) (e : RosterEntry), (c = .power ∧ d = .cartridge ∨ c = .cartridge ∧ d = .power) →
            s.line.station? c = some e → e.number = sender → e.status = .silent → s.supply.phase = .running →
            (∀ f, s.line.station? d = some f → f.number ≠ sender) →
          exec (.frameDropped bytes) s
            = .next (({ s with
                line :=
                  { s.line.setStatus c .present with
                    receiver := .waiting, silenceRunning := s.line.silenceRunning || decide (c = .power) } }
                : State).finish s)))
    ∧ exec .lineStuck s
      = .next (({ s with
          line := { s.line with stuck := true, receiver := .hunting }, display := s.display.post .line } : State).finish s)
    ∧ (s.line.stuck = true →
      exec .lineReleased s
        = .next (({ s with line := { s.line with stuck := false }, display := s.display.unpost .line } : State).finish s))
    ∧ exec .lineIdClash s
      = .next (({ s with line := { s.line with receiver := .waiting }, display := s.display.post .lineId } : State).finish s)

/-- BEGIN_TRANSMISSION (R181, R184, R186): a HOLD in the flow slot goes first after 80 µs of quiet; the other frames go in the
order of joining after 6 + 2 × station number cells. The bytes of the frame are made at that moment. Nothing begins while the receiver
hunts or a frame is on the line, while the line is stuck, while a frame is being sent, or in DOWN (R187). -/
def Obligations.TransmissionBegins : Prop :=
  (∀ (s : State) (quiet : Nat), s.live →
      (s.line.receiver ≠ .waiting ∨ s.line.stuck = true ∨ s.line.sending ≠ none ∨ s.supply.phase ≠ .running) →
    exec (.beginTransmission quiet) s = .next (s.finish s))
  ∧ ∀ (s : State) (f : TxFrame) (quiet : Nat), s.live → s.supply.phase = .running → s.line.receiver = .waiting →
      s.line.stuck = false → s.line.sending = none →
    let begun : State :=
      { s with
        line := { s.line with sending := some { frame := f, bytes := s.txBytes f.kind }, receiver := .receiving } }
    let normal := (6 + 2 * s.line.station) * 20
    (s.line.flow = some f → f.kind = .hold →
      (80 ≤ quiet → exec (.beginTransmission quiet) s = .next (begun.finish s))
      ∧ (quiet < 80 → exec (.beginTransmission quiet) s = .next (s.finish s)))
    ∧ (s.line.places.head? = some f → f.kind ≠ .hold →
        (s.line.flow = none ∨ ∃ g, s.line.flow = some g ∧ g.kind ≠ .hold ∧ f.stamp ≤ g.stamp) →
      (normal ≤ quiet → exec (.beginTransmission quiet) s = .next (begun.finish s))
      ∧ (quiet < normal → exec (.beginTransmission quiet) s = .next (s.finish s)))
    ∧ (s.line.flow = some f → f.kind ≠ .hold → (∀ g, s.line.places.head? = some g → f.stamp < g.stamp) →
      (normal ≤ quiet → exec (.beginTransmission quiet) s = .next (begun.finish s))
      ∧ (quiet < normal → exec (.beginTransmission quiet) s = .next (s.finish s)))
    ∧ (s.line.flow = none → s.line.places = [] → exec (.beginTransmission quiet) s = .next (s.finish s))

/-- The frames that the controller sends (R186, Tables 9-5, 11-2, 11-3 and 11-5). A STATE is made of the values in force: engine state,
hold reasons, fault code, and the ceiling, the heat region, the mode and the strike queue empty mark. ROLL_CALL, HOLD and RELEASE go to
all stations with no payload, a SOUND with its pattern and a WORD_QUERY with its tag and letters to the station for which they joined. -/
def Obligations.StateReportsValues : Prop :=
  (∀ s : State,
    s.txBytes .rollCall = frameBytes s.line.station 1 15 [] ∧ s.txBytes .hold = frameBytes s.line.station 17 15 []
      ∧ s.txBytes .release = frameBytes s.line.station 18 15 []
      ∧ (∀ (p : Sound) (keyboard : Nat),
        s.txBytes (.sound p keyboard)
          = frameBytes s.line.station 20 keyboard [match p with | .click => 1 | .bell => 2 | .double => 3 | .alarm => 4])
      ∧ ∀ (tag : Nat) (letters : List Nat) (cartridge : Nat),
        s.txBytes (.wordQuery tag letters cartridge)
          = frameBytes s.line.station 12 cartridge (BitVec.ofNat 8 tag :: letters.map (BitVec.ofNat 8)))
  ∧ ∀ s : State, 1 ≤ s.supply.ceiling → s.supply.ceiling ≤ 4 →
    let region := match s.supply.region with | .cool => 0 | .warm => 1 | .hot => 2
    let mode := match s.text.settings.mode with | .direct => 0 | .line => 1
    let empty := if s.engine.slots = [] ∧ s.engine.head = none then 1 else 0
    ∃ b0 b1 b2 b3 : Byte,
      s.txBytes .state = frameBytes s.line.station 16 15 [b0, b1, b2, b3]
        ∧ b0.toNat = (match s.engine.state with
          | .parked => 0 | .homing => 1 | .ready => 2 | .held => 3 | .running => 4 | .halted => 5 | .locked => 6 | .down => 7)
        ∧ b1.getLsbD 0 = s.engine.holds.cover ∧ b1.getLsbD 1 = s.engine.holds.ribbon ∧ b1.getLsbD 2 = s.engine.holds.wheel
        ∧ b1.getLsbD 3 = s.engine.holds.low ∧ b1.getLsbD 4 = s.engine.holds.heat ∧ b1.toNat < 32
        ∧ b2.toNat = (match s.engine.fault with | .clear => 0 | .carriageStall => 1 | .wheelLost => 2)
        ∧ b3.toNat = (s.supply.ceiling - 1) + 4 * region + 16 * mode + 32 * empty

/-- What joins the transmit queue, and what leaves it when it is sent (R128, R176, R179, R184 to R186, R189). A STATE joins one of the 8
places, not while one waits unsent, and is owed with all taken; a SOUND joins for the rostered keyboard, not with one of its pattern in the
queue, and is dropped with no keyboard or no place; a HOLD or RELEASE takes the flow slot and replaces the frame there; a ROLL_CALL joins if
a place is free. At FRAME_SENT the frame leaves the queue, and a ROLL_CALL begins its window. A frame that leaves a place has the room
reported: an owed STATE takes the freed place and the head of the wait list is asked if it now can be, in either order. -/
def Obligations.FrameSentLeaves : Prop :=
  (∀ l : LineInterface,
    let joined (k : TxKind) : LineInterface :=
      { l with places := l.places ++ [{ kind := k, stamp := l.stamp, losses := 0 }], stamp := l.stamp + 1 }
    let waits : Prop := ∃ f ∈ l.places, f.kind = .state ∧ ∀ x, l.sending = some x → x.frame.stamp ≠ f.stamp
    (waits → l.askState = l)
      ∧ (¬waits → l.places.length < 8 → l.askState = joined .state)
      ∧ (¬waits → 8 ≤ l.places.length → l.askState = { l with stateOwed := true })
      ∧ (∀ p : Sound,
        let held : Prop := ∃ f ∈ l.places, ∃ n, f.kind = .sound p n
        ((∀ e ∈ l.roster, e.cls ≠ .keyboard) ∨ held ∨ 8 ≤ l.places.length → l.sound p = l)
        ∧ (∀ k, l.roster.find? (fun e => decide (e.cls = .keyboard)) = some k → ¬held → l.places.length < 8 →
          l.sound p = joined (.sound p k.number)))
      ∧ (∀ k : TxKind, l.flowFrame k
          = { l with flow := some { kind := k, stamp := l.stamp, losses := 0 }, stamp := l.stamp + 1 })
      ∧ (l.places.length < 8 → l.rollCall = joined .rollCall) ∧ (8 ≤ l.places.length → l.rollCall = l))
  ∧ ∀ (s : State) (x : Sending) (first : Bool), s.live → s.line.sending = some x →
    let ended : LineInterface := { s.line with sending := none, receiver := .waiting }
    let called : LineInterface :=
      if x.frame.kind = .rollCall then
        { ended with callsMade := s.line.callsMade + 1, window := true, firstCallSent := true }
      else ended
    let left : State :=
      { s with
        line :=
          { called with
            places := s.line.places.filter (fun f => decide (f.stamp ≠ x.frame.stamp)),
            flow := s.line.flow.filter (fun f => decide (f.stamp ≠ x.frame.stamp)) } }
    ((∀ f ∈ s.line.places, f.stamp ≠ x.frame.stamp) → exec (.frameSent first) s = .next (left.finish s))
    ∧ ((∃ f ∈ s.line.places, f.stamp = x.frame.stamp) →
      ∃ t : State, exec (.frameSent first) s = .next (t.finish s) ∧ RoomTold left first t)

/-- ARBITRATION_LOSS (R182, R183, R185): the frame stays with its loss count raised, and at the 16th loss is discarded: a ROLL_CALL still
counts as a call, a WORD_QUERY as a timeout, and a STATE is owed. A flow frame that has been replaced, or a STATE that a later one
follows, is discarded at any loss. A frame that leaves a place has the room reported, to an owed STATE and to the wait list (R128). The
model's choice in these clauses: a STATE which a later one follows is discarded without the owed mark, and a discarded WORD_QUERY has its
room reported before its timeout (log entry 17); the mark of a STATE discarded at the 16th loss is set before the room is reported, so
that a new STATE is queued at once (log entry 52); a first ROLL_CALL that is discarded lets no HERE be taken (log entry 58); and a HOLD or
RELEASE that is discarded reports no room (log entry 59). -/
def Obligations.LossesCount : Prop :=
  ∀ (s : State) (x : Sending) (first : Bool), s.live → s.line.sending = some x →
    let n := x.frame.stamp
    let stopped : LineInterface := { s.line with sending := none }
    let left : LineInterface :=
      { stopped with
        places := s.line.places.filter (fun f => decide (f.stamp ≠ n)),
        flow := s.line.flow.filter (fun f => decide (f.stamp ≠ n)) }
    let inPlace : Prop := ∃ f ∈ s.line.places, f.stamp = n
    let freed (l : LineInterface) (t : State) : Prop :=
      (inPlace → RoomTold { s with line := l } first t) ∧ (¬inPlace → t = { s with line := l })
    let gives (t : State) : Prop := exec (.arbitrationLoss first) s = .next (t.finish s)
    ((∀ f ∈ s.line.places, f.stamp ≠ n) → (∀ f, s.line.flow = some f → f.stamp ≠ n) → gives { s with line := stopped })
    ∧ (x.frame ∈ s.line.places → x.frame.kind = .state → (∃ f ∈ s.line.places, f.kind = .state ∧ f.stamp ≠ n) →
      ∃ t, freed left t ∧ gives t)
    ∧ ((x.frame ∈ s.line.places ∨ s.line.flow = some x.frame) →
        (x.frame.kind = .state → ∀ f ∈ s.line.places, f.kind = .state → f.stamp = n) →
      (x.frame.losses < 15 →
        gives
          { s with
            line :=
              { stopped with
                places := s.line.places.map (fun f => if f.stamp = n then { f with losses := f.losses + 1 } else f),
                flow := s.line.flow.map (fun f => if f.stamp = n then { f with losses := f.losses + 1 } else f) } })
      ∧ (15 ≤ x.frame.losses →
        (x.frame.kind = .rollCall →
          ∃ t, freed left t
            ∧ gives { t with line := { t.line with callsMade := s.line.callsMade + 1, window := true } })
        ∧ (x.frame.kind = .hold ∨ x.frame.kind = .release ∨ (∃ p n, x.frame.kind = .sound p n) → ∃ t, freed left t ∧ gives t)
        ∧ (x.frame.kind = .state → x.frame ∈ s.line.places → ∃ t, freed { left with stateOwed := true } t ∧ gives t)
        ∧ (∀ tag ls n, x.frame.kind = .wordQuery tag ls n →
            ∃ t, freed left t ∧ gives (t.queryTimeout tag))))

/-! ## The text unit: taking actions -/

/-- The text unit takes the head action of the key queue when it may (R11), waits with QUEUE_ROOM when the slots of Table 1-4 are
short, and otherwise does nothing (R11); the take that leaves 8 actions with the hold state set clears it and queues RELEASE
(R169, R171). That the wait holds the need found as it begins is log entry 54: the model's choice. -/
def Obligations.ActionsTaken : Prop :=
  ∀ (s : State) (k : ActionKind), s.live →
    ((∀ a rest, ¬s.offers k a rest) → exec k.command s = .next (s.finish s))
    ∧ ∀ (a : Action) (rest : List Action), s.offers k a rest →
      (s.freeSlots < s.slotsNeeded a →
        exec k.command s
          = .next (({ s with text := { s.text with waiting := some (.queueRoom (s.slotsNeeded a)) } } : State).finish s))
      ∧ (s.slotsNeeded a ≤ s.freeSlots → exec k.command s = .next (((s.taken rest).perform a).finish s))
      ∧ (s.text.run = none →
        s.slotsNeeded a =
          match k with
          | .char =>
            if s.text.settings.mode = .direct then
              1 + (if s.text.settings.bold then 1 else 0) + (if s.text.settings.underline then s.strokesFor a.code else 0)
            else 0
          | .index | .reverseIndex => if s.text.settings.mode = .direct ∨ s.text.print = none then 1 else 0
          | .halfUp | .halfDown | .carriageReturn => if s.text.settings.mode = .direct then 1 else 0
          | _ => 0)
      ∧ s.taken rest =
          (if s.intake.hold = true ∧ rest.length = 8 then
            { s with intake := { s.intake with queue := rest, hold := false }, line := s.line.flowFrame .release }
          else { s with intake := { s.intake with queue := rest } })

/-- A LOCKED engine has the text unit refuse each action that would append an op, with CLICK for a keyboard action and nothing else; the
end of a held run is refused too, in a DECIMAL run also that by the decimal character or by any other action (R13, R24, R25). A line-mode
RETURN meets its spell-stop first (R133): under CHECK_STOP with the mark clear it waits for verdicts that are out, and while an unknown
word stands it is refused with the armed mark set and CHECK WORD posted. That a RETURN refused at once has made no word end is log entry
12. -/
def Obligations.LockedRefuses : Prop :=
  ∀ (s : State) (k : ActionKind) (a : Action) (rest : List Action),
      s.offers k a rest → s.engine.state = .locked → s.engine.slots = [] →
    let refused : State := if a.source = .keyboard then (s.taken rest).sound .click else s.taken rest
    (s.text.run = none → s.text.settings.mode = .direct →
        k ∈ [.char, .index, .reverseIndex, .halfUp, .halfDown, .carriageReturn, .correct, .wordCorrect, .lineCorrect] →
      exec k.command s = .next (refused.finish s))
    ∧ (s.text.run = none → s.text.settings.mode = .line → k ∈ [.index, .reverseIndex] →
      exec k.command s = .next (refused.finish s))
    ∧ (s.text.run = none → s.text.settings.mode = .line → k = .carriageReturn →
      let e := (s.taken rest).wordEnd s.text.pp
      let stops : Prop := s.text.settings.spell = .checkStop ∧ s.text.armed = false
      (s.text.print = none → (¬stops ∨ (e.spell.lineSettled = true ∧ e.unknownStands = false)) →
        exec .carriageReturn s = .next (refused.finish s))
      ∧ (stops → e.spell.lineSettled = false →
        exec .carriageReturn s
          = .next (({ e with
              text :=
                { e.text with waiting := some .verdicts, resume := some { action := a, stage := .verdicts } } }
              : State).finish s))
      ∧ (stops → e.spell.lineSettled = true → e.unknownStands = true →
        exec .carriageReturn s
          = .next ((({ e with
              text := { e.text with armed := true }, display := s.display.post .checkWord } : State).refuse a).finish s)))
    ∧ (∀ h : HeldRun, s.text.run = some h →
        (k = .carriageReturn ∨ (k = .center ∧ h.kind = .center) ∨ (k = .flushRight ∧ h.kind = .flush)
          ∨ (h.kind = .decimal ∧ (k ∉ [.char, .backspace, .correct] ∨ (k = .char ∧ a.code = s.intake.decimal)))) →
      exec k.command s = .next (refused.finish s))

/-! ## The text unit: settings -/

/-- The setting actions outside a held run (R6, R21, Tables 1-6 and 11-4): a keyboard action cycles or toggles its setting, and
an interface action gives it a value, which is clamped for SPACING and otherwise ignored when it names none. -/
def Obligations.SettingsChange : Prop :=
  ∀ (s : State) (a : Action) (rest : List Action),
    let x := s.text.settings
    let gives (k : ActionKind) (y : Settings) : Prop :=
      s.plain k a rest → exec k.command s = .next (((s.taken rest).setSettings y).finish s)
    gives .marginRelease { x with marginRelease := true }
    ∧ gives .underline { x with underline := !x.underline }
    ∧ gives .bold { x with bold := !x.bold }
    ∧ (a.value = none →
      gives .pitch
          { x with pitch := match x.pitch with
            | .p10 => .p12
            | .p12 => .p15
            | .p15 => if proportional s.engine.wheel then .ps else .p10
            | .ps => .p10 }
      ∧ gives .spacing { x with spacing := if x.spacing < 4 then x.spacing + 1 else 2 }
      ∧ gives .impression
          { x with impression := match x.impression with
            | .light => .normal
            | .normal => .heavy
            | .heavy => .light }
      ∧ gives .justify { x with justify := !x.justify }
      ∧ gives .spell
          { x with spell := match x.spell with
            | .off => .check
            | .check => .checkStop
            | .checkStop => .off })
    ∧ (∀ v : Nat, a.value = some v →
      gives .pitch
          { x with pitch :=
              if v = 0 then .p10 else if v = 1 then .p12 else if v = 2 then .p15
              else if v = 3 ∧ proportional s.engine.wheel = true then .ps else x.pitch }
      ∧ gives .spacing { x with spacing := max 2 (min v 4) }
      ∧ gives .impression
          { x with impression :=
              if v = 0 then .light else if v = 1 then .normal else if v = 2 then .heavy else x.impression }
      ∧ gives .justify { x with justify := if v = 0 then false else if v = 1 then true else x.justify }
      ∧ gives .spell
          { x with spell := if v = 0 then .off else if v = 1 then .check else if v = 2 then .checkStop else x.spell })

/-- MODE (R19): refused while the working line holds an entry or a CENTER or FLUSH run stands, where a DECIMAL run is ended first (R24);
from LINE it waits with PRINT_LINE_BUSY while the print line exists and then makes the change; a change asks for a STATE and leaves pp;
an interface value that names the mode in force changes nothing. That a DECIMAL run is ended and MODE then applied, by R24, where R19
refuses MODE while a held run stands, is log entry 55: the model's choice. -/
def Obligations.ModeChanges : Prop :=
  ∀ (s : State) (a : Action) (rest : List Action),
    let t := s.taken rest
    let other : Mode := if s.text.settings.mode = .direct then .line else .direct
    (s.plain .mode a rest →
      (∀ v, a.value = some v → ¬(v = 1 ∧ other = .line) → ¬(v = 0 ∧ other = .direct) → exec .mode s = .next (t.finish s))
      ∧ ((a.value = none ∨ (a.value = some 1 ∧ other = .line) ∨ (a.value = some 0 ∧ other = .direct)) →
        (s.text.work.entries ≠ [] → exec .mode s = .next ((t.refuse a).finish s))
        ∧ (s.text.work.entries = [] → other = .direct → s.text.print ≠ none →
          exec .mode s
            = .next (({ t with
                text :=
                  { s.text with waiting := some .printLineBusy, resume := some { action := a, stage := .afresh } } }
                : State).finish s))
        ∧ (s.text.work.entries = [] → (other = .direct → s.text.print = none) →
          exec .mode s
            = .next (({ t with
                text := { s.text with settings := { s.text.settings with mode := other } }, line := t.line.askState }
                : State).finish s))))
    ∧ (∀ h : HeldRun, s.offers .mode a rest → s.text.run = some h → h.kind ≠ .decimal →
      exec .mode s = .next ((t.refuse a).finish s))
    ∧ (s.live → s.supply.phase = .running → s.text.waiting = none → a.kind = .mode → (a.value = none ∨ a.value = some 0) →
        s.text.run = none → s.text.resume = some { action := a, stage := .afresh } → s.text.settings.mode = .line →
        s.text.work.entries = [] → s.text.print = none →
      exec .actionResume s
        = .next (({ s with
            text := { s.text with resume := none, settings := { s.text.settings with mode := .direct } },
            line := s.line.askState } : State).finish s))

/-- The tab stops and the margins outside a held run (R6, R7, R21): TAB_SET puts pp, or an interface value clamped to 1,599, into the
rising list of at most 24; TAB_CLEAR takes pp out and TAB_CLEAR_ALL empties it; LM_SET and RM_SET set a margin that stays on its
side of the other, a keyboard action being refused and an interface value ignored otherwise. That a TAB_SET of a stop which stands
changes nothing also when the list holds 24 is log entry 13. -/
def Obligations.TabsAndMargins : Prop :=
  ∀ (s : State) (a : Action) (rest : List Action),
    let x := s.text.settings
    let t := s.taken rest
    let pp := s.text.pp
    (s.plain .tabSet a rest →
      let p := match a.value with | some v => min v 1599 | none => pp
      (a.value = none ∧ pp = 1600 → exec .tabSet s = .next ((t.refuse a).finish s))
      ∧ ((a.value = none → pp ≠ 1600) → p ∈ x.tabs → exec .tabSet s = .next (t.finish s))
      ∧ ((a.value = none → pp ≠ 1600) → p ∉ x.tabs → 24 ≤ x.tabs.length → exec .tabSet s = .next ((t.refuse a).finish s))
      ∧ ((a.value = none → pp ≠ 1600) → p ∉ x.tabs → x.tabs.length < 24 → rising x.tabs = true →
        ∃ tabs : List Nat,
          exec .tabSet s = .next ((t.setSettings { x with tabs := tabs }).finish s)
            ∧ rising tabs = true ∧ ∀ q, q ∈ tabs ↔ q ∈ x.tabs ∨ q = p))
    ∧ (s.plain .tabClear a rest →
      exec .tabClear s = .next ((t.setSettings { x with tabs := x.tabs.filter (fun q => decide (q ≠ pp)) }).finish s))
    ∧ (s.plain .tabClearAll a rest → exec .tabClearAll s = .next ((t.setSettings { x with tabs := [] }).finish s))
    ∧ (s.plain .lmSet a rest →
      (a.value = none → pp < x.rm → exec .lmSet s = .next ((t.setSettings { x with lm := pp }).finish s))
      ∧ (a.value = none → x.rm ≤ pp → exec .lmSet s = .next ((t.refuse a).finish s))
      ∧ (∀ v, a.value = some v →
        exec .lmSet s
          = .next ((t.setSettings { x with lm := if min v 1599 < x.rm then min v 1599 else x.lm }).finish s)))
    ∧ (s.plain .rmSet a rest →
      (a.value = none → x.lm < pp → exec .rmSet s = .next ((t.setSettings { x with rm := pp }).finish s))
      ∧ (a.value = none → pp ≤ x.lm → exec .rmSet s = .next ((t.refuse a).finish s))
      ∧ (∀ v, a.value = some v →
        exec .rmSet s
          = .next ((t.setSettings { x with
              rm := if x.lm < max 1 (min v 1600) then max 1 (min v 1600) else x.rm }).finish s)))

/-! ## The text unit: moving and typing -/

/-- SPACE, TAB, BACKSPACE and RELOCATE outside a held run (R17, R26, R44, R102, R114): how pp moves, what each refuses, the wrap that a
line-mode SPACE makes at RM, the deletion that a line-mode BACKSPACE makes, where the other entries stand, the letter run of the deleted
character takes the mark NONE and the word records that name it are dropped (R117), and the word end of SPACE and TAB. That a SPACE which
waits has made no word end is log entry 12, that a line-mode BACKSPACE at or left of LM is refused is log entry 13, and that a SPACE which
waits leaves the armed mark as it is log entry 61. -/
def Obligations.PrintPointMoves : Prop :=
  ∀ (s : State) (a : Action) (rest : List Action),
    let x := s.text.settings
    let t := s.taken rest
    let pp := s.text.pp
    let w := spaceWidth x.pitch
    let stop := if x.marginRelease then 0 else x.lm
    let moved (p : Nat) : State :=
      { t with text := { s.text with pp := p, armed := if x.mode = .line then false else s.text.armed } }
    (s.plain .space a rest →
      ((pp + w ≤ x.rm ∨ x.marginRelease = true) → pp + w ≤ 1600 →
        exec .space s = .next (((moved (pp + w)).wordEnd pp).finish s))
      ∧ (x.marginRelease = true → 1600 < pp + w → exec .space s = .next ((t.refuse a).finish s))
      ∧ (x.marginRelease = false → x.rm < pp + w →
        (x.mode = .direct → exec .space s = .next ((t.refuse a).finish s))
        ∧ (x.mode = .line → s.text.print ≠ none →
          exec .space s
            = .next (({ t with
                text :=
                  { s.text with waiting := some .printLineBusy, resume := some { action := a, stage := .dispatch } } }
                : State).finish s))
        ∧ (x.mode = .line → s.text.print = none → s.engine.state = .locked →
          exec .space s = .next ((t.refuse a).finish s))
        ∧ (x.mode = .line → s.text.print = none → s.engine.state ≠ .locked →
          exec .space s = .next (((t.wordEnd pp).dispatch true []).finish s))))
    ∧ (s.plain .tab a rest → rising x.tabs = true →
      ((∀ u ∈ x.tabs, u ≤ pp ∨ x.rm ≤ u) → exec .tab s = .next ((t.refuse a).finish s))
      ∧ (∀ u ∈ x.tabs, pp < u → u < x.rm → (∀ v ∈ x.tabs, pp < v → u ≤ v) →
        exec .tab s = .next (((moved u).wordEnd pp).finish s)))
    ∧ (s.plain .backspace a rest →
      (pp ≤ stop → s.text.work.newestEndingAt pp = none ∨ x.mode = .direct →
        exec .backspace s = .next ((t.refuse a).finish s))
      ∧ (stop < pp → s.text.work.newestEndingAt pp = none →
        exec .backspace s = .next ((moved (max stop (pp - w))).finish s))
      ∧ (∀ e, s.text.work.newestEndingAt pp = some e →
        (x.mode = .direct → stop < pp → exec .backspace s = .next ((moved (max stop e.pos)).finish s))
        ∧ (x.mode = .line →
          ∃ u : State, exec .backspace s = .next (u.finish s) ∧ u.text.pp = e.pos ∧ u.text.armed = false
            ∧ u.text.settings = x ∧ e.id ∉ u.text.work.entries.map Entry.id
            ∧ ((s.text.allEntries.map Entry.id).Nodup → ∀ y ∈ s.text.work.entries, y.id ≠ e.id → y.owner ≠ some e.id →
              ∃ y' ∈ u.text.work.entries, y' = { y with mark := y'.mark })
            ∧ ((s.text.allEntries.map Entry.id).Nodup → s.text.work.Owned → Removed s [e] u))))
    ∧ (s.plain .relocate a rest →
      (x.mode = .line → exec .relocate s = .next (t.finish s))
      ∧ (x.mode = .direct → s.text.work.chars = [] → exec .relocate s = .next ((moved x.lm).finish s))
      ∧ (x.mode = .direct → s.text.work.chars ≠ [] →
        ∃ p : Nat, exec .relocate s = .next ((moved p).finish s) ∧ (∃ e ∈ s.text.work.chars, e.endPos = p)
          ∧ ∀ e ∈ s.text.work.chars, e.endPos ≤ p))

/-- A character of width 6 to 14 is made with its companions: with bold one BOLD entry that strikes a unit to the right, and with
underline one stroke at its position for a width up to 10 and two, the second ending at its end, for a greater width; a stroke
stands at 1,590 at most. Added to a line record together, they take the next order numbers in that order, owner, bold, strokes from
left to right (R3, R33, R34). That order number 65,535 is given out before the renumbering is log entry 43, the model's choice. -/
def Obligations.CompanionsStand : Prop :=
  ∀ (id : Nat) (p : Placement) (st : EntryState), 6 ≤ p.width → p.width ≤ 14 →
    let owner : Entry :=
      { id := id, pos := p.pos, width := p.width, offset := p.offset, char := p.char, kind := .character, owner := none,
        rise := p.rise, state := st, wheel := none, mark := .plain, order := 0 }
    let bold : Entry := { owner with id := id + 1, kind := .bold, owner := some id }
    let stroke (n q : Nat) : Entry :=
      { owner with
        id := n, pos := min 1590 q, width := 10, offset := 0, char := 95, kind := .underscore, owner := some id }
    let first := if p.bold then id + 2 else id + 1
    makeEntries id p st =
        owner :: (if p.bold then [bold] else []) ++
          (if p.underline then
            (if p.width ≤ 10 then [stroke first p.pos]
              else [stroke first p.pos, stroke (first + 1) (p.pos + p.width - 10)])
          else [])
      ∧ owner.strikePos = p.pos + p.offset ∧ bold.strikePos = p.pos + p.offset + 1
      ∧ (∀ n q, (stroke n q).strikePos = min 1590 q)
      ∧ (∀ (r : LineRecord) (i : Nat) (e : Entry), r.counter + 4 ≤ 65536 → (makeEntries id p st)[i]? = some e →
          { e with order := r.counter + i } ∈ (r.addAll (makeEntries id p st)).entries)

/-- CHAR outside a held run (R15, R16, R26, R42): a character that fits joins the working line with its companions, QUEUED with one STRIKE
op each in direct mode and PENDING in line mode; pp advances and the bell mark follows the bell zone. What does not fit is refused; a
line-mode CHAR past RM wraps alone when no word ends at pp, and otherwise carries the word, if it leaves a line behind and fits the new one
with the character and within the 320 entries of R1, by the model's choice in log entry 44; it waits at the wrap while the print line
exists, with the armed mark as it was, by the model's choice in log entry 61, and is refused under LOCKED (R13) and, in either case, when
it is not on the wheel or no line could hold it. The first entry in the bell zone while the bell-given mark is clear asks for BELL, after
the STATE that a queue no longer empty asks for, and before the word end (R14, R36, R59); so does the character placed after a wrap. The
word at a point is the chain of touching characters that ends there (R41); the width and the strike offset at a placement are those of
Tables 2-1 and 2-2, by the pitch and, on a proportional wheel, the petal's class (R31, R32). -/
def Obligations.CharPlaced : Prop :=
  (∀ (s : State) (a : Action) (rest : List Action), s.plain .char a rest →
    let x := s.text.settings
    let t := s.taken rest
    let pp := s.text.pp
    let p : Placement :=
      { char := a.code, pos := pp, width := widthAt x.pitch s.engine.wheel a.code,
        offset := offsetAt x.pitch s.engine.wheel a.code, rise := x.rise, bold := x.bold, underline := x.underline }
    let wheelHas : Prop := onWheel s.engine.wheel a.code = true ∧ (x.underline = true → onWheel s.engine.wheel 95 = true)
    let room : Prop := pp + p.width ≤ 1600
      ∧ s.text.work.entries.length + entryCount p.width p.bold p.underline ≤ 320 ∧ (s.text.work.charsAt pp).length < 2
    let inMargin : Prop := pp + p.width ≤ x.rm ∨ x.marginRelease = true
    let es := makeEntries s.nextId p (if x.mode = .direct then .queued else .pending)
    let waits : State :=
      { t with text := { s.text with waiting := some .printLineBusy, resume := some { action := a, stage := .wrap } } }
    let rung (l : LineInterface) : LineInterface :=
      if entersBell x.rm pp p.width = true ∧ s.text.bellGiven = false then l.sound .bell else l
    (x.mode = .direct → s.engine.state ≠ .locked → s.slotsNeeded a ≤ s.freeSlots → wheelHas → room → inMargin →
      ∃ u : State,
        exec .char s = .next ((if continuesWord a.code then u else u.wordEnd pp).finish s)
          ∧ u.text.work = s.text.work.addAll es
          ∧ u.engine.slots = s.engine.slots ++ es.map (fun e => strikeOp e x.impression)
          ∧ u.text.pp = pp + p.width ∧ u.text.settings = x
          ∧ u.text.bellGiven = (s.text.bellGiven || entersBell x.rm pp p.width)
          ∧ u.line = rung (if s.engine.slots = [] ∧ s.engine.head = none then t.line.askState else t.line))
    ∧ (x.mode = .line → wheelHas → room → inMargin →
      ∃ u : State,
        exec .char s = .next ((if continuesWord a.code then u else u.wordEnd pp).finish s)
          ∧ u.text.work = s.text.work.addAll es ∧ u.engine = s.engine
          ∧ u.text.pp = pp + p.width ∧ u.text.settings = x ∧ u.text.armed = false
          ∧ u.text.bellGiven = (s.text.bellGiven || entersBell x.rm pp p.width) ∧ u.line = rung t.line)
    ∧ (∀ w : State,
      let q := w.placement a.code
      let y := w.text.settings
      let rings : Bool := entersBell y.rm w.text.pp q.width && !w.text.bellGiven
      w.placePending a.code =
        { w with
          nextId := w.nextId + (makeEntries w.nextId q .pending).length,
          text :=
            { w.text with
              work := w.text.work.addAll (makeEntries w.nextId q .pending), pp := w.text.pp + q.width, armed := false,
              bellGiven := w.text.bellGiven || rings },
          line := if rings then w.line.sound .bell else w.line })
    ∧ (s.slotsNeeded a ≤ s.freeSlots → ¬(wheelHas ∧ room) → inMargin → exec .char s = .next ((t.refuse a).finish s))
    ∧ (x.mode = .direct → s.slotsNeeded a ≤ s.freeSlots → ¬inMargin → exec .char s = .next ((t.refuse a).finish s))
    ∧ (x.mode = .line → ¬inMargin → s.text.work.newestEndingAt pp = none → ¬(wheelHas ∧ x.lm + p.width ≤ x.rm) →
      exec .char s = .next ((t.refuse a).finish s))
    ∧ (x.mode = .line → ¬inMargin → wheelHas → x.lm + p.width ≤ x.rm → s.text.work.newestEndingAt pp = none →
      (s.text.print ≠ none → exec .char s = .next (waits.finish s))
      ∧ (s.text.print = none → s.engine.state = .locked → exec .char s = .next ((t.refuse a).finish s))
      ∧ (s.text.print = none → s.engine.state ≠ .locked →
        exec .char s = .next (((t.dispatch true []).placePending a.code).finish s)))
    ∧ (x.mode = .line → ¬inMargin → s.text.work.newestEndingAt pp ≠ none →
      let word := s.text.work.wordAt pp
      let ws := leastPos x.lm word
      let carries : Prop := wheelHas ∧ x.lm + p.width ≤ x.rm ∧ x.lm < ws ∧ word.length < s.text.work.chars.length
        ∧ (pp - ws) + p.width ≤ x.rm - x.lm
        ∧ (s.text.work.entries.filter (fun e => (word.map Entry.id).contains (ownerId e))).length
            + entryCount p.width p.bold p.underline ≤ 320
      (¬carries → exec .char s = .next ((t.refuse a).finish s))
      ∧ (carries → s.text.print ≠ none → exec .char s = .next (waits.finish s))
      ∧ (carries → s.text.print = none → s.engine.state = .locked → exec .char s = .next ((t.refuse a).finish s))
      ∧ (carries → s.text.print = none → s.engine.state ≠ .locked →
        exec .char s
          = .next ((((if continuesWord a.code then t else t.wordEnd pp).dispatch true word).placePending a.code).finish
              s))))
  ∧ (∀ (r : LineRecord) (p : Nat) (e : Entry), (r.entries.map Entry.id).Nodup →
    (e ∈ r.wordAt p ↔
      Chained (fun x y => x.pos + x.width = y.pos ∨ x.pos = y.pos) (fun x => x ∈ r.entries ∧ x.kind = .character)
        (fun x => x.pos + x.width = p) e))
  ∧ (∀ code c : Nat,
    let k := widthClass code c
    let widths (p : Pitch) : Nat := widthAt p (some code) c
    let offsets (p : Pitch) : Nat := offsetAt p (some code) c
    widths .p10 = 12 ∧ widths .p12 = 10 ∧ widths .p15 = 8
      ∧ (nativePitch code = some .ps →
        1 ≤ k ∧ k ≤ 5 ∧ [6, 8, 10, 12, 14][k - 1]? = some (widths .ps) ∧ [3, 2, 1, 0, 0][k - 1]? = some (offsets .p10)
          ∧ [2, 1, 0, 0, 0][k - 1]? = some (offsets .p12) ∧ [1, 0, 0, 0, 0][k - 1]? = some (offsets .p15)
          ∧ offsets .ps = 0)
      ∧ (nativePitch code ≠ some .ps → ∀ p : Pitch, offsets p = 0))

/-- A dispatch (R2, R27, R43): the entries of the carried word move by LM less the word's start onto a new working line, the others become
the print line with the impression in force and its return feed; pp follows the word; a dispatch by RETURN clears the rise and margin
release. No entry is lost or made. A wrapped dispatch with justify on (R45 to R47) reckons the natural end, the gaps and the slack of the
line that is printed: where there is a gap, the slack is not below 0 and its share is at most twice the space width, each CHARACTER entry
moves right by the extras of the gaps up to it, the leftmost S mod G gaps taking one unit more; elsewhere the entries stand, and JUST LIMIT
is posted unless the line has no CHARACTER entry, or has no gap and ends at RM already. The word records of the working line go to the
print line (R122), but for those that name a carried entry: a settled one stands as it is, and an unsettled one is dropped, its lookup, its
wait and its query left without a record, and made anew LOOKING for the same entries. That several records made anew are made in the order
of those they replace is the model's choice in log entry 64. -/
def Obligations.DispatchMoves : Prop :=
  ∀ (s : State) (wrapped : Bool) (word : List Entry), (s.text.work.entries.map Entry.id).Nodup →
      (∀ e ∈ word, e ∈ s.text.work.entries ∧ e.kind = .character ∧ e.owner = none) →
    let x := s.text.settings
    let ws := leastPos x.lm word
    let t := s.dispatch wrapped word
    let stays := s.text.work.entries.filter (fun e => !(word.map Entry.id).contains (ownerId e))
    let line := stays.filter Entry.isChar
    ∃ p : PrintLine, t.text.print = some p
      ∧ ((wrapped = false ∨ x.justify = false ∨ line = []) → p.record.entries = stays ∧ t.display = s.display)
      ∧ (wrapped = true → x.justify = true → line.Pairwise (fun a b => a.pos ≤ b.pos) →
          (∀ e ∈ line, e.owner = none) → ∀ (gs : List Nat) (far : Nat),
          gs.Pairwise (fun a b => a < b) →
          (∀ q, q ∈ gs ↔ (∃ e ∈ line, e.pos = q) ∧ (∃ e ∈ line, e.pos < q) ∧ ∀ e ∈ line, e.pos < q → e.endPos < q) →
          (∃ e ∈ line, e.endPos = far) → (∀ e ∈ line, e.endPos ≤ far) →
        let gap := gs.length
        let slack := x.rm - far
        let applies : Prop := 1 ≤ gap ∧ far ≤ x.rm ∧ slack / gap ≤ 2 * spaceWidth x.pitch
        let extra (q : Nat) : Nat :=
          let k := (gs.filter (fun g => decide (g ≤ q))).length
          k * (slack / gap) + min k (slack % gap)
        (applies → t.display = s.display
          ∧ (∀ e ∈ line, { e with pos := e.pos + extra e.pos } ∈ p.record.entries)
          ∧ (∀ e ∈ stays, ∀ o ∈ line, e.kind = .bold → e.owner = some o.id →
            { e with pos := e.pos + extra o.pos } ∈ p.record.entries))
        ∧ (¬applies → p.record.entries = stays
          ∧ t.display = (if gap = 0 ∧ far = x.rm then s.display else s.display.post .justLimit)))
      ∧ p.impression = x.impression ∧ p.returnAppended = false
      ∧ (∀ e, p.record.entries.getLast? = some e → p.returnFeed = x.spacing - e.rise)
      ∧ (p.record.entries = [] → p.returnFeed = x.spacing)
      ∧ ((p.record.entries ++ t.text.work.entries).map Entry.id).Perm (s.text.work.entries.map Entry.id)
      ∧ (∀ e ∈ word, ∃ e' ∈ t.text.work.entries, e'.id = e.id ∧ e'.pos = e.pos + x.lm - ws ∧ e'.char = e.char
          ∧ e'.state = e.state)
      ∧ t.text.pp = (if word = [] then x.lm else x.lm + (s.text.pp - ws))
      ∧ t.text.settings = (if wrapped then x else { x with rise := 0, marginRelease := false })
      ∧ t.text.bellGiven = false ∧ t.text.armed = false ∧ t.engine = s.engine ∧ t.intake = s.intake ∧ t.line = s.line
      ∧ (let sp := s.spell
         let stands (r : WordRecord) : Bool :=
           decide (r.line = .working) && r.entries.any (fun i => (word.map Entry.id).contains i)
         let unsettled (r : WordRecord) : Bool :=
           decide (r.state = .looking) || decide (r.state = .waiting) || decide (r.state = .asking)
         let anew := sp.records.filter (fun r => stands r && unsettled r)
         let gone := anew.map WordRecord.id
         let records : List WordRecord :=
           (sp.records.filter (fun r => !(stands r && unsettled r))).map
             (fun r => if stands r then r else { r with line := .print })
           ++ anew.zipIdx.map (fun q =>
             { id := sp.nextRecord + q.2, tag := none, line := .working, entries := q.1.entries, letters := q.1.letters,
               state := .looking })
         sp.records.length ≤ 8 →
         t.spell =
           { sp with
             records := records, nextRecord := sp.nextRecord + anew.length,
             waitList := sp.waitList.filter (fun i => !gone.contains i),
             outstanding := sp.outstanding.map (fun q => { q with record := q.record.filter (fun i => !gone.contains i) }),
             lookup := match sp.lookup with
               | some k => some { k with record := k.record.filter (fun i => !gone.contains i) }
               | none =>
                 if anew = [] then none
                 else (records.find? (fun r => decide (r.state = .looking))).map (fun r =>
                   { record := some r.id, listed := sp.userList.contains r.letters }) })

/-- RETURN outside a held run (R20, R27, R118, R133): in direct mode its op joins the queue and the working line empties; in line mode it
makes a word end and dispatches the line, waits while the print line exists, and under CHECK_STOP with the mark clear is refused
while an unknown word stands, with the armed mark set and CHECK WORD posted. That a RETURN which waits, for the print line or for the
verdicts, has made its word end when it is taken, under every spell setting, is log entry 12: the model's choice. -/
def Obligations.ReturnEndsLine : Prop :=
  ∀ (s : State) (a : Action) (rest : List Action),
    let x := s.text.settings
    let t := s.taken rest
    let pp := s.text.pp
    (s.direct .carriageReturn a rest 1 →
      ∃ u : State, exec .carriageReturn s = .next (u.finish s)
        ∧ u.engine.slots =
          (s.engine.slots ++ [returnOp x.lm (x.spacing - x.rise)]).map (Op.forget (s.text.work.entries.map Entry.id))
        ∧ u.text =
          { s.text with
            work := LineRecord.empty, pp := x.lm, settings := { x with rise := 0, marginRelease := false },
            bellGiven := false }
        ∧ u.spell = s.spell.dropNaming (s.text.work.entries.map Entry.id) ∧ u.intake = t.intake)
    ∧ (s.inLine .carriageReturn a rest →
      let e := t.wordEnd pp
      let waits (w : Waiting) (st : ResumeStage) : State :=
        { e with text := { e.text with waiting := some w, resume := some { action := a, stage := st } } }
      ((x.spell ≠ .checkStop ∨ s.text.armed = true ∨ (e.spell.lineSettled = true ∧ e.unknownStands = false)) →
        (s.text.print = none → s.engine.state ≠ .locked → exec .carriageReturn s = .next ((e.dispatch false []).finish s))
        ∧ (s.text.print ≠ none → exec .carriageReturn s = .next ((waits .printLineBusy .dispatch).finish s)))
      ∧ (x.spell = .checkStop → s.text.armed = false → e.spell.lineSettled = false →
        exec .carriageReturn s = .next ((waits .verdicts .verdicts).finish s))
      ∧ (x.spell = .checkStop → s.text.armed = false → e.spell.lineSettled = true → e.unknownStands = true →
        exec .carriageReturn s
          = .next ((({ e with
              text := { e.text with armed := true }, display := s.display.post .checkWord } : State).refuse a).finish s)))

/-- INDEX, REVERSE_INDEX, HALF_UP and HALF_DOWN outside a held run (R18): the feed each appends, the half-line rise that stays within −2
and +2, and the wait of a line-mode INDEX or REVERSE_INDEX while the print line exists. -/
def Obligations.PaperFeeds : Prop :=
  ∀ (s : State) (a : Action) (rest : List Action),
    let x := s.text.settings
    let t := s.taken rest
    let appends (c : Instr) (n r : Int) : Prop :=
      ∃ u : State, exec c s = .next (u.finish s) ∧ u.engine.slots = s.engine.slots ++ [feedOp n .text]
        ∧ u.text = { s.text with settings := { x with rise := r } } ∧ u.intake = t.intake
    (s.direct .index a rest 1 → appends .index x.spacing x.rise)
    ∧ (s.direct .reverseIndex a rest 1 → appends .reverseIndex (-(x.spacing : Int)) x.rise)
    ∧ (s.direct .halfDown a rest 1 → -2 ≤ x.rise → x.rise ≤ 1 → appends .halfDown 1 (x.rise + 1))
    ∧ (s.direct .halfUp a rest 1 → -1 ≤ x.rise → x.rise ≤ 2 → appends .halfUp (-1) (x.rise - 1))
    ∧ (s.inLine .halfDown a rest → -2 ≤ x.rise → x.rise ≤ 1 →
      exec .halfDown s = .next ((t.setSettings { x with rise := x.rise + 1 }).finish s))
    ∧ (s.inLine .halfUp a rest → -1 ≤ x.rise → x.rise ≤ 2 →
      exec .halfUp s = .next ((t.setSettings { x with rise := x.rise - 1 }).finish s))
    ∧ (s.plain .halfDown a rest → 1 ≤ s.freeSlots → 2 ≤ x.rise → exec .halfDown s = .next ((t.refuse a).finish s))
    ∧ (s.plain .halfUp a rest → 1 ≤ s.freeSlots → x.rise ≤ -2 → exec .halfUp s = .next ((t.refuse a).finish s))
    ∧ (s.inLine .index a rest → s.engine.state ≠ .locked → 1 ≤ s.freeSlots → s.text.print = none →
      appends .index x.spacing x.rise)
    ∧ (s.inLine .reverseIndex a rest → s.engine.state ≠ .locked → 1 ≤ s.freeSlots → s.text.print = none →
      appends .reverseIndex (-(x.spacing : Int)) x.rise)
    ∧ (∀ k ∈ [ActionKind.index, .reverseIndex], s.inLine k a rest → s.engine.state ≠ .locked → s.text.print ≠ none →
      exec k.command s
        = .next (({ t with
            text :=
              { s.text with waiting := some .printLineBusy, resume := some { action := a, stage := .afresh } } }
            : State).finish s))

/-! ## Corrections -/

/-- The correction actions outside a held run (R98 to R101, R114, R115). In direct mode, with the engine not LOCKED, they move pp and hand
the chosen characters over right to left as NEW items, for a word or a line as many whole positions from the right as fit within 32; in
line mode they delete them, and the other entries stand, the letter runs of the deleted characters with the mark NONE, and the word records
that name one are dropped (R117). Where no character ends at pp, WORD_CORRECT first moves pp back to the greatest end left of it, and is
refused if there is none. That a direct-mode CORRECT to the position of an entry left of LM stops at LM, and that a line-mode CORRECT at or
left of LM with no character ending at pp is refused, is log entry 13: the model's choice. -/
def Obligations.CorrectionsChoose : Prop :=
  (∀ (s : State) (a : Action) (rest : List Action),
    let x := s.text.settings
    let t := s.taken rest
    let pp := s.text.pp
    let stop := if x.marginRelease then 0 else x.lm
    let lifts (p : Nat) (es : List Entry) : State :=
      if es = [] then { t with text := { s.text with pp := p } }
      else
        { t with
          text := { s.text with pp := p, waiting := some .correction },
          corr :=
            { lifting := true, items := (rightToLeft es).map (fun e => { owner := e.id, status := .fresh }),
              tapeMark := false, closingMark := false, closingFeeds := 0 } }
    (s.direct .correct a rest 0 →
      let target := match s.text.work.newestEndingAt pp with
        | some e => max stop e.pos
        | none => max stop (pp - spaceWidth x.pitch)
      (pp ≤ stop → exec .correct s = .next ((t.refuse a).finish s))
      ∧ (stop < pp → exec .correct s = .next ((lifts target (s.text.work.charsAt target)).finish s)))
    ∧ (s.direct .wordCorrect a rest 0 →
      (s.text.work.newestEndingAt pp ≠ none →
        exec .wordCorrect s = .next ((lifts pp (limited (s.text.work.wordAt pp))).finish s))
      ∧ (s.text.work.newestEndingAt pp = none → (∀ e ∈ s.text.work.chars, pp ≤ e.endPos) →
        exec .wordCorrect s = .next ((t.refuse a).finish s))
      ∧ (∀ e ∈ s.text.work.chars, s.text.work.newestEndingAt pp = none → e.endPos < pp →
          (∀ y ∈ s.text.work.chars, y.endPos < pp → y.endPos ≤ e.endPos) →
        exec .wordCorrect s = .next ((lifts e.endPos (limited (s.text.work.wordAt e.endPos))).finish s)))
    ∧ (s.direct .lineCorrect a rest 0 →
      (s.text.work.chars = [] → exec .lineCorrect s = .next ((t.refuse a).finish s))
      ∧ (s.text.work.chars ≠ [] → exec .lineCorrect s = .next ((lifts pp (limited s.text.work.chars)).finish s)))
    ∧ (s.inLine .correct a rest →
      (∀ e, s.text.work.newestEndingAt pp = some e →
        exec .correct s = .next ((((t.removeOwner e).setPp e.pos).edited).finish s)
          ∧ ((s.text.allEntries.map Entry.id).Nodup → s.text.work.Owned → Removed s [e] (t.removeOwner e)))
      ∧ (s.text.work.newestEndingAt pp = none → stop < pp →
        exec .correct s
          = .next (({ t with
              text := { s.text with pp := max stop (pp - spaceWidth x.pitch), armed := false } } : State).finish s))
      ∧ (s.text.work.newestEndingAt pp = none → pp ≤ stop → exec .correct s = .next ((t.refuse a).finish s)))
    ∧ (s.inLine .wordCorrect a rest →
      let deletes (p : Nat) : Prop :=
        let word := s.text.work.wordAt p
        let ids := word.map Entry.id
        ∃ u : State, exec .wordCorrect s = .next (u.finish s) ∧ u.text.settings = x ∧ u.text.armed = false
          ∧ u.text.pp = leastPos p word ∧ u.engine.slots.length = s.engine.slots.length
          ∧ u.text.bellGiven = s.text.bellGiven
          ∧ (∀ e ∈ u.text.work.entries, e.id ∉ ids)
          ∧ ((s.text.allEntries.map Entry.id).Nodup →
            (∀ e ∈ u.text.work.entries, ∀ i ∈ ids, e.owner ≠ some i)
            ∧ ∀ y ∈ s.text.work.entries, y.id ∉ ids → (∀ i ∈ ids, y.owner ≠ some i) →
              ∃ y' ∈ u.text.work.entries, y' = { y with mark := y'.mark })
          ∧ ((s.text.allEntries.map Entry.id).Nodup → s.text.work.Owned → Removed s word u)
      (s.text.work.newestEndingAt pp ≠ none → deletes pp)
      ∧ (s.text.work.newestEndingAt pp = none → (∀ e ∈ s.text.work.chars, pp ≤ e.endPos) →
        exec .wordCorrect s = .next ((t.refuse a).finish s))
      ∧ (∀ e ∈ s.text.work.chars, s.text.work.newestEndingAt pp = none → e.endPos < pp →
          (∀ y ∈ s.text.work.chars, y.endPos < pp → y.endPos ≤ e.endPos) → deletes e.endPos))
    ∧ (s.inLine .lineCorrect a rest →
      (s.text.work.entries = [] → pp = x.lm → exec .lineCorrect s = .next ((t.refuse a).finish s))
      ∧ ((s.text.work.entries ≠ [] ∨ pp ≠ x.lm) →
        ∃ u : State, exec .lineCorrect s = .next (u.finish s)
          ∧ u.text = { s.text with work := LineRecord.empty, pp := x.lm, armed := false, bellGiven := false }
          ∧ u.spell = s.spell.dropNaming (s.text.work.entries.map Entry.id) ∧ u.intake = t.intake)))
  ∧ (∀ l : List Entry, (limited l).length ≤ 32
      ∧ (∀ e, e ∈ limited l ↔ e ∈ l ∧ (l.filter (fun y => decide (e.pos ≤ y.pos))).length ≤ 32)
      ∧ (limited l).Pairwise (fun a b => b.pos ≤ a.pos))

/-- The correction unit disposes of its current item in the event that brings it there (R97, R103 to R105, R107, R110, R112): an owner
whose op has not begun is cancelled with its companions and its ops, and pp becomes its position; a member whose strike is in progress
is awaited, the other ops that have not begun being removed with their companions; a member set that is PRINTED meets the wheel
check, and the item becomes APPENDING, or the correction stops there with CLICK; HALTED and DOWN let nothing of this happen, and a
correction that used no tape closes at once. TAPE_APPEND and CORRECTION_CLOSING (R106, R109): the next member of an APPENDING item gets
its tape strike, at HEAVY when another wheel struck it than the one mounted at the append (log entry 50), and becomes LIFTING; with an
empty list and an empty queue the closing brings the paper back to the current rise by single half-line feeds, or ends the correction
when it stands there. -/
def Obligations.CorrectionLifts : Prop :=
  (∀ s : State,
    let acts : Prop := s.corr.lifting = true ∧ s.engine.state ≠ .halted ∧ s.supply.phase = .running
    (¬acts → s.correctionActs = s)
    ∧ (acts → s.corr.items = [] →
      s.correctionActs = (if s.corr.tapeMark then s else { s with corr := State.reset.corr }))
    ∧ (∀ i : Item, acts → s.corr.current = some i → i.status = .appending → s.correctionActs = s)
    ∧ (∀ i : Item, acts → s.corr.current = some i → i.status ≠ .appending →
      let u := s.disposeItem i
      let ms := s.members i
      let begun (id : Nat) : Prop := s.engine.progress ≠ none ∧ ∃ o, s.engine.head = some o ∧ o.ref = some id
      let others := ms.filter (fun e => decide (e.state = .queued) && !s.engine.inProgress e.id)
      let names := others.map Entry.id
      (∀ e, s.engine.inProgress e = true ↔ begun e)
      ∧ (∀ n, s.disposeItems (n + 1) = u.disposeItems n)
      ∧ s.correctionActs = (u.disposeItems s.corr.items.length).closeUntaped
      ∧ ((∀ e ∈ ms, e.id ≠ i.owner) →
        u = { s with corr := { s.corr with items := s.corr.items.filter (fun x => decide (x.owner ≠ i.owner)) } })
      ∧ (∀ owner : Entry, ms.find? (fun e => decide (e.id = i.owner)) = some owner →
        (owner.state = .queued → ¬begun owner.id →
          u.corr = { s.corr with items := s.corr.items.filter (fun x => decide (x.owner ≠ owner.id)) }
            ∧ u.text.pp = owner.pos ∧ u.text.find owner.id = none
            ∧ (∀ e ∈ s.text.companions owner.id, u.text.find e = none)
            ∧ u.engine.slots = (s.engine.slots.filter (fun o => !o.refersTo names)).map
              (Op.forget (owner.id :: s.text.companions owner.id))
            ∧ u.text.settings = s.text.settings ∧ u.drive = s.drive)
        ∧ ((owner.state ≠ .queued ∨ begun owner.id) →
          (others ≠ [] → u.engine.slots.length = (s.engine.slots.filter (fun o => !o.refersTo names)).length
            ∧ (∀ e ∈ names, u.text.find e = none) ∧ u.text.pp = s.text.pp)
          ∧ (others = [] → (∃ e ∈ ms, e.state = .queued) →
            u = { s with corr := s.corr.setStatus i.owner .awaitStrike })
          ∧ (others = [] → (∀ e ∈ ms, e.state ≠ .queued) → (∀ e ∈ ms, onWheel s.engine.wheel e.char = true) →
            u = { s with corr := s.corr.setStatus i.owner .appending })
          ∧ (others = [] → (∀ e ∈ ms, e.state ≠ .queued) → (∃ e ∈ ms, onWheel s.engine.wheel e.char = false) →
            u = { s with
              corr := { s.corr with items := s.corr.items.filter (fun x => decide (x.status = .inQueue)) },
              line := s.line.sound .click })))))
  ∧ ∀ s : State, s.live → s.corr.lifting = true → s.engine.state ≠ .halted → s.engine.state ≠ .locked →
      s.supply.phase = .running →
    (∀ (i : Item) (e : Entry) (more : List Entry), 1 ≤ s.freeSlots → s.corr.current = some i → i.status = .appending →
        tapeOrder (s.members i) = e :: more →
      ∃ u : State, exec .tapeAppend s = .next (u.finish s)
        ∧ u.engine.slots = s.engine.slots ++
          [{ kind := .strike, target := e.strikePos, char := e.char,
             impression := if e.wheel = s.engine.wheel then s.text.settings.impression else .heavy,
             medium := .tape, advance := e.width, feed := 0, rise := e.rise, ref := some e.id, origin := .correction }]
        ∧ u.text = s.text.modify e.id (fun y => { y with state := .lifting }) ∧ u.corr.tapeMark = true
        ∧ u.corr.items =
          (if e.kind = .character then
            s.corr.items.map (fun j => if j.owner = i.owner then { j with status := .inQueue } else j)
          else s.corr.items))
    ∧ (s.corr.items = [] → s.corr.tapeMark = true → s.corr.closingMark = false → s.engine.slots = [] → s.engine.head = none →
      (s.text.settings.rise = s.engine.paperRise →
        exec .correctionClosing s = .next (({ s with corr := State.reset.corr } : State).finish s))
      ∧ (s.text.settings.rise ≠ s.engine.paperRise →
        let d := s.text.settings.rise - s.engine.paperRise
        ∃ u : State, exec .correctionClosing s = .next (u.finish s)
          ∧ u.engine.slots = List.replicate d.natAbs (feedOp (if 0 < d then 1 else -1) .correction)
          ∧ u.corr = { s.corr with closingMark := true, closingFeeds := d.natAbs } ∧ u.text = s.text))

/-! ## Held runs and feeding -/

/-- Held runs (R22 to R25, R37, R116): CENTER, FLUSH_RIGHT and DECIMAL_TAB open a run in direct mode, the last at the next tab stop. In a
run a CHAR that fits joins it PENDING, BACKSPACE and CORRECT delete its last character, with its letter run unmarked and its word records
dropped (R117), or move pp back, and in a CENTER or FLUSH run SPACE lengthens it and an action that has no place there is refused. The
run's own action or RETURN, and in a DECIMAL run the decimal character or any other action, ends the run: its entries move to the final
start of Table 2-4 with the other entries standing, one that is the third character at its place is removed with a CLICK for a keyboard
action, pp follows, the first entry in the bell zone asks for BELL if the mark is clear (R36), and the entries wait to be fed in order
before the action goes on. A run without entries ends at once. The model's choice in these clauses: every run entry that shares its final
place with two others is removed (log entry 33); the wait for the feeding, and that the action which ended the run makes no word end (log
entry 11); the wait with QUEUE_ROOM for the slots that the action needs as it is found when this wait begins (log entry 54); and MODE,
which ends a DECIMAL run and is then applied (log entry 55). -/
def Obligations.HeldRunsStand : Prop :=
  ∀ (s : State) (a : Action) (rest : List Action),
    let x := s.text.settings
    let t := s.taken rest
    let pp := s.text.pp
    let sw := spaceWidth x.pitch
    let opened (k : RunKind) (p : Nat) : State :=
      { t with text := { s.text with pp := p, run := some { kind := k, startPp := pp, origin := p, members := [] } } }
    (s.plain .center a rest → x.mode = .direct → exec .center s = .next ((opened .center pp).finish s))
    ∧ (s.plain .flushRight a rest → x.mode = .direct → exec .flushRight s = .next ((opened .flush pp).finish s))
    ∧ (s.plain .decimalTab a rest → x.mode = .direct → rising x.tabs = true →
      ((∀ u ∈ x.tabs, u ≤ pp ∨ x.rm ≤ u) → exec .decimalTab s = .next ((t.refuse a).finish s))
      ∧ (∀ u ∈ x.tabs, pp < u → u < x.rm → (∀ v ∈ x.tabs, pp < v → u ≤ v) →
        exec .decimalTab s = .next ((opened .decimal u).finish s)))
    ∧ (∀ k ∈ [ActionKind.center, .flushRight, .decimalTab], s.inLine k a rest →
      exec k.command s = .next ((t.refuse a).finish s))
    ∧ (∀ (k : ActionKind) (h : HeldRun), s.offers k a rest → s.text.run = some h → s.slotsNeeded a ≤ s.freeSlots →
      let limit : Nat := match h.kind with
        | .center => x.rm - x.lm
        | .flush => x.rm - h.startPp
        | .decimal => h.origin - h.startPp
      let w := widthAt x.pitch s.engine.wheel a.code
      let chars := s.text.work.chars.filter (fun e => h.members.contains e.id)
      let own : Prop := (h.kind = .center ∧ k = .center) ∨ (h.kind = .flush ∧ k = .flushRight)
      let inRun (e : Entry) : Prop := ownerId e ∈ h.members
      -- the actions of a CENTER or FLUSH run
      (h.kind ≠ .decimal →
        (k ∉ [.char, .space, .backspace, .correct, .underline, .bold, .impression, .carriageReturn] → ¬own →
          exec k.command s = .next ((t.refuse a).finish s))
        ∧ (k = .underline → exec .underline s = .next ((t.setSettings { x with underline := !x.underline }).finish s))
        ∧ (k = .bold → exec .bold s = .next ((t.setSettings { x with bold := !x.bold }).finish s))
        ∧ (k = .impression →
          exec .impression s
            = .next ((t.setSettings
                { x with impression := match a.value with
                  | none =>
                    (match x.impression with
                      | .light => .normal
                      | .normal => .heavy
                      | .heavy => .light)
                  | some v => if v = 0 then .light else if v = 1 then .normal else if v = 2 then .heavy else x.impression }).finish s))
        ∧ (k = .space → pp + sw ≤ 1600 → (pp + sw) - h.origin ≤ limit →
          exec .space s = .next ((t.setPp (pp + sw)).finish s))
        ∧ (k = .space → (1600 < pp + sw ∨ limit < (pp + sw) - h.origin) →
          exec .space s = .next ((t.refuse a).finish s)))
      -- CHAR, BACKSPACE and CORRECT in every run
      ∧ (k = .char → (h.kind = .decimal → a.code ≠ s.intake.decimal) →
        ((t.noPlace a.code = true ∨ 40 ≤ h.members.length ∨ limit < (pp + w) - h.origin) →
          exec .char s = .next ((t.refuse a).finish s))
        ∧ (t.noPlace a.code = false → h.members.length < 40 → (pp + w) - h.origin ≤ limit →
          ∃ u : State, exec .char s = .next (u.finish s)
            ∧ u.text.work = s.text.work.addAll (makeEntries s.nextId (t.placement a.code) .pending)
            ∧ u.text.pp = pp + w ∧ u.text.run = some { h with members := h.members ++ [s.nextId] }
            ∧ u.engine = s.engine))
      ∧ ((k = .backspace ∨ k = .correct) →
        (pp = h.origin → exec k.command s = .next ((t.refuse a).finish s))
        ∧ (pp ≠ h.origin → (∀ e ∈ chars, e.endPos ≠ pp) →
          ∃ p : Nat, exec k.command s = .next ((t.setPp p).finish s)
            ∧ pp - sw ≤ p ∧ h.origin ≤ p ∧ (∀ e ∈ chars, e.endPos ≤ p)
            ∧ (p = pp - sw ∨ p = h.origin ∨ ∃ e ∈ chars, e.endPos = p))
        ∧ (∀ e : Entry, pp ≠ h.origin → newest (chars.filter (fun e => decide (e.endPos = pp))) = some e →
          ∃ u : State, exec k.command s = .next (u.finish s)
            ∧ u.text.pp = e.pos ∧ u.text.find e.id = none ∧ u.text.settings = x
            ∧ u.text.run =
              some { h with members := h.members.filter (fun i => !(e.id :: s.text.companions e.id).contains i) }
            ∧ ((s.text.allEntries.map Entry.id).Nodup → ∀ y ∈ s.text.work.entries, y.id ≠ e.id → y.owner ≠ some e.id →
              ∃ y' ∈ u.text.work.entries, y' = { y with mark := y'.mark })
            ∧ ((s.text.allEntries.map Entry.id).Nodup → s.text.work.Owned → Removed s [e] u)))
      -- the end of a run
      ∧ ((own ∨ (h.kind ≠ .decimal ∧ k = .carriageReturn)
          ∨ (h.kind = .decimal ∧ (k ∉ [.char, .backspace, .correct] ∨ (k = .char ∧ a.code = s.intake.decimal)))) →
          s.engine.state ≠ .locked → s.text.feeding = [] →
        let len := pp - h.origin
        let final := match h.kind with
          | .center => max x.lm ((x.lm + x.rm) / 2 - len / 2)
          | .flush => x.rm - len
          | .decimal => max h.startPp (h.origin - len)
        let ended : State := { t with text := { s.text with run := none, pp := final + len } }
        ((∀ e ∈ s.text.work.entries, ¬inRun e) → s.text.work.Owned →
            s.text.work.entries.Pairwise (fun y z => y.pos < z.pos ∨ (y.pos = z.pos ∧ y.order < z.order)) →
          (own → exec k.command s = .next (ended.finish s))
          ∧ (¬own → ended.slotsNeeded a ≤ s.freeSlots →
            exec k.command s = .next ((ended.performPlain a false).finish s))
          ∧ (¬own → s.freeSlots < ended.slotsNeeded a →
            exec k.command s
              = .next (({ ended with
                  text :=
                    { ended.text with
                      waiting := some (.queueRoom (ended.slotsNeeded a)),
                      resume := some { action := a, stage := .afterRun } } } : State).finish s)))
        ∧ ((s.text.allEntries.map Entry.id).Nodup → s.text.work.Owned →
            (∀ e ∈ s.text.work.entries, inRun e → h.origin ≤ e.pos) →
          let place (e : Entry) : Nat := if h.members.contains e.id then final + (e.pos - h.origin) else e.pos
          let third (e : Entry) : Prop :=
            2 < (s.text.work.chars.filter (fun y => decide (place y = place e))).length
          (∃ e ∈ chars, ¬third e) →
          ∃ u : State, exec k.command s = .next (u.finish s)
            ∧ u.text.run = none ∧ u.text.pp = final + len ∧ u.text.settings = x
            ∧ u.text.waiting = some .runFeeding
            ∧ (own → u.text.resume = some { action := a, stage := .ownRun })
            ∧ (¬own → u.text.resume = some { action := a, stage := .afterRun })
            ∧ u.text.feeding = (u.text.work.entries.filter (fun e => h.members.contains (ownerId e))).map Entry.id
            ∧ (∀ e ∈ chars, ¬third e → ∃ e' ∈ u.text.work.entries, e' = { e with pos := place e, mark := e'.mark })
            ∧ (∀ e ∈ chars, ¬third e → ∀ b ∈ s.text.work.entries, b.kind = .bold → b.owner = some e.id →
              ∃ b' ∈ u.text.work.entries, b' = { b with pos := final + (b.pos - h.origin), mark := b'.mark })
            ∧ (∀ e ∈ chars, third e → ∀ y ∈ u.text.work.entries, ownerId y ≠ e.id)
            ∧ (∀ e ∈ s.text.work.entries, ¬inRun e →
              ∃ e' ∈ u.text.work.entries, e' = { e with mark := e'.mark })
            ∧ (let enters : Bool := (chars.filter (fun e =>
                 decide ((s.text.work.chars.filter (fun y => decide (place y = place e))).length ≤ 2))).any (fun e =>
                   entersBell x.rm (place e) e.width)
               u.text.bellGiven = (s.text.bellGiven || enters)
                ∧ ∀ l : LineInterface, ((∃ e ∈ chars, third e) → l = (t.refuse a).line) →
                    ((∀ e ∈ chars, ¬third e) → l = t.line) →
                  u.line = (if enters = true ∧ s.text.bellGiven = false then l.sound .bell else l)))))

/-- HELD_RUN_FEED, PRINT_LINE_FEED and ACTION_RESUME with a free slot and an engine that is not LOCKED (R12, R16, R25, R28): the next
entry's STRIKE op joins the queue and the entry is QUEUED; after the print line's last entry its RETURN op joins once; an action whose
wait has ended goes on: a waiting dispatch with the dispatch itself, a CHAR with its wrap from case 1 on, which does not ask again whether
it ends beyond RM (R42), an action that ended a run with the wait for its slots, and a waiting MODE with the change. A RETURN whose wait
with VERDICTS has ended is refused, with the armed mark and CHECK WORD, while an unknown word stands, and otherwise dispatches or waits
for the print line (R133); a waiting INDEX or REVERSE_INDEX is handled afresh (R18), and the run's own action has nothing left to do. A
wait ends when its condition of Table 1-5 holds, and not before, and with it the run's own action (R12, R25). The model's choice in these
clauses: a continued SPACE makes its word end at ACTION_RESUME (log entry 12); an action that ended a run makes none, and its run feeds
under a wait of its own kind (log entry 11); it then waits with QUEUE_ROOM for the slots that it needs as this wait begins (log entry 54);
a SPACE or a CHAR that goes on after its wait clears the armed mark in its dispatch, and not before (log entry 61); and a carried
word leaves the character room within 320 entries (log entry 44). -/
def Obligations.FeedsContinue : Prop :=
  (∀ s : State, s.live → s.supply.phase = .running → s.engine.state ≠ .locked → 1 ≤ s.freeSlots →
    let strike (e : Entry) (i : Impression) : Op :=
      { kind := .strike, target := e.pos + e.offset + (if e.kind = .bold then 1 else 0), char := e.char, impression := i,
        medium := .ribbon, advance := e.width, feed := 0, rise := e.rise, ref := some e.id, origin := .text }
    (∀ (id : Nat) (more : List Nat) (e : Entry), s.text.waiting = some .runFeeding → s.text.feeding = id :: more →
        s.text.find id = some e →
      ∃ u : State, exec .heldRunFeed s = .next (u.finish s)
        ∧ u.engine.slots = s.engine.slots ++ [strike e s.text.settings.impression]
        ∧ u.text = ({ s.text with feeding := more } : TextUnit).modify id (fun y => { y with state := .queued }))
    ∧ (∀ (p : PrintLine), s.text.print = some p →
      (∀ (e : Entry) (more : List Entry), p.record.entries.filter (fun y => decide (y.state = .pending)) = e :: more →
        ∃ u : State, exec .printLineFeed s = .next (u.finish s)
          ∧ u.engine.slots = s.engine.slots ++ [strike e p.impression]
          ∧ u.text = s.text.modify e.id (fun y => { y with state := .queued }))
      ∧ ((∀ e ∈ p.record.entries, e.state ≠ .pending) → p.returnAppended = false →
        ∃ u : State, exec .printLineFeed s = .next (u.finish s)
          ∧ u.engine.slots = s.engine.slots ++ [returnOp s.text.settings.lm p.returnFeed]
          ∧ u.text = { s.text with print := some { p with returnAppended := true } })
      ∧ ((∀ e ∈ p.record.entries, e.state ≠ .pending) → p.returnAppended = true →
        exec .printLineFeed s = .next (s.finish s)))
    ∧ (∀ r : Resume, s.text.waiting = none → s.text.resume = some r →
      let on : State := { s with text := { s.text with resume := none } }
      (r.stage = .dispatch → s.text.print = none → r.action.kind = .carriageReturn →
        exec .actionResume s = .next ((on.dispatch false []).finish s))
      ∧ (r.stage = .dispatch → s.text.print = none → r.action.kind = .space →
        exec .actionResume s = .next (((on.wordEnd s.text.pp).dispatch true []).finish s))
      ∧ (r.stage = .afterRun →
        exec .actionResume s
          = .next ((if s.freeSlots < s.slotsNeeded r.action then
              { s with
                text :=
                  { s.text with
                    waiting := some (.queueRoom (s.slotsNeeded r.action)),
                    resume := some { action := r.action, stage := .afterRun } } }
            else on.performPlain r.action false).finish s))
      ∧ (r.stage = .wrap → r.action.kind = .char → s.text.print = none →
        let x := s.text.settings
        let c := r.action.code
        let w := widthAt x.pitch s.engine.wheel c
        let fits : Prop := onWheel s.engine.wheel c = true ∧ (x.underline = true → onWheel s.engine.wheel 95 = true)
          ∧ x.lm + w ≤ x.rm
        let word := s.text.work.wordAt s.text.pp
        let ws := leastPos x.lm word
        let carries : Prop := x.lm < ws ∧ word.length < s.text.work.chars.length ∧ (s.text.pp - ws) + w ≤ x.rm - x.lm
          ∧ (s.text.work.entries.filter (fun e => (word.map Entry.id).contains (ownerId e))).length
              + entryCount w x.bold x.underline ≤ 320
        (¬fits → exec .actionResume s = .next ((on.refuse r.action).finish s))
        ∧ (fits → s.text.work.newestEndingAt s.text.pp = none →
          exec .actionResume s = .next (((on.dispatch true []).placePending c).finish s))
        ∧ (fits → s.text.work.newestEndingAt s.text.pp ≠ none → ¬carries →
          exec .actionResume s = .next ((on.refuse r.action).finish s))
        ∧ (fits → s.text.work.newestEndingAt s.text.pp ≠ none → carries →
          exec .actionResume s
            = .next ((((if continuesWord c then on else on.wordEnd s.text.pp).dispatch true word).placePending c).finish
                s)))
      ∧ (r.stage = .afresh → r.action.kind = .mode → (r.action.value = none ∨ r.action.value = some 0) →
          s.text.settings.mode = .line → s.text.work.entries = [] → s.text.run = none → s.text.print = none →
        exec .actionResume s
          = .next (({ on with
              text := { on.text with settings := { s.text.settings with mode := .direct } },
              line := s.line.askState } : State).finish s)))
    ∧ ((s.text.waiting ≠ none ∨ s.text.resume = none) → exec .actionResume s = .next (s.finish s)))
  ∧ (∀ (s : State) (r : Resume), s.live → s.supply.phase = .running → s.text.waiting = none → s.text.resume = some r →
    let on : State := { s with text := { s.text with resume := none } }
    let waits (w : Waiting) (st : ResumeStage) : State :=
      { s with text := { s.text with waiting := some w, resume := some { action := r.action, stage := st } } }
    (r.stage = .verdicts →
      let unknown : Prop := ∃ e ∈ s.text.work.entries, e.kind = .character ∧ e.mark = .unknown
      (unknown →
        exec .actionResume s
          = .next ((({ on with
              text := { on.text with armed := true }, display := s.display.post .checkWord } : State).refuse r.action).finish s))
      ∧ (¬unknown → r.action.kind = .carriageReturn →
        (s.text.print ≠ none → exec .actionResume s = .next ((waits .printLineBusy .dispatch).finish s))
        ∧ (s.text.print = none → s.engine.state ≠ .locked → exec .actionResume s = .next ((on.dispatch false []).finish s))
        ∧ (s.text.print = none → s.engine.state = .locked → exec .actionResume s = .next ((on.refuse r.action).finish s))))
    ∧ (r.stage = .ownRun → exec .actionResume s = .next (on.finish s))
    ∧ (∀ n : Int, r.stage = .afresh →
        ((r.action.kind = .index ∧ n = s.text.settings.spacing)
          ∨ (r.action.kind = .reverseIndex ∧ n = -(s.text.settings.spacing : Int))) →
      let busy : Prop := s.text.settings.mode = .line ∧ s.text.print ≠ none
      (s.engine.state = .locked → exec .actionResume s = .next ((on.refuse r.action).finish s))
      ∧ (s.engine.state ≠ .locked → busy → exec .actionResume s = .next ((waits .printLineBusy .afresh).finish s))
      ∧ (s.engine.state ≠ .locked → ¬busy → s.freeSlots = 0 →
        exec .actionResume s = .next ((waits (.queueRoom 1) .afresh).finish s))
      ∧ (s.engine.state ≠ .locked → ¬busy → 1 ≤ s.freeSlots →
        exec .actionResume s
          = .next (({ on with
              engine := { s.engine with slots := s.engine.slots ++ [feedOp n .text] },
              line := if s.engine.slots = [] ∧ s.engine.head = none then s.line.askState else s.line } : State).finish s))))
  ∧ ∀ (s old : State) (frame : Bool) (w : Waiting), s.still → s.text.waiting = some w →
    let over_ : Prop := match w with
      | .queueRoom n => n ≤ s.freeSlots
      | .runFeeding => s.text.feeding = []
      | .printLineBusy => s.text.print = none
      | .verdicts =>
        ∀ r ∈ s.spell.records, r.line = .working → r.state = .known ∨ r.state = .unknown ∨ r.state = .unchecked
      | .correction => True
    (over_ → (s.finishIn old frame).text
      = { s.text with waiting := none, resume := s.text.resume.filter (fun r => decide (r.stage ≠ .ownRun)) })
    ∧ (¬over_ → (s.finishIn old frame).text = s.text)

/-! ## Words -/

/-- A word end finds its token, the chain of letters, apostrophes and digits of the working line that ends at the word point (R118, R119).
Under spell OFF, while a held run stands or without a token it has no effect. A token that holds a digit, a shared position, or fewer than
2 or more than 24 characters between its outer apostrophes is not checked: its marks become NONE and the records that name it are dropped.
A word already recorded stands as it is (R120). Any other word is recorded, LOOKING with its letters folded, as the newest record in place
of the records that name its token, and in place of the oldest where 8 still stand (R121); where no lookup is under way that of the first
LOOKING record begins (R123). ADD_WORD puts the newest record's word into the user list in its order, writes the list and makes its records
KNOWN, which leave the wait list, make their queries orphans and have the result of a lookup discarded, and DELETE_WORD takes it out
(Section 6.7). That a word end checks the text of a held run that has ended like any other text is the model's choice in log entry 60. -/
def Obligations.WordsRecorded : Prop :=
  (∀ (s : State) (p : Nat),
    let chars := s.text.work.chars
    let token := s.text.work.tokenAt p
    let ids := token.map Entry.id
    let dropped := s.spell.without (fun r => r.entries.any (fun i => ids.contains i))
    let held (w : List Entry) : Prop := ∃ r ∈ s.spell.records, r.line = .working
      ∧ (∀ i, i ∈ r.entries ↔ i ∈ w.map Entry.id) ∧ r.letters = w.map (fun e => fold e.char)
    -- the spelling unit with the record of a word made as the newest
    let made (sp : Spelling) (w : List Entry) : Spelling :=
      let records := sp.records ++
        [{ id := s.spell.nextRecord, tag := none, line := .working, entries := w.map Entry.id,
           letters := w.map (fun e => fold e.char), state := .looking }]
      { sp with
        records := records, nextRecord := s.spell.nextRecord + 1,
        lookup := match sp.lookup with
          | some k => some k
          | none => (records.find? (fun y => decide (y.state = .looking))).map (fun y =>
              { record := some y.id, listed := s.spell.userList.contains y.letters }) }
    ((s.text.work.entries.map Entry.id).Nodup → ∀ e : Entry, e ∈ token ↔
      Chained Touching
        (fun x => x ∈ s.text.work.entries ∧ x.kind = .character ∧ (Letter x.char ∨ x.char = 39 ∨ 48 ≤ x.char ∧ x.char ≤ 57))
        (fun x => x.pos + x.width = p) e)
    ∧ ((s.text.settings.spell = .off ∨ s.text.run ≠ none
          ∨ ∀ e ∈ chars, e.endPos = p → ¬(Letter e.char ∨ e.char = 39 ∨ 48 ≤ e.char ∧ e.char ≤ 57)) → s.wordEnd p = s)
    ∧ (s.text.settings.spell ≠ .off → s.text.run = none → token ≠ [] →
      (checkedWord token = none → s.wordEnd p = { s with spell := dropped, text := s.text.setMarks ids .plain })
      ∧ (∀ w : List Entry, checkedWord token = some w →
        (held w → s.wordEnd p = s)
        ∧ (¬held w → dropped.records.length < 8 → s.wordEnd p = { s with spell := made dropped w })
        ∧ (∀ (oldest : WordRecord) (more : List WordRecord), ¬held w → dropped.records = oldest :: more → 7 ≤ more.length →
          s.wordEnd p = { s with spell := made (dropped.without (fun r => decide (r.id = oldest.id))) w }))))
  ∧ (∀ lead w trail : List Entry, (∀ e ∈ lead, e.char = 39) → (∀ e ∈ trail, e.char = 39) →
      (∀ e, w.head? = some e → e.char ≠ 39) → (∀ e, w.getLast? = some e → e.char ≠ 39) →
    let token := lead ++ w ++ trail
    let unchecked : Prop :=
      (∃ e ∈ token, 48 ≤ e.char ∧ e.char ≤ 57) ∨ ¬(token.map Entry.pos).Nodup ∨ w.length < 2 ∨ 24 < w.length
    (unchecked → checkedWord token = none) ∧ (¬unchecked → checkedWord token = some w))
  ∧ (∀ (s : State) (a : Action) (rest : List Action) (r : WordRecord), s.spell.records.getLast? = some r →
    let t := s.taken rest
    (s.plain .addWord a rest →
      (s.spell.userList.contains r.letters = true → exec .addWord s = .next (t.finish s))
      ∧ (s.spell.userList.contains r.letters = false → 128 ≤ s.spell.userList.length →
        exec .addWord s = .next (((t.refuse a).post .listFull).finish s))
      ∧ (s.spell.userList.contains r.letters = false → s.spell.userList.length < 128 → wordsInOrder s.spell.userList = true →
        ∃ (u : State) (ws : List (List Nat)), exec .addWord s = .next (u.finish s)
          ∧ u.spell.userList = ws ∧ wordsInOrder ws = true ∧ (∀ y, y ∈ ws ↔ y ∈ s.spell.userList ∨ y = r.letters)
          ∧ (s.spell.writing = none → u.spell.writing = some (encodeWords ws))
          ∧ (s.spell.writing ≠ none → u.spell.writing = s.spell.writing ∧ u.spell.writePending = true)
          ∧ u.spell.records
            = s.spell.records.map (fun y => if y.letters = r.letters then { y with state := .known } else y)
          ∧ (let named : List Nat := (s.spell.records.filter (fun y => decide (y.letters = r.letters))).map WordRecord.id
             u.spell.waitList = s.spell.waitList.filter (fun i => !named.contains i)
              ∧ u.spell.lookup
                = s.spell.lookup.map (fun k => { k with record := k.record.filter (fun i => !named.contains i) })
              ∧ u.spell.outstanding
                = s.spell.outstanding.map (fun q => { q with record := q.record.filter (fun i => !named.contains i) }))
          ∧ u.text = s.text.setMarks
            ((s.spell.records.filter (fun y => decide (y.letters = r.letters))).flatMap WordRecord.entries) .plain
          ∧ u.display = { s.display with dirty := true }))
    ∧ (s.plain .deleteWord a rest →
      (s.spell.userList.contains r.letters = false → exec .deleteWord s = .next (t.finish s))
      ∧ (s.spell.userList.contains r.letters = true →
        exec .deleteWord s
          = .next (({ t with
              spell :=
                { s.spell with
                  userList := s.spell.userList.erase r.letters,
                  writing := if s.spell.writing = none then some (encodeWords (s.spell.userList.erase r.letters))
                    else s.spell.writing,
                  writePending := s.spell.writePending || s.spell.writing.isSome } } : State).finish s))))
  ∧ (∀ (s : State) (a : Action) (rest : List Action), s.spell.records = [] →
    (s.plain .addWord a rest → exec .addWord s = .next (((s.taken rest).refuse a).finish s))
    ∧ (s.plain .deleteWord a rest → exec .deleteWord s = .next (((s.taken rest).refuse a).finish s)))

/-! ## The drive channels -/

/-- The carriage channel (R79 to R87): a PWM period loads the duty and the on-phase ends at it; an edge counts in every state, and in a
drive phase, in either direction, it steps the duty against the target period in force, computes v, P and the stall time again, from the
profile of a move, from that of a search with no remaining term, or at 300 units/s in a trim or a corrective move, and brakes at the
target; at the end of the brake a residual of 0 ends the move, one of 1 or 2 draws a trim, a greater one the corrective move once;
CARRIAGE_STALL in a drive phase begins a brake at whose end the stall is reported (R87, log entry 16), and elsewhere changes nothing; the
home sensor ends a search at count 0 and stops the homing deadline. A move that has ended takes the op in progress on (R62, R65): to its
rise or its lift, to its wheel move at levels 1 and 2, or, for a RETURN, to its feed or its completion, unless another motion of the op
still runs; the end of the 30-unit move of a homing begins the search (R68). The completion of the print line's RETURN op, once appended
the last of the queue, discards the print line, and that of an earlier RETURN op discards nothing: this reading of R1 and R28 is log entry
14. That an edge above count 0 leaves the home sensor is log entry 21, that the trip stops the deadline is log entry 47, that a RETURN with
a feed of 0 has the paper rise 0 at once is log entry 14. -/
def Obligations.CarriageDrives : Prop :=
  ∀ s : State, s.live →
    let c := s.drive.carriage
    let put (d : Carriage) : State := { s with drive := { s.drive with carriage := d } }
    exec .pwmPeriodStart s
      = .next ((put { c with loaded := c.duty, onPhase := decide (0 < c.duty ∧ c.phase = .drive) }).finish s)
    ∧ exec .pwmOnPhaseEnd s = .next ((put { c with onPhase := false }).finish s)
    ∧ (∀ (right : Bool) (i : Nat), c.phase ≠ .drive →
      let count := if right then c.count + 1 else c.count - 1
      exec (.encoderEdge right i) s
        = .next (({ put { c with count := count, capture := min i 65535 } with
            engine :=
              { s.engine with carriage := s.engine.carriage.map (fun p => if right then p + 1 else p - 1) },
            pins := { s.pins with homeTripped := s.pins.homeTripped && decide (count ≤ 0) } } : State).finish s))
    ∧ (∀ (m : CarriageMove) (right : Bool) (i : Nat), c.phase = .drive → c.move = some m → 0 ≤ c.period → i ≤ 65535 →
      let count := if right then c.count + 1 else c.count - 1
      let travelled := if right = m.rightward then m.travelled + 1 else m.travelled - 1
      let remaining := if m.rightward then m.target - count else count - m.target
      let rises : Int := min (m.cruise : Int) (300 + 40 * travelled)
      let v : Int :=
        if m.leg ≠ .profile then 300 else if m.kind = .search then rises else min rises (300 + 40 * remaining)
      let period : Int := 1000000 / v
      let duty := max 8 (min 60
        (if c.period * 17 / 16 < i then c.duty + 1 else if (i : Int) < c.period * 15 / 16 then c.duty - 1 else c.duty))
      let arrives : Prop := count = m.target ∧ ¬(m.kind = .search ∧ m.leg = .profile)
      0 < v →
      ∃ u : State, exec (.encoderEdge right i) s = .next (u.finish s)
        ∧ u.drive =
          { s.drive with
            carriage :=
              { c with
                count := count, capture := i, move := some { m with travelled := travelled }, duty := duty,
                period := period, watch := (max 5000 (3 * period)).toNat,
                phase := if arrives then .brake .check else .drive,
                onPhase := if arrives then false else c.onPhase } }
        ∧ u.engine =
          { s.engine with carriage := s.engine.carriage.map (fun p => if right then p + 1 else p - 1) }
        ∧ u.pins = { s.pins with homeTripped := s.pins.homeTripped && decide (count ≤ 0) } ∧ u.text = s.text)
    ∧ (c.phase = .drive →
      exec .carriageStall s = .next ((put { c with phase := .brake .stall, onPhase := false }).finish s))
    ∧ (c.phase ≠ .drive → exec .carriageStall s = .next (s.finish s))
    ∧ (∀ m : CarriageMove, c.phase = .brake .check → c.move = some m →
      let away := (m.target - c.count).natAbs
      let again (leg : Leg) (duty : Nat) : State :=
        put (c.beginDrive
          { m with
            rightward := decide (c.count < m.target), travelled := 0, leg := leg,
            overshot := m.overshot || decide (leg = .corrective) } duty)
      (away = 1 ∨ away = 2 → exec .carriageBrakeEnd s = .next ((again .trim 8).finish s))
      ∧ (2 < away → m.overshot = false → exec .carriageBrakeEnd s = .next ((again .corrective 40).finish s))
      ∧ (2 < away → m.overshot = true → s.engine.homing = none →
        ∃ u : State, exec .carriageBrakeEnd s = .next (u.finish s)
          ∧ u.engine.state = .halted ∧ u.engine.fault = .carriageStall ∧ u.drive.carriage.phase = .idle)
      ∧ (away = 0 → m.kind = .search →
        ∃ u : State, exec .carriageBrakeEnd s = .next (u.finish s)
          ∧ u.engine.carriage = some 0 ∧ u.drive.homingDeadline = none ∧ u.drive.carriage.phase = .idle
          ∧ u.engine.homing = s.engine.homing.map (fun h => { h with phase := .wheelDue }))
      ∧ (away = 0 → m.kind ≠ .search → s.engine.homing = none → s.engine.head = none →
        exec .carriageBrakeEnd s
          = .next (({ s with
              drive :=
                { s.drive with
                  carriage := { c with phase := .idle, move := none, onPhase := false }, carriageDeadline := none },
              engine := { s.engine with restMove := false } } : State).finish s))
      ∧ (∀ h : Homing, away = 0 → m.kind ≠ .search → s.engine.homing = some h → h.phase = .clearing →
        exec .carriageBrakeEnd s
          = .next (({ s with
              drive :=
                { s.drive with
                  carriage :=
                    { c with
                      phase := .drive, duty := 40, period := 3333, watch := 9999, count := 0, capture := 0,
                      onPhase := false,
                      move :=
                        some { kind := .search, target := 0, cruise := 600, rightward := false, travelled := 0,
                               leg := .profile, overshot := false } } },
              engine := { s.engine with homing := some { h with phase := .searching } } } : State).finish s))
      ∧ (∀ (o : Op) (p : Progress), away = 0 → m.kind ≠ .search → s.engine.homing = none → s.engine.head = some o →
          s.engine.progress = some p →
        let d : Drive :=
          { s.drive with
            carriage := { c with phase := .idle, move := none, onPhase := false }, carriageDeadline := none }
        let gives (st : Stage) (d : Drive) : Prop :=
          exec .carriageBrakeEnd s
            = .next (({ s with drive := d, engine := { s.engine with progress := some { p with stage := st } } }
                : State).finish s)
        let fed (n : Int) : Drive := { d with feed := .feeding (decide (0 ≤ n)) (12 * n.natAbs) 1 }
        let goesOn : Prop :=
          (o.rise ≠ s.engine.paperRise → s.drive.feed = .idle → gives .rise (fed (o.rise - s.engine.paperRise)))
          ∧ (o.rise = s.engine.paperRise → s.drive.lift o.medium = .released →
            gives .lift
              { d with
                ribbonLift := if o.medium = .ribbon then .pulling else .released,
                tapeLift := if o.medium = .tape then .pulling else .released })
        let closes (q : PrintLine) : Bool :=
          q.returnAppended && !s.engine.slots.any (fun y => decide (y.kind = .carriageReturn))
        let completes (rise : Int) : Prop :=
          ∃ u : State, exec .carriageBrakeEnd s = .next (u.finish s) ∧ u.drive = d
            ∧ u.engine =
              { s.engine with
                head := none, progress := none, paperRise := rise,
                slots := s.engine.slots.map (Op.forget (match s.text.print with
                  | some q => if closes q then q.record.entries.map Entry.id else []
                  | none => [])),
                state := if s.engine.holds.any then .held else .ready }
            ∧ (∀ q, s.text.print = some q → closes q = true → u.text = { s.text with print := none })
            ∧ ((∀ q, s.text.print = some q → closes q = false) → u.text = s.text)
        (p.stage = .moves true true → gives (.moves false true) d)
        ∧ (p.stage = .moves true false → goesOn)
        ∧ (∀ petal : Nat, p.stage = .carriageFirst → s.engine.petal = some petal → petal < 96 → p.petal < 96 →
          (petal = p.petal → goesOn)
          ∧ (petal ≠ p.petal → s.drive.wheel = .idle → 1 ≤ p.level → p.level ≤ 2 →
            let n := (p.petal + 96 - petal) % 96
            let back := if n ≤ 48 then n else 96 - n
            let speed := if p.level = 2 then 360 else 240
            gives (.moves false true)
              { d with
                wheel := .moving (decide (n ≤ 48)) back speed 1,
                wheelDeadline := some (4 * (back * 1000 / speed + 80)) }))
        ∧ (p.stage = .returning true true → gives (.returning false true) d)
        ∧ (p.stage = .returning true false → o.kind = .carriageReturn → s.engine.state = .running →
          completes s.engine.paperRise)
        ∧ (p.stage = .returnCarriageFirst → o.kind = .carriageReturn →
          (o.feed ≠ 0 → s.drive.feed = .idle → gives (.returning false true) (fed o.feed))
          ∧ (o.feed = 0 → s.engine.state = .running → completes 0))))
    ∧ (c.phase = .brake .silent →
      exec .carriageBrakeEnd s = .next ((put { c with phase := .idle, move := none, onPhase := false }).finish s))
    ∧ (∀ m : CarriageMove, c.phase = .drive → c.move = some m → m.kind = .search → m.leg = .profile →
      exec .homeSensorTrip s
        = .next (({ s with
            drive :=
              { s.drive with
                carriage := { c with count := 0, phase := .brake .check, onPhase := false }, homingDeadline := none },
            pins := { s.pins with homeTripped := true } } : State).finish s))
    ∧ ((c.phase ≠ .drive ∨ c.move.any (fun m => decide (m.kind ≠ .search) || decide (m.leg ≠ .profile)) = true) →
      exec .homeSensorTrip s = .next (({ s with pins := { s.pins with homeTripped := true } } : State).finish s))

/-- The end of a stall's brake and a second overshoot at CARRIAGE_BRAKE_END, DEADLINE_EXPIRY and FLAG_NOT_FOUND raise a fault (R72, R75,
R83, R87, R89, R92, R93): the carriage is IDLE after a brake that has ended and is stopped otherwise, the wheel stops, the lifts are
released, the deadlines stop, position and petal are unknown, and the engine is HALTED with the op in progress put back in the head place,
a RETURN whose feed has ended with a feed of 0; in a homing that CLEAR began it is LOCKED with its queue empty. The line interface is asked
for a STATE where the fault code, the queue's empty mark or the state changes, and for ALARM at the fault and at LOCKED, between which a
run that was feeding has the action that ended it refused (R25, R59). At LOCKED the working line loses each QUEUED entry that an op of the
queue refers to and each entry that a feeding run had left, an owner with its companions; a LIFTING entry of an op returns to PRINTED, the
other entries stand, and the print line is discarded (R4, R75). That the stop of a fault withholds the report of a stall whose brake still
runs is the model's choice in log entry 16. -/
def Obligations.FaultsHalt : Prop :=
  ∀ (s : State) (c : Instr) (code : FaultCode), s.live → (s.engine.head = none → s.engine.progress = none) →
      ((c = .carriageBrakeEnd ∧ code = .carriageStall
            ∧ (s.drive.carriage.phase = .brake .stall
              ∨ (s.drive.carriage.phase = .brake .check ∧ ∃ m, s.drive.carriage.move = some m ∧ m.overshot = true
                ∧ 2 < (m.target - s.drive.carriage.count).natAbs)))
        ∨ (∃ t, c = .deadlineExpiry t ∧ s.drive.deadline t ≠ none
            ∧ code = (if t = .wheel then .wheelLost else .carriageStall))
        ∨ (c = .flagNotFound ∧ (∃ bits, s.drive.wheel = .searching 768 bits ∧ bits.length < 4) ∧ code = .wheelLost)) →
    let asked (b : Bool) (l : LineInterface) : LineInterface := if b then l.askState else l
    let faulted : LineInterface := (asked (decide (s.engine.fault ≠ code)) s.line).sound .alarm
    ∃ u : State, exec c s = .next (u.finish s)
      ∧ u.drive.carriage = (if c = .carriageBrakeEnd then
          { s.drive.carriage with phase := .idle, move := none, onPhase := false } else s.drive.carriage.stop)
      ∧ u.drive.wheel = .idle ∧ u.drive.carriageDeadline = none
      ∧ u.drive.wheelDeadline = none ∧ u.drive.homingDeadline = none
      ∧ (s.drive.hammer.isPulse = false → u.drive.ribbonLift = .released ∧ u.drive.tapeLift = .released)
      ∧ u.engine.fault = code ∧ u.engine.carriage = none ∧ u.engine.petal = none ∧ u.engine.progress = none ∧ u.engine.homing = none
      ∧ u.text.settings = s.text.settings ∧ u.intake = s.intake
      ∧ u.engine.startHomed = (s.engine.startHomed || s.engine.homing.any (fun h => decide (h.kind = .start)))
      ∧ ((∀ h, s.engine.homing = some h → h.kind ≠ .clear) →
        u.engine.state = .halted ∧ u.engine.slots = s.engine.slots ∧ u.text = s.text ∧ u.corr = s.corr
          ∧ u.line = asked (decide (s.engine.state ≠ .halted)) faulted
          ∧ u.display = s.display.post (if code = .wheelLost then .wheel else .stall)
          ∧ u.engine.head =
            (match s.engine.head, s.engine.progress with
              | some o, some p =>
                some (if o.kind = .carriageReturn ∧ (p.stage = .returning true false ∨ p.stage = .returning false false)
                  then { o with feed := 0 } else o)
              | h, _ => h)
          ∧ u.engine.lateFeed =
            (s.engine.lateFeed || s.engine.progress.any (fun p =>
              decide (p.stage = .returning true true) || decide (p.stage = .returning false true))))
      ∧ (∀ h, s.engine.homing = some h → h.kind = .clear →
        u.engine.state = .locked ∧ u.engine.slots = [] ∧ u.engine.head = none ∧ u.corr = State.reset.corr
          ∧ u.text.print = none
          ∧ u.display = (s.display.post (if code = .wheelLost then .wheel else .stall)).post .locked
          ∧ (let emptied := asked (decide (s.engine.slots ≠ [] ∨ s.engine.head ≠ none)) faulted
             let refused := if s.text.waiting = some .runFeeding ∧ (∃ r, s.text.resume = some r ∧ r.action.source = .keyboard) then
               emptied.sound .click else emptied
             u.line = asked (decide (s.engine.state ≠ .locked)) (refused.sound .alarm))
          ∧ ((s.text.allEntries.map Entry.id).Nodup → s.text.work.Owned →
            let named (e : Entry) : Bool := (s.engine.head.toList ++ s.engine.slots).any (fun o => decide (o.ref = some e.id))
            let gone (e : Entry) : Prop := (named e = true ∧ e.state = .queued)
              ∨ (s.text.waiting = some .runFeeding ∧ e.id ∈ s.text.feeding)
            let taken (e : Entry) : Prop := gone e
              ∨ ∃ o ∈ s.text.allEntries, gone o ∧ o.kind = .character ∧ e.owner = some o.id
            (∀ e ∈ s.text.work.entries, taken e → ∀ y ∈ u.text.work.entries, y.id ≠ e.id)
              ∧ (∀ e ∈ s.text.work.entries, ¬taken e → ∃ y ∈ u.text.work.entries,
                y = { e with
                  state := if e.state = .lifting ∧ named e = true then .printed else e.state, mark := y.mark })
              ∧ ∀ y ∈ u.text.work.entries, ∃ e ∈ s.text.work.entries, e.id = y.id))

/-- The pacers (R62, R64, R65, R69, R72, R88 to R90): a step interval issues the next step, a home search reading the flag's bits;
the end of a wheel move, of a feed or of an advance takes the op in progress to its next step or completes it: a rise feed gives the
paper the op's rise and leads to the lift, and a restoring feed of a correction's closing counts down to its end (R109); a text
strike leaves its entry PRINTED, a tape strike takes its entry out, with pp moving for an owner alone (R107), and a strike without a
reference changes no entry (R4); the completion of the print line's RETURN op discards the print line, and that of an earlier one
nothing, as log entry 14 reads R1 and R28; the home flag mounts its code, sets or clears WHEEL, and ends the homing. That the flag and the
code bit are read at the end of each step interval, and that a step without the flag discards a part read, is log entry 27. -/
def Obligations.PacersReport : Prop :=
  ∀ s : State, s.live →
    let idleState (h : Holds) : EngineState :=
      if h.cover || h.ribbon || h.wheel || h.low || h.heat then .held else .ready
    (∀ (fwd : Bool) (n cruise k : Nat) (f b : Bool), s.drive.wheel = .moving fwd n cruise k → k < 4 * n →
      exec (.stepIntervalEnd .wheel f b) s
        = .next (({ s with drive := { s.drive with wheel := .moving fwd n cruise (k + 1) } } : State).finish s))
    ∧ (∀ (k : Nat) (bits : List Bool) (f b : Bool), s.drive.wheel = .searching k bits → k < 768 → bits.length < 4 →
      exec (.stepIntervalEnd .wheel f b) s
        = .next (({ s with
            drive := { s.drive with wheel := .searching (k + 1) (if f then bits ++ [b] else []) } } : State).finish s))
    ∧ (∀ (fwd : Bool) (n k : Nat) (f b : Bool), s.drive.feed = .feeding fwd n k → k < n →
      exec (.stepIntervalEnd .feed f b) s
        = .next (({ s with drive := { s.drive with feed := .feeding fwd n (k + 1) } } : State).finish s))
    ∧ (∀ (out : Lift) (n k : Nat) (f b : Bool), s.drive.ribbon = .advancing out n k → k < n →
      exec (.stepIntervalEnd .ribbon f b) s
        = .next (({ s with drive := { s.drive with ribbon := .advancing out n (k + 1) } } : State).finish s))
    ∧ (∀ (o : Op) (p : Progress) (fwd : Bool) (n cruise : Nat), s.drive.wheel = .moving fwd n cruise (4 * n) →
        s.engine.head = some o → s.engine.progress = some p →
      let at_ (st : Stage) : Engine := { s.engine with petal := some p.petal, progress := some { p with stage := st } }
      (p.stage = .moves true true →
        exec .wheelMoveEnded s
          = .next (({ s with
              drive := { s.drive with wheel := .idle, wheelDeadline := none }, engine := at_ (.moves true false) }
              : State).finish s))
      ∧ (p.stage = .moves false true → o.rise ≠ s.engine.paperRise → s.drive.feed = .idle →
        exec .wheelMoveEnded s
          = .next (({ s with
              drive :=
                { s.drive with
                  wheel := .idle, wheelDeadline := none,
                  feed := .feeding (decide (0 ≤ o.rise - s.engine.paperRise)) (12 * (o.rise - s.engine.paperRise).natAbs) 1 },
              engine := at_ .rise } : State).finish s))
      ∧ (p.stage = .moves false true → o.rise = s.engine.paperRise → s.drive.lift o.medium = .released →
        exec .wheelMoveEnded s
          = .next (({ s with
              drive :=
                { s.drive with
                  wheel := .idle, wheelDeadline := none,
                  ribbonLift := if o.medium = .ribbon then .pulling else .released,
                  tapeLift := if o.medium = .tape then .pulling else .released },
              engine := at_ .lift } : State).finish s)))
    ∧ (∀ (k : Nat) (b3 b2 b1 b0 : Bool), s.drive.wheel = .searching k [b3, b2, b1, b0] →
      let code := 8 * b3.toNat + 4 * b2.toNat + 2 * b1.toNat + b0.toNat
      let x := s.text.settings
      ∃ u : State, exec .wheelHomeFound s = .next (u.finish s)
        ∧ u.drive = { s.drive with wheel := .idle, wheelDeadline := none }
        ∧ u.engine.petal = some 0 ∧ u.engine.wheel = some code ∧ u.engine.homing = none
        ∧ u.engine.startHomed = (s.engine.startHomed || s.engine.homing.any (fun h => decide (h.kind = .start)))
        ∧ u.engine.holds = { s.engine.holds with wheel := decide (12 ≤ code) } ∧ u.engine.state = idleState u.engine.holds
        ∧ u.text =
          { s.text with
            previousWheel := some code,
            settings :=
              { x with pitch := match nativePitch code with
                | none => x.pitch
                | some native =>
                  if s.text.previousWheel = some code ∧ ¬(x.pitch = .ps ∧ native ≠ .ps) then x.pitch else native } }
        ∧ (12 ≤ code → u.display = s.display.post .wheel)
        ∧ (code < 12 → s.engine.fault ≠ .wheelLost → u.display = s.display.unpost .wheel)
        ∧ (code < 12 ↔ nativePitch code ≠ none))
    ∧ (∀ (o : Op) (p : Progress) (fwd : Bool) (n : Nat), s.drive.feed = .feeding fwd n n → s.engine.head = some o →
        s.engine.progress = some p → s.engine.lateFeed = false → s.engine.state = .running →
      (p.stage = .feeding → o.kind = .feed → o.origin = .text →
        ∃ u : State, exec .feedEnded s = .next (u.finish s)
          ∧ u.drive = { s.drive with feed := .idle }
          ∧ u.engine =
            { s.engine with
              head := none, progress := none, state := idleState s.engine.holds,
              paperRise := if o.feed = 1 ∨ o.feed = -1 then s.engine.paperRise + o.feed else s.engine.paperRise }
          ∧ u.text = s.text)
      ∧ (p.stage = .feeding → o.kind = .feed → o.origin = .correction → s.corr.closingMark = true →
        ∃ u : State, exec .feedEnded s = .next (u.finish s)
          ∧ u.drive = { s.drive with feed := .idle }
          ∧ u.corr =
            (if s.corr.closingFeeds ≤ 1 then State.reset.corr
              else { s.corr with closingFeeds := s.corr.closingFeeds - 1 })
          ∧ u.engine =
            { s.engine with
              head := none, progress := none, state := idleState s.engine.holds,
              paperRise := if o.feed = 1 ∨ o.feed = -1 then s.engine.paperRise + o.feed else s.engine.paperRise }
          ∧ u.text = s.text)
      ∧ (p.stage = .rise → s.drive.lift o.medium = .released →
        exec .feedEnded s
          = .next (({ s with
              drive :=
                { s.drive with
                  feed := .idle, ribbonLift := if o.medium = .ribbon then .pulling else .released,
                  tapeLift := if o.medium = .tape then .pulling else .released },
              engine := { s.engine with paperRise := o.rise, progress := some { p with stage := .lift } } }
              : State).finish s))
      ∧ (p.stage = .returning false true → o.kind = .carriageReturn →
        ∃ u : State, exec .feedEnded s = .next (u.finish s)
          ∧ u.engine.paperRise = 0 ∧ u.engine.head = none ∧ u.engine.progress = none
          ∧ u.engine.state = idleState s.engine.holds
          ∧ (let closes (q : PrintLine) : Bool :=
               q.returnAppended && !s.engine.slots.any (fun y => decide (y.kind = .carriageReturn))
             (∀ q, s.text.print = some q → closes q = true → u.text = { s.text with print := none })
              ∧ ((∀ q, s.text.print = some q → closes q = false) → u.text = s.text)))
      ∧ (p.stage = .returning true true →
        exec .feedEnded s
          = .next (({ s with
              drive := { s.drive with feed := .idle },
              engine :=
                { s.engine with paperRise := 0, progress := some { p with stage := .returning true false } } }
              : State).finish s)))
    ∧ (∀ (fwd : Bool) (n : Nat), s.drive.feed = .feeding fwd n n → s.engine.lateFeed = true →
      exec .feedEnded s
        = .next (({ s with
            drive := { s.drive with feed := .idle },
            engine :=
              { s.engine with
                paperRise := 0, lateFeed := false,
                head := s.engine.head.map (fun o => if o.kind = .carriageReturn then { o with feed := 0 } else o) } }
            : State).finish s))
    ∧ (∀ (o : Op) (p : Progress) (out : Lift) (n id : Nat) (e : Entry), s.drive.ribbon = .advancing out n n →
        s.engine.head = some o → s.engine.progress = some p → p.stage = .advance → o.kind = .strike →
        s.engine.state = .running → o.ref = some id → s.text.find id = some e →
      (o.origin = .text → e.state = .queued →
        ∃ u : State, exec .advanceEnded s = .next (u.finish s)
          ∧ u.text = s.text.modify id (fun y => { y with state := .printed, wheel := s.engine.wheel })
          ∧ u.drive = { s.drive with ribbon := .idle }
          ∧ u.engine =
            { s.engine with head := none, progress := none, state := idleState s.engine.holds })
      ∧ (o.origin = .correction → e.state = .lifting → e.kind = .character → s.corr.lifting = true →
        ∃ u : State, exec .advanceEnded s = .next (u.finish s)
          ∧ u.text.pp = e.pos ∧ u.text.find e.id = none ∧ u.engine.head = none ∧ u.engine.progress = none
          ∧ (∀ i ∈ s.text.companions e.id, u.text.find i = none)
          ∧ u.corr.items = s.corr.items.filter (fun i => decide (i.owner ≠ e.id)))
      ∧ (o.origin = .correction → e.state = .lifting → e.kind ≠ .character →
        ∃ u : State, exec .advanceEnded s = .next (u.finish s)
          ∧ u.text.find id = none ∧ (∀ i, i ≠ id → u.text.find i = s.text.find i) ∧ u.text.pp = s.text.pp
          ∧ u.text.settings = s.text.settings ∧ u.corr = s.corr
          ∧ u.drive = { s.drive with ribbon := .idle } ∧ u.engine.head = none ∧ u.engine.progress = none
          ∧ u.engine.state = idleState s.engine.holds ∧ u.engine.slots = s.engine.slots.map (Op.forget [id])))
    ∧ (∀ (o : Op) (p : Progress) (out : Lift) (n : Nat), s.drive.ribbon = .advancing out n n → s.engine.head = some o →
        s.engine.progress = some p → p.stage = .advance → o.kind = .strike → s.engine.state = .running → o.ref = none →
      ∃ u : State, exec .advanceEnded s = .next (u.finish s)
        ∧ u.text = s.text ∧ u.corr = s.corr ∧ u.drive = { s.drive with ribbon := .idle }
        ∧ u.engine = { s.engine with head := none, progress := none, state := idleState s.engine.holds })

/-- The end of a strike (R60, R62, R63, R77, R78, R91, R199, Table 3-3): a drawn lift leads to the wait for the minimum strike interval or
to the pulse, which an armed hammer makes with its heat; after the pulse the settle, after the settle the released lift and the advance of
the medium. The solenoid of a lift is at full drive for the 12 ms of its pull-in, is held at 1/3 duty (ribbon) or 1/2 duty (tape) with a
period of 100 µs once drawn, and is not driven once released (R91). A hammer that is not armed faults. That the interval is judged by the
time base as it was last read is log entry 3, and that an op whose region is HOT waits for the WARM figure is log entry 35. -/
def Obligations.HammerStrikes : Prop :=
  ∀ s : State, s.live →
    let interval (p : Progress) : Nat :=
      (if p.level = 4 then 66 else if p.level = 3 then 80 else if p.level = 2 then 100 else 133)
        * (if p.region = .cool then 1 else 2)
    let due (p : Progress) : Nat := match s.engine.lastPulse with
      | some t => t + 1000 * interval p
      | none => 0
    let armed (d : Drive) : Prop := d.hammer = .idle ∧ d.carriage.phase = .idle ∧ d.wheel = .idle
      ∧ ((d.ribbonLift = .drawn ∧ d.tapeLift ≠ .drawn) ∨ (d.ribbonLift ≠ .drawn ∧ d.tapeLift = .drawn))
    let fires (c : Instr) (o : Op) (p : Progress) (d : Drive) (time : Nat) : Prop :=
      ∃ u : State, exec c s = .next (u.finish s)
        ∧ u.clock = time ∧ u.drive = { d with hammer := .pulse p.width } ∧ u.engine.lastPulse = some time
        ∧ u.engine.head = some o ∧ u.engine.progress = some { p with stage := .pulse }
        ∧ u.supply.heat = min 4095 (s.supply.heat + p.width / 50) ∧ u.text = s.text
    (∀ (l : Lift) (time : Nat), s.drive.lift l = .pulling →
      let d := s.drive.setLift l .drawn
      let now := max s.clock time
      (s.drive.liftOutput l = .full 12 ∧ d.liftOutput l = (if l = .ribbon then .hold 3 100 else .hold 2 100)
        ∧ (∀ k, k ≠ l → d.liftOutput k = s.drive.liftOutput k) ∧ (d.setLift l .released).liftOutput l = .off)
      ∧ (s.engine.progress = none →
        exec (.liftDrawn l time) s = .next (({ s with clock := now, drive := d } : State).finish s))
      ∧ (∀ (o : Op) (p : Progress), s.engine.head = some o → s.engine.progress = some p → p.stage = .lift → o.medium = l →
        (now < due p →
          exec (.liftDrawn l time) s
            = .next (({ s with
                clock := now, drive := d, engine := { s.engine with progress := some { p with stage := .interval } } }
                : State).finish s))
        ∧ (due p ≤ now → armed d → fires (.liftDrawn l time) o p d now)
        ∧ (due p ≤ now → ¬armed d → s.engine.homing = none →
          ∃ u : State, exec (.liftDrawn l time) s = .next (u.finish s) ∧ u.engine.state = .halted
            ∧ u.engine.fault = .carriageStall)))
    ∧ (∀ (o : Op) (p : Progress), s.engine.head = some o → s.engine.progress = some p → p.stage = .interval →
      (armed s.drive → fires .strikeIntervalEnd o p s.drive (max s.clock (due p)))
      ∧ (¬armed s.drive → s.engine.homing = none →
        ∃ u : State, exec .strikeIntervalEnd s = .next (u.finish s) ∧ u.engine.state = .halted
          ∧ u.engine.fault = .carriageStall))
    ∧ (∀ (w : Nat) (o : Op) (p : Progress), s.drive.hammer = .pulse w → s.engine.head = some o → s.engine.progress = some p →
      (s.supply.phase = .running → s.drive.releaseDue = false →
        exec .pulseEnd s
          = .next (({ s with
              drive := { s.drive with hammer := .settle },
              engine := { s.engine with progress := some { p with stage := .settle } } } : State).finish s))
      ∧ (s.supply.phase = .saving → s.engine.state = .down → s.drive.releaseDue = true → s.supply.saveBegun = false →
          s.spell.writing = none →
        ∃ u : State, exec .pulseEnd s = .next (u.finish s)
          ∧ u.drive = { s.drive with hammer := .idle, ribbonLift := .released, tapeLift := .released, releaseDue := false }
          ∧ u.engine.head = none ∧ u.engine.state = .down ∧ u.supply.saveBegun = true))
    ∧ (∀ (o : Op) (p : Progress), s.drive.hammer = .settle → s.engine.head = some o → s.engine.progress = some p →
        p.stage = .settle → s.drive.ribbon = .idle →
      exec .settleEnd s
        = .next (({ s with
            drive :=
              { s.drive with
                hammer := .idle, ribbonLift := .released, tapeLift := .released, releaseDue := false,
                ribbon := .advancing o.medium (if o.medium = .tape then 3 else (o.advance + 1) / 2) 1 },
            engine := { s.engine with progress := some { p with stage := .advance } } } : State).finish s))

/-- The cover, the ribbon-end and the tape-end reports (R56 to R58, R71): each sets or clears its hold reason, which decides between
READY and HELD and changes no other state, and its message; a STATE is asked for where a hold reason changes and where the state
changes (R59); an opening stops a homing, which then begins again, a wheel that is stopped with its petal unknown (R89), and a
closing sets the re-home mark but in LOCKED and DOWN. A homing that an opening interrupted serves the mark as it begins again, and one
that has waited for the cover from its start (R68) keeps it until its wheel phase. -/
def Obligations.SensorsHold : Prop :=
  ∀ s : State, s.live →
    let state (h : Holds) : EngineState :=
      if s.engine.state = .ready ∨ s.engine.state = .held then
        (if h.cover || h.ribbon || h.wheel || h.low || h.heat then .held else .ready)
      else s.engine.state
    let told (h : Holds) : LineInterface :=
      let l := if h = s.engine.holds then s.line else s.line.askState
      if state h = s.engine.state then l else l.askState
    let gives (c : Instr) (h : Holds) (d : Display) (pins : Pins) (rehome : Bool) : Prop :=
      exec c s
        = .next (({ s with
            engine := { s.engine with holds := h, state := state h, rehome := rehome }, display := d, pins := pins,
            line := told h } : State).finish s)
    let h := s.engine.holds
    (s.pins.coverOpen = false → s.engine.homing = none →
      gives .coverOpen { h with cover := true } (s.display.post .cover) { s.pins with coverOpen := true } s.engine.rehome)
    ∧ (∀ m : Homing, s.pins.coverOpen = false → s.engine.homing = some m →
      ∃ u : State, exec .coverOpen s = .next (u.finish s)
        ∧ u.engine.holds = { h with cover := true } ∧ u.engine.state = state { h with cover := true }
        ∧ u.line = told { h with cover := true } ∧ u.display = s.display.post .cover
        ∧ u.drive.carriage = s.drive.carriage.stop ∧ u.drive.wheel = .idle
        ∧ u.drive.carriageDeadline = none ∧ u.drive.wheelDeadline = none ∧ u.drive.homingDeadline = none
        ∧ u.engine.petal = (if s.drive.wheel = .idle then s.engine.petal else none)
        ∧ u.engine.homing =
          some { m with phase := if m.kind = .wheelOnly then .wheelDue else .carriageDue, interrupted := true })
    ∧ (s.pins.coverOpen = true → (∀ m, s.engine.homing = some m → m.interrupted = false) →
      gives .coverClosed { h with cover := false } (s.display.unpost .cover) { s.pins with coverOpen := false }
        (s.engine.rehome || !(s.engine.state = .locked || s.engine.state = .down)))
    ∧ (∀ m : Homing, s.pins.coverOpen = true → s.engine.homing = some m → m.interrupted = true →
      exec .coverClosed s
        = .next (({ s with
            engine :=
              { s.engine with
                holds := { h with cover := false }, state := state { h with cover := false }, rehome := false,
                homing := some { m with interrupted := false } },
            display := s.display.unpost .cover, pins := { s.pins with coverOpen := false },
            line := told { h with cover := false } } : State).finish s))
    ∧ gives .ribbonSpent { h with ribbon := true } (s.display.post .ribbon) { s.pins with ribbonSpent := true } s.engine.rehome
    ∧ gives .ribbonPresent { h with ribbon := false } (s.display.unpost .ribbon) { s.pins with ribbonSpent := false }
        s.engine.rehome
    ∧ (∀ spent : Bool,
      exec (.tapeEndReport spent) s
        = .next (({ s with
            engine := { s.engine with tapeSpent := spent }, pins := { s.pins with tapeSpent := spent } } : State).finish s))
end

