-- ==== Sys2Proof/Laws/State.lean ====
section
/-! SUPPORT. One lemma for each field under each of the small updates of the state, so that no proof unfolds a record
update. -/

namespace Sys2Proof.Machine

/-! ## State.askState -/

@[simp] theorem State.askState_pending (s : State) : (s.askState).pending = s.pending := rfl
@[simp] theorem State.askState_clock (s : State) : (s.askState).clock = s.clock := rfl
@[simp] theorem State.askState_nextId (s : State) : (s.askState).nextId = s.nextId := rfl
@[simp] theorem State.askState_powered (s : State) : (s.askState).powered = s.powered := rfl
@[simp] theorem State.askState_restartHeld (s : State) : (s.askState).restartHeld = s.restartHeld := rfl
@[simp] theorem State.askState_pins (s : State) : (s.askState).pins = s.pins := rfl
@[simp] theorem State.askState_text (s : State) : (s.askState).text = s.text := rfl
@[simp] theorem State.askState_intake (s : State) : (s.askState).intake = s.intake := rfl
@[simp] theorem State.askState_engine (s : State) : (s.askState).engine = s.engine := rfl
@[simp] theorem State.askState_drive (s : State) : (s.askState).drive = s.drive := rfl
@[simp] theorem State.askState_corr (s : State) : (s.askState).corr = s.corr := rfl
@[simp] theorem State.askState_spell (s : State) : (s.askState).spell = s.spell := rfl
@[simp] theorem State.askState_display (s : State) : (s.askState).display = s.display := rfl
@[simp] theorem State.askState_supply (s : State) : (s.askState).supply = s.supply := rfl
@[simp] theorem State.askState_line (s : State) : (s.askState).line = s.line.askState := rfl
@[simp] theorem State.askState_retained (s : State) : (s.askState).retained = s.retained := rfl

/-! ## State.sound -/

@[simp] theorem State.sound_pending (s : State) (p : Sound) : (s.sound p).pending = s.pending := rfl
@[simp] theorem State.sound_clock (s : State) (p : Sound) : (s.sound p).clock = s.clock := rfl
@[simp] theorem State.sound_nextId (s : State) (p : Sound) : (s.sound p).nextId = s.nextId := rfl
@[simp] theorem State.sound_powered (s : State) (p : Sound) : (s.sound p).powered = s.powered := rfl
@[simp] theorem State.sound_restartHeld (s : State) (p : Sound) : (s.sound p).restartHeld = s.restartHeld := rfl
@[simp] theorem State.sound_pins (s : State) (p : Sound) : (s.sound p).pins = s.pins := rfl
@[simp] theorem State.sound_text (s : State) (p : Sound) : (s.sound p).text = s.text := rfl
@[simp] theorem State.sound_intake (s : State) (p : Sound) : (s.sound p).intake = s.intake := rfl
@[simp] theorem State.sound_engine (s : State) (p : Sound) : (s.sound p).engine = s.engine := rfl
@[simp] theorem State.sound_drive (s : State) (p : Sound) : (s.sound p).drive = s.drive := rfl
@[simp] theorem State.sound_corr (s : State) (p : Sound) : (s.sound p).corr = s.corr := rfl
@[simp] theorem State.sound_spell (s : State) (p : Sound) : (s.sound p).spell = s.spell := rfl
@[simp] theorem State.sound_display (s : State) (p : Sound) : (s.sound p).display = s.display := rfl
@[simp] theorem State.sound_supply (s : State) (p : Sound) : (s.sound p).supply = s.supply := rfl
@[simp] theorem State.sound_line (s : State) (p : Sound) : (s.sound p).line = s.line.sound p := rfl
@[simp] theorem State.sound_retained (s : State) (p : Sound) : (s.sound p).retained = s.retained := rfl

/-! ## State.flowFrame -/

@[simp] theorem State.flowFrame_pending (s : State) (k : TxKind) : (s.flowFrame k).pending = s.pending := rfl
@[simp] theorem State.flowFrame_clock (s : State) (k : TxKind) : (s.flowFrame k).clock = s.clock := rfl
@[simp] theorem State.flowFrame_nextId (s : State) (k : TxKind) : (s.flowFrame k).nextId = s.nextId := rfl
@[simp] theorem State.flowFrame_powered (s : State) (k : TxKind) : (s.flowFrame k).powered = s.powered := rfl
@[simp] theorem State.flowFrame_restartHeld (s : State) (k : TxKind) : (s.flowFrame k).restartHeld = s.restartHeld := rfl
@[simp] theorem State.flowFrame_pins (s : State) (k : TxKind) : (s.flowFrame k).pins = s.pins := rfl
@[simp] theorem State.flowFrame_text (s : State) (k : TxKind) : (s.flowFrame k).text = s.text := rfl
@[simp] theorem State.flowFrame_intake (s : State) (k : TxKind) : (s.flowFrame k).intake = s.intake := rfl
@[simp] theorem State.flowFrame_engine (s : State) (k : TxKind) : (s.flowFrame k).engine = s.engine := rfl
@[simp] theorem State.flowFrame_drive (s : State) (k : TxKind) : (s.flowFrame k).drive = s.drive := rfl
@[simp] theorem State.flowFrame_corr (s : State) (k : TxKind) : (s.flowFrame k).corr = s.corr := rfl
@[simp] theorem State.flowFrame_spell (s : State) (k : TxKind) : (s.flowFrame k).spell = s.spell := rfl
@[simp] theorem State.flowFrame_display (s : State) (k : TxKind) : (s.flowFrame k).display = s.display := rfl
@[simp] theorem State.flowFrame_supply (s : State) (k : TxKind) : (s.flowFrame k).supply = s.supply := rfl
@[simp] theorem State.flowFrame_line (s : State) (k : TxKind) : (s.flowFrame k).line = s.line.flowFrame k := rfl
@[simp] theorem State.flowFrame_retained (s : State) (k : TxKind) : (s.flowFrame k).retained = s.retained := rfl

/-! ## State.post -/

@[simp] theorem State.post_pending (s : State) (m : Message) : (s.post m).pending = s.pending := rfl
@[simp] theorem State.post_clock (s : State) (m : Message) : (s.post m).clock = s.clock := rfl
@[simp] theorem State.post_nextId (s : State) (m : Message) : (s.post m).nextId = s.nextId := rfl
@[simp] theorem State.post_powered (s : State) (m : Message) : (s.post m).powered = s.powered := rfl
@[simp] theorem State.post_restartHeld (s : State) (m : Message) : (s.post m).restartHeld = s.restartHeld := rfl
@[simp] theorem State.post_pins (s : State) (m : Message) : (s.post m).pins = s.pins := rfl
@[simp] theorem State.post_text (s : State) (m : Message) : (s.post m).text = s.text := rfl
@[simp] theorem State.post_intake (s : State) (m : Message) : (s.post m).intake = s.intake := rfl
@[simp] theorem State.post_engine (s : State) (m : Message) : (s.post m).engine = s.engine := rfl
@[simp] theorem State.post_drive (s : State) (m : Message) : (s.post m).drive = s.drive := rfl
@[simp] theorem State.post_corr (s : State) (m : Message) : (s.post m).corr = s.corr := rfl
@[simp] theorem State.post_spell (s : State) (m : Message) : (s.post m).spell = s.spell := rfl
@[simp] theorem State.post_display (s : State) (m : Message) : (s.post m).display = s.display.post m := rfl
@[simp] theorem State.post_supply (s : State) (m : Message) : (s.post m).supply = s.supply := rfl
@[simp] theorem State.post_line (s : State) (m : Message) : (s.post m).line = s.line := rfl
@[simp] theorem State.post_retained (s : State) (m : Message) : (s.post m).retained = s.retained := rfl

/-! ## State.unpost -/

@[simp] theorem State.unpost_pending (s : State) (m : Message) : (s.unpost m).pending = s.pending := rfl
@[simp] theorem State.unpost_clock (s : State) (m : Message) : (s.unpost m).clock = s.clock := rfl
@[simp] theorem State.unpost_nextId (s : State) (m : Message) : (s.unpost m).nextId = s.nextId := rfl
@[simp] theorem State.unpost_powered (s : State) (m : Message) : (s.unpost m).powered = s.powered := rfl
@[simp] theorem State.unpost_restartHeld (s : State) (m : Message) : (s.unpost m).restartHeld = s.restartHeld := rfl
@[simp] theorem State.unpost_pins (s : State) (m : Message) : (s.unpost m).pins = s.pins := rfl
@[simp] theorem State.unpost_text (s : State) (m : Message) : (s.unpost m).text = s.text := rfl
@[simp] theorem State.unpost_intake (s : State) (m : Message) : (s.unpost m).intake = s.intake := rfl
@[simp] theorem State.unpost_engine (s : State) (m : Message) : (s.unpost m).engine = s.engine := rfl
@[simp] theorem State.unpost_drive (s : State) (m : Message) : (s.unpost m).drive = s.drive := rfl
@[simp] theorem State.unpost_corr (s : State) (m : Message) : (s.unpost m).corr = s.corr := rfl
@[simp] theorem State.unpost_spell (s : State) (m : Message) : (s.unpost m).spell = s.spell := rfl
@[simp] theorem State.unpost_display (s : State) (m : Message) : (s.unpost m).display = s.display.unpost m := rfl
@[simp] theorem State.unpost_supply (s : State) (m : Message) : (s.unpost m).supply = s.supply := rfl
@[simp] theorem State.unpost_line (s : State) (m : Message) : (s.unpost m).line = s.line := rfl
@[simp] theorem State.unpost_retained (s : State) (m : Message) : (s.unpost m).retained = s.retained := rfl

/-! ## State.setQueue -/

@[simp] theorem State.setQueue_pending (s : State) (l : List Op) (h : Option Op) : (s.setQueue l h).pending = s.pending := rfl
@[simp] theorem State.setQueue_clock (s : State) (l : List Op) (h : Option Op) : (s.setQueue l h).clock = s.clock := rfl
@[simp] theorem State.setQueue_nextId (s : State) (l : List Op) (h : Option Op) : (s.setQueue l h).nextId = s.nextId := rfl
@[simp] theorem State.setQueue_powered (s : State) (l : List Op) (h : Option Op) : (s.setQueue l h).powered = s.powered := rfl
@[simp] theorem State.setQueue_restartHeld (s : State) (l : List Op) (h : Option Op) : (s.setQueue l h).restartHeld = s.restartHeld := rfl
@[simp] theorem State.setQueue_pins (s : State) (l : List Op) (h : Option Op) : (s.setQueue l h).pins = s.pins := rfl
@[simp] theorem State.setQueue_text (s : State) (l : List Op) (h : Option Op) : (s.setQueue l h).text = s.text := rfl
@[simp] theorem State.setQueue_intake (s : State) (l : List Op) (h : Option Op) : (s.setQueue l h).intake = s.intake := rfl
@[simp] theorem State.setQueue_engine (s : State) (l : List Op) (h : Option Op) : (s.setQueue l h).engine = { s.engine with slots := l, head := h } := rfl
@[simp] theorem State.setQueue_drive (s : State) (l : List Op) (h : Option Op) : (s.setQueue l h).drive = s.drive := rfl
@[simp] theorem State.setQueue_corr (s : State) (l : List Op) (h : Option Op) : (s.setQueue l h).corr = s.corr := rfl
@[simp] theorem State.setQueue_spell (s : State) (l : List Op) (h : Option Op) : (s.setQueue l h).spell = s.spell := rfl
@[simp] theorem State.setQueue_display (s : State) (l : List Op) (h : Option Op) : (s.setQueue l h).display = s.display := rfl
@[simp] theorem State.setQueue_supply (s : State) (l : List Op) (h : Option Op) : (s.setQueue l h).supply = s.supply := rfl
@[simp] theorem State.setQueue_retained (s : State) (l : List Op) (h : Option Op) : (s.setQueue l h).retained = s.retained := rfl

/-! ## State.setEngine -/

@[simp] theorem State.setEngine_pending (s : State) (e : EngineState) : (s.setEngine e).pending = s.pending := rfl
@[simp] theorem State.setEngine_clock (s : State) (e : EngineState) : (s.setEngine e).clock = s.clock := rfl
@[simp] theorem State.setEngine_nextId (s : State) (e : EngineState) : (s.setEngine e).nextId = s.nextId := rfl
@[simp] theorem State.setEngine_powered (s : State) (e : EngineState) : (s.setEngine e).powered = s.powered := rfl
@[simp] theorem State.setEngine_restartHeld (s : State) (e : EngineState) : (s.setEngine e).restartHeld = s.restartHeld := rfl
@[simp] theorem State.setEngine_pins (s : State) (e : EngineState) : (s.setEngine e).pins = s.pins := rfl
@[simp] theorem State.setEngine_text (s : State) (e : EngineState) : (s.setEngine e).text = s.text := rfl
@[simp] theorem State.setEngine_intake (s : State) (e : EngineState) : (s.setEngine e).intake = s.intake := rfl
@[simp] theorem State.setEngine_engine (s : State) (e : EngineState) : (s.setEngine e).engine = { s.engine with state := e } := rfl
@[simp] theorem State.setEngine_drive (s : State) (e : EngineState) : (s.setEngine e).drive = s.drive := rfl
@[simp] theorem State.setEngine_corr (s : State) (e : EngineState) : (s.setEngine e).corr = s.corr := rfl
@[simp] theorem State.setEngine_spell (s : State) (e : EngineState) : (s.setEngine e).spell = s.spell := rfl
@[simp] theorem State.setEngine_display (s : State) (e : EngineState) : (s.setEngine e).display = s.display := rfl
@[simp] theorem State.setEngine_supply (s : State) (e : EngineState) : (s.setEngine e).supply = s.supply := rfl
@[simp] theorem State.setEngine_retained (s : State) (e : EngineState) : (s.setEngine e).retained = s.retained := rfl

/-! ## State.setFault -/

@[simp] theorem State.setFault_pending (s : State) (f : FaultCode) : (s.setFault f).pending = s.pending := rfl
@[simp] theorem State.setFault_clock (s : State) (f : FaultCode) : (s.setFault f).clock = s.clock := rfl
@[simp] theorem State.setFault_nextId (s : State) (f : FaultCode) : (s.setFault f).nextId = s.nextId := rfl
@[simp] theorem State.setFault_powered (s : State) (f : FaultCode) : (s.setFault f).powered = s.powered := rfl
@[simp] theorem State.setFault_restartHeld (s : State) (f : FaultCode) : (s.setFault f).restartHeld = s.restartHeld := rfl
@[simp] theorem State.setFault_pins (s : State) (f : FaultCode) : (s.setFault f).pins = s.pins := rfl
@[simp] theorem State.setFault_text (s : State) (f : FaultCode) : (s.setFault f).text = s.text := rfl
@[simp] theorem State.setFault_intake (s : State) (f : FaultCode) : (s.setFault f).intake = s.intake := rfl
@[simp] theorem State.setFault_engine (s : State) (f : FaultCode) : (s.setFault f).engine = { s.engine with fault := f } := rfl
@[simp] theorem State.setFault_drive (s : State) (f : FaultCode) : (s.setFault f).drive = s.drive := rfl
@[simp] theorem State.setFault_corr (s : State) (f : FaultCode) : (s.setFault f).corr = s.corr := rfl
@[simp] theorem State.setFault_spell (s : State) (f : FaultCode) : (s.setFault f).spell = s.spell := rfl
@[simp] theorem State.setFault_display (s : State) (f : FaultCode) : (s.setFault f).display = s.display := rfl
@[simp] theorem State.setFault_supply (s : State) (f : FaultCode) : (s.setFault f).supply = s.supply := rfl
@[simp] theorem State.setFault_retained (s : State) (f : FaultCode) : (s.setFault f).retained = s.retained := rfl

/-! ## State.setHold -/

@[simp] theorem State.setHold_pending (s : State) (r : HoldReason) (b : Bool) : (s.setHold r b).pending = s.pending := by unfold State.setHold; split <;> rfl
@[simp] theorem State.setHold_clock (s : State) (r : HoldReason) (b : Bool) : (s.setHold r b).clock = s.clock := by unfold State.setHold; split <;> rfl
@[simp] theorem State.setHold_nextId (s : State) (r : HoldReason) (b : Bool) : (s.setHold r b).nextId = s.nextId := by unfold State.setHold; split <;> rfl
@[simp] theorem State.setHold_powered (s : State) (r : HoldReason) (b : Bool) : (s.setHold r b).powered = s.powered := by unfold State.setHold; split <;> rfl
@[simp] theorem State.setHold_restartHeld (s : State) (r : HoldReason) (b : Bool) : (s.setHold r b).restartHeld = s.restartHeld := by unfold State.setHold; split <;> rfl
@[simp] theorem State.setHold_pins (s : State) (r : HoldReason) (b : Bool) : (s.setHold r b).pins = s.pins := by unfold State.setHold; split <;> rfl
@[simp] theorem State.setHold_text (s : State) (r : HoldReason) (b : Bool) : (s.setHold r b).text = s.text := by unfold State.setHold; split <;> rfl
@[simp] theorem State.setHold_intake (s : State) (r : HoldReason) (b : Bool) : (s.setHold r b).intake = s.intake := by unfold State.setHold; split <;> rfl
@[simp] theorem State.setHold_drive (s : State) (r : HoldReason) (b : Bool) : (s.setHold r b).drive = s.drive := by unfold State.setHold; split <;> rfl
@[simp] theorem State.setHold_corr (s : State) (r : HoldReason) (b : Bool) : (s.setHold r b).corr = s.corr := by unfold State.setHold; split <;> rfl
@[simp] theorem State.setHold_spell (s : State) (r : HoldReason) (b : Bool) : (s.setHold r b).spell = s.spell := by unfold State.setHold; split <;> rfl
@[simp] theorem State.setHold_display (s : State) (r : HoldReason) (b : Bool) : (s.setHold r b).display = s.display := by unfold State.setHold; split <;> rfl
@[simp] theorem State.setHold_supply (s : State) (r : HoldReason) (b : Bool) : (s.setHold r b).supply = s.supply := by unfold State.setHold; split <;> rfl
@[simp] theorem State.setHold_retained (s : State) (r : HoldReason) (b : Bool) : (s.setHold r b).retained = s.retained := by unfold State.setHold; split <;> rfl

/-! ## State.setPp -/

@[simp] theorem State.setPp_pending (s : State) (p : Nat) : (s.setPp p).pending = s.pending := rfl
@[simp] theorem State.setPp_clock (s : State) (p : Nat) : (s.setPp p).clock = s.clock := rfl
@[simp] theorem State.setPp_nextId (s : State) (p : Nat) : (s.setPp p).nextId = s.nextId := rfl
@[simp] theorem State.setPp_powered (s : State) (p : Nat) : (s.setPp p).powered = s.powered := rfl
@[simp] theorem State.setPp_restartHeld (s : State) (p : Nat) : (s.setPp p).restartHeld = s.restartHeld := rfl
@[simp] theorem State.setPp_pins (s : State) (p : Nat) : (s.setPp p).pins = s.pins := rfl
@[simp] theorem State.setPp_text (s : State) (p : Nat) : (s.setPp p).text = { s.text with pp := p } := rfl
@[simp] theorem State.setPp_intake (s : State) (p : Nat) : (s.setPp p).intake = s.intake := rfl
@[simp] theorem State.setPp_engine (s : State) (p : Nat) : (s.setPp p).engine = s.engine := rfl
@[simp] theorem State.setPp_drive (s : State) (p : Nat) : (s.setPp p).drive = s.drive := rfl
@[simp] theorem State.setPp_corr (s : State) (p : Nat) : (s.setPp p).corr = s.corr := rfl
@[simp] theorem State.setPp_spell (s : State) (p : Nat) : (s.setPp p).spell = s.spell := rfl
@[simp] theorem State.setPp_display (s : State) (p : Nat) : (s.setPp p).display = s.display := rfl
@[simp] theorem State.setPp_supply (s : State) (p : Nat) : (s.setPp p).supply = s.supply := rfl
@[simp] theorem State.setPp_line (s : State) (p : Nat) : (s.setPp p).line = s.line := rfl
@[simp] theorem State.setPp_retained (s : State) (p : Nat) : (s.setPp p).retained = s.retained := rfl

/-! ## State.setSettings -/

@[simp] theorem State.setSettings_pending (s : State) (x : Settings) : (s.setSettings x).pending = s.pending := rfl
@[simp] theorem State.setSettings_clock (s : State) (x : Settings) : (s.setSettings x).clock = s.clock := rfl
@[simp] theorem State.setSettings_nextId (s : State) (x : Settings) : (s.setSettings x).nextId = s.nextId := rfl
@[simp] theorem State.setSettings_powered (s : State) (x : Settings) : (s.setSettings x).powered = s.powered := rfl
@[simp] theorem State.setSettings_restartHeld (s : State) (x : Settings) : (s.setSettings x).restartHeld = s.restartHeld := rfl
@[simp] theorem State.setSettings_pins (s : State) (x : Settings) : (s.setSettings x).pins = s.pins := rfl
@[simp] theorem State.setSettings_text (s : State) (x : Settings) : (s.setSettings x).text = { s.text with settings := x } := rfl
@[simp] theorem State.setSettings_intake (s : State) (x : Settings) : (s.setSettings x).intake = s.intake := rfl
@[simp] theorem State.setSettings_engine (s : State) (x : Settings) : (s.setSettings x).engine = s.engine := rfl
@[simp] theorem State.setSettings_drive (s : State) (x : Settings) : (s.setSettings x).drive = s.drive := rfl
@[simp] theorem State.setSettings_corr (s : State) (x : Settings) : (s.setSettings x).corr = s.corr := rfl
@[simp] theorem State.setSettings_spell (s : State) (x : Settings) : (s.setSettings x).spell = s.spell := rfl
@[simp] theorem State.setSettings_display (s : State) (x : Settings) : (s.setSettings x).display = s.display := rfl
@[simp] theorem State.setSettings_supply (s : State) (x : Settings) : (s.setSettings x).supply = s.supply := rfl
@[simp] theorem State.setSettings_line (s : State) (x : Settings) : (s.setSettings x).line = s.line := rfl
@[simp] theorem State.setSettings_retained (s : State) (x : Settings) : (s.setSettings x).retained = s.retained := rfl

/-! ## State.edited -/

@[simp] theorem State.edited_pending (s : State) : (s.edited).pending = s.pending := rfl
@[simp] theorem State.edited_clock (s : State) : (s.edited).clock = s.clock := rfl
@[simp] theorem State.edited_nextId (s : State) : (s.edited).nextId = s.nextId := rfl
@[simp] theorem State.edited_powered (s : State) : (s.edited).powered = s.powered := rfl
@[simp] theorem State.edited_restartHeld (s : State) : (s.edited).restartHeld = s.restartHeld := rfl
@[simp] theorem State.edited_pins (s : State) : (s.edited).pins = s.pins := rfl
@[simp] theorem State.edited_text (s : State) : (s.edited).text = { s.text with armed := false } := rfl
@[simp] theorem State.edited_intake (s : State) : (s.edited).intake = s.intake := rfl
@[simp] theorem State.edited_engine (s : State) : (s.edited).engine = s.engine := rfl
@[simp] theorem State.edited_drive (s : State) : (s.edited).drive = s.drive := rfl
@[simp] theorem State.edited_corr (s : State) : (s.edited).corr = s.corr := rfl
@[simp] theorem State.edited_spell (s : State) : (s.edited).spell = s.spell := rfl
@[simp] theorem State.edited_display (s : State) : (s.edited).display = s.display := rfl
@[simp] theorem State.edited_supply (s : State) : (s.edited).supply = s.supply := rfl
@[simp] theorem State.edited_line (s : State) : (s.edited).line = s.line := rfl
@[simp] theorem State.edited_retained (s : State) : (s.edited).retained = s.retained := rfl

/-! ## State.setEntryState -/

@[simp] theorem State.setEntryState_pending (s : State) (id : Nat) (st : EntryState) : (s.setEntryState id st).pending = s.pending := rfl
@[simp] theorem State.setEntryState_clock (s : State) (id : Nat) (st : EntryState) : (s.setEntryState id st).clock = s.clock := rfl
@[simp] theorem State.setEntryState_nextId (s : State) (id : Nat) (st : EntryState) : (s.setEntryState id st).nextId = s.nextId := rfl
@[simp] theorem State.setEntryState_powered (s : State) (id : Nat) (st : EntryState) : (s.setEntryState id st).powered = s.powered := rfl
@[simp] theorem State.setEntryState_restartHeld (s : State) (id : Nat) (st : EntryState) : (s.setEntryState id st).restartHeld = s.restartHeld := rfl
@[simp] theorem State.setEntryState_pins (s : State) (id : Nat) (st : EntryState) : (s.setEntryState id st).pins = s.pins := rfl
@[simp] theorem State.setEntryState_text (s : State) (id : Nat) (st : EntryState) : (s.setEntryState id st).text = s.text.modify id (fun e => { e with state := st }) := rfl
@[simp] theorem State.setEntryState_intake (s : State) (id : Nat) (st : EntryState) : (s.setEntryState id st).intake = s.intake := rfl
@[simp] theorem State.setEntryState_engine (s : State) (id : Nat) (st : EntryState) : (s.setEntryState id st).engine = s.engine := rfl
@[simp] theorem State.setEntryState_drive (s : State) (id : Nat) (st : EntryState) : (s.setEntryState id st).drive = s.drive := rfl
@[simp] theorem State.setEntryState_corr (s : State) (id : Nat) (st : EntryState) : (s.setEntryState id st).corr = s.corr := rfl
@[simp] theorem State.setEntryState_spell (s : State) (id : Nat) (st : EntryState) : (s.setEntryState id st).spell = s.spell := rfl
@[simp] theorem State.setEntryState_display (s : State) (id : Nat) (st : EntryState) : (s.setEntryState id st).display = s.display := rfl
@[simp] theorem State.setEntryState_supply (s : State) (id : Nat) (st : EntryState) : (s.setEntryState id st).supply = s.supply := rfl
@[simp] theorem State.setEntryState_line (s : State) (id : Nat) (st : EntryState) : (s.setEntryState id st).line = s.line := rfl
@[simp] theorem State.setEntryState_retained (s : State) (id : Nat) (st : EntryState) : (s.setEntryState id st).retained = s.retained := rfl

/-! ## State.addEntries -/

@[simp] theorem State.addEntries_pending (s : State) (p : Placement) (st : EntryState) : (s.addEntries p st).pending = s.pending := rfl
@[simp] theorem State.addEntries_clock (s : State) (p : Placement) (st : EntryState) : (s.addEntries p st).clock = s.clock := rfl
@[simp] theorem State.addEntries_nextId (s : State) (p : Placement) (st : EntryState) : (s.addEntries p st).nextId = s.nextId + (makeEntries s.nextId p st).length := rfl
@[simp] theorem State.addEntries_powered (s : State) (p : Placement) (st : EntryState) : (s.addEntries p st).powered = s.powered := rfl
@[simp] theorem State.addEntries_restartHeld (s : State) (p : Placement) (st : EntryState) : (s.addEntries p st).restartHeld = s.restartHeld := rfl
@[simp] theorem State.addEntries_pins (s : State) (p : Placement) (st : EntryState) : (s.addEntries p st).pins = s.pins := rfl
@[simp] theorem State.addEntries_text (s : State) (p : Placement) (st : EntryState) : (s.addEntries p st).text = { s.text with work := s.text.work.addAll (makeEntries s.nextId p st) } := rfl
@[simp] theorem State.addEntries_intake (s : State) (p : Placement) (st : EntryState) : (s.addEntries p st).intake = s.intake := rfl
@[simp] theorem State.addEntries_engine (s : State) (p : Placement) (st : EntryState) : (s.addEntries p st).engine = s.engine := rfl
@[simp] theorem State.addEntries_drive (s : State) (p : Placement) (st : EntryState) : (s.addEntries p st).drive = s.drive := rfl
@[simp] theorem State.addEntries_corr (s : State) (p : Placement) (st : EntryState) : (s.addEntries p st).corr = s.corr := rfl
@[simp] theorem State.addEntries_spell (s : State) (p : Placement) (st : EntryState) : (s.addEntries p st).spell = s.spell := rfl
@[simp] theorem State.addEntries_display (s : State) (p : Placement) (st : EntryState) : (s.addEntries p st).display = s.display := rfl
@[simp] theorem State.addEntries_supply (s : State) (p : Placement) (st : EntryState) : (s.addEntries p st).supply = s.supply := rfl
@[simp] theorem State.addEntries_line (s : State) (p : Placement) (st : EntryState) : (s.addEntries p st).line = s.line := rfl
@[simp] theorem State.addEntries_retained (s : State) (p : Placement) (st : EntryState) : (s.addEntries p st).retained = s.retained := rfl

/-! ## State.waitFor -/

@[simp] theorem State.waitFor_pending (s : State) (w : Waiting) (a : Action) (st : ResumeStage) : (s.waitFor w a st).pending = s.pending := rfl
@[simp] theorem State.waitFor_clock (s : State) (w : Waiting) (a : Action) (st : ResumeStage) : (s.waitFor w a st).clock = s.clock := rfl
@[simp] theorem State.waitFor_nextId (s : State) (w : Waiting) (a : Action) (st : ResumeStage) : (s.waitFor w a st).nextId = s.nextId := rfl
@[simp] theorem State.waitFor_powered (s : State) (w : Waiting) (a : Action) (st : ResumeStage) : (s.waitFor w a st).powered = s.powered := rfl
@[simp] theorem State.waitFor_restartHeld (s : State) (w : Waiting) (a : Action) (st : ResumeStage) : (s.waitFor w a st).restartHeld = s.restartHeld := rfl
@[simp] theorem State.waitFor_pins (s : State) (w : Waiting) (a : Action) (st : ResumeStage) : (s.waitFor w a st).pins = s.pins := rfl
@[simp] theorem State.waitFor_text (s : State) (w : Waiting) (a : Action) (st : ResumeStage) : (s.waitFor w a st).text = { s.text with waiting := some w, resume := some { action := a, stage := st } } := rfl
@[simp] theorem State.waitFor_intake (s : State) (w : Waiting) (a : Action) (st : ResumeStage) : (s.waitFor w a st).intake = s.intake := rfl
@[simp] theorem State.waitFor_engine (s : State) (w : Waiting) (a : Action) (st : ResumeStage) : (s.waitFor w a st).engine = s.engine := rfl
@[simp] theorem State.waitFor_drive (s : State) (w : Waiting) (a : Action) (st : ResumeStage) : (s.waitFor w a st).drive = s.drive := rfl
@[simp] theorem State.waitFor_corr (s : State) (w : Waiting) (a : Action) (st : ResumeStage) : (s.waitFor w a st).corr = s.corr := rfl
@[simp] theorem State.waitFor_spell (s : State) (w : Waiting) (a : Action) (st : ResumeStage) : (s.waitFor w a st).spell = s.spell := rfl
@[simp] theorem State.waitFor_display (s : State) (w : Waiting) (a : Action) (st : ResumeStage) : (s.waitFor w a st).display = s.display := rfl
@[simp] theorem State.waitFor_supply (s : State) (w : Waiting) (a : Action) (st : ResumeStage) : (s.waitFor w a st).supply = s.supply := rfl
@[simp] theorem State.waitFor_line (s : State) (w : Waiting) (a : Action) (st : ResumeStage) : (s.waitFor w a st).line = s.line := rfl
@[simp] theorem State.waitFor_retained (s : State) (w : Waiting) (a : Action) (st : ResumeStage) : (s.waitFor w a st).retained = s.retained := rfl

/-! ## State.setStage -/

@[simp] theorem State.setStage_pending (s : State) (st : Stage) : (s.setStage st).pending = s.pending := rfl
@[simp] theorem State.setStage_clock (s : State) (st : Stage) : (s.setStage st).clock = s.clock := rfl
@[simp] theorem State.setStage_nextId (s : State) (st : Stage) : (s.setStage st).nextId = s.nextId := rfl
@[simp] theorem State.setStage_powered (s : State) (st : Stage) : (s.setStage st).powered = s.powered := rfl
@[simp] theorem State.setStage_restartHeld (s : State) (st : Stage) : (s.setStage st).restartHeld = s.restartHeld := rfl
@[simp] theorem State.setStage_pins (s : State) (st : Stage) : (s.setStage st).pins = s.pins := rfl
@[simp] theorem State.setStage_text (s : State) (st : Stage) : (s.setStage st).text = s.text := rfl
@[simp] theorem State.setStage_intake (s : State) (st : Stage) : (s.setStage st).intake = s.intake := rfl
@[simp] theorem State.setStage_engine (s : State) (st : Stage) : (s.setStage st).engine = { s.engine with progress := s.engine.progress.map (fun p => { p with stage := st }) } := rfl
@[simp] theorem State.setStage_drive (s : State) (st : Stage) : (s.setStage st).drive = s.drive := rfl
@[simp] theorem State.setStage_corr (s : State) (st : Stage) : (s.setStage st).corr = s.corr := rfl
@[simp] theorem State.setStage_spell (s : State) (st : Stage) : (s.setStage st).spell = s.spell := rfl
@[simp] theorem State.setStage_display (s : State) (st : Stage) : (s.setStage st).display = s.display := rfl
@[simp] theorem State.setStage_supply (s : State) (st : Stage) : (s.setStage st).supply = s.supply := rfl
@[simp] theorem State.setStage_line (s : State) (st : Stage) : (s.setStage st).line = s.line := rfl
@[simp] theorem State.setStage_retained (s : State) (st : Stage) : (s.setStage st).retained = s.retained := rfl

/-! ## State.setCarriage -/

@[simp] theorem State.setCarriage_pending (s : State) (c : Carriage) : (s.setCarriage c).pending = s.pending := rfl
@[simp] theorem State.setCarriage_clock (s : State) (c : Carriage) : (s.setCarriage c).clock = s.clock := rfl
@[simp] theorem State.setCarriage_nextId (s : State) (c : Carriage) : (s.setCarriage c).nextId = s.nextId := rfl
@[simp] theorem State.setCarriage_powered (s : State) (c : Carriage) : (s.setCarriage c).powered = s.powered := rfl
@[simp] theorem State.setCarriage_restartHeld (s : State) (c : Carriage) : (s.setCarriage c).restartHeld = s.restartHeld := rfl
@[simp] theorem State.setCarriage_pins (s : State) (c : Carriage) : (s.setCarriage c).pins = s.pins := rfl
@[simp] theorem State.setCarriage_text (s : State) (c : Carriage) : (s.setCarriage c).text = s.text := rfl
@[simp] theorem State.setCarriage_intake (s : State) (c : Carriage) : (s.setCarriage c).intake = s.intake := rfl
@[simp] theorem State.setCarriage_engine (s : State) (c : Carriage) : (s.setCarriage c).engine = s.engine := rfl
@[simp] theorem State.setCarriage_drive (s : State) (c : Carriage) : (s.setCarriage c).drive = { s.drive with carriage := c } := rfl
@[simp] theorem State.setCarriage_corr (s : State) (c : Carriage) : (s.setCarriage c).corr = s.corr := rfl
@[simp] theorem State.setCarriage_spell (s : State) (c : Carriage) : (s.setCarriage c).spell = s.spell := rfl
@[simp] theorem State.setCarriage_display (s : State) (c : Carriage) : (s.setCarriage c).display = s.display := rfl
@[simp] theorem State.setCarriage_supply (s : State) (c : Carriage) : (s.setCarriage c).supply = s.supply := rfl
@[simp] theorem State.setCarriage_line (s : State) (c : Carriage) : (s.setCarriage c).line = s.line := rfl
@[simp] theorem State.setCarriage_retained (s : State) (c : Carriage) : (s.setCarriage c).retained = s.retained := rfl

/-! ## State.setCeiling -/

@[simp] theorem State.setCeiling_pending (s : State) (n : Nat) : (s.setCeiling n).pending = s.pending := rfl
@[simp] theorem State.setCeiling_clock (s : State) (n : Nat) : (s.setCeiling n).clock = s.clock := rfl
@[simp] theorem State.setCeiling_nextId (s : State) (n : Nat) : (s.setCeiling n).nextId = s.nextId := rfl
@[simp] theorem State.setCeiling_powered (s : State) (n : Nat) : (s.setCeiling n).powered = s.powered := rfl
@[simp] theorem State.setCeiling_restartHeld (s : State) (n : Nat) : (s.setCeiling n).restartHeld = s.restartHeld := rfl
@[simp] theorem State.setCeiling_pins (s : State) (n : Nat) : (s.setCeiling n).pins = s.pins := rfl
@[simp] theorem State.setCeiling_text (s : State) (n : Nat) : (s.setCeiling n).text = s.text := rfl
@[simp] theorem State.setCeiling_intake (s : State) (n : Nat) : (s.setCeiling n).intake = s.intake := rfl
@[simp] theorem State.setCeiling_engine (s : State) (n : Nat) : (s.setCeiling n).engine = s.engine := rfl
@[simp] theorem State.setCeiling_drive (s : State) (n : Nat) : (s.setCeiling n).drive = s.drive := rfl
@[simp] theorem State.setCeiling_corr (s : State) (n : Nat) : (s.setCeiling n).corr = s.corr := rfl
@[simp] theorem State.setCeiling_spell (s : State) (n : Nat) : (s.setCeiling n).spell = s.spell := rfl
@[simp] theorem State.setCeiling_display (s : State) (n : Nat) : (s.setCeiling n).display = s.display := rfl
@[simp] theorem State.setCeiling_supply (s : State) (n : Nat) : (s.setCeiling n).supply = { s.supply with ceiling := n } := rfl
@[simp] theorem State.setCeiling_retained (s : State) (n : Nat) : (s.setCeiling n).retained = s.retained := rfl

/-! ## State.atTime -/

@[simp] theorem State.atTime_pending (s : State) (t : Nat) : (s.atTime t).pending = s.pending := rfl
@[simp] theorem State.atTime_clock (s : State) (t : Nat) : (s.atTime t).clock = max s.clock t := rfl
@[simp] theorem State.atTime_nextId (s : State) (t : Nat) : (s.atTime t).nextId = s.nextId := rfl
@[simp] theorem State.atTime_powered (s : State) (t : Nat) : (s.atTime t).powered = s.powered := rfl
@[simp] theorem State.atTime_restartHeld (s : State) (t : Nat) : (s.atTime t).restartHeld = s.restartHeld := rfl
@[simp] theorem State.atTime_pins (s : State) (t : Nat) : (s.atTime t).pins = s.pins := rfl
@[simp] theorem State.atTime_text (s : State) (t : Nat) : (s.atTime t).text = s.text := rfl
@[simp] theorem State.atTime_intake (s : State) (t : Nat) : (s.atTime t).intake = s.intake := rfl
@[simp] theorem State.atTime_engine (s : State) (t : Nat) : (s.atTime t).engine = s.engine := rfl
@[simp] theorem State.atTime_drive (s : State) (t : Nat) : (s.atTime t).drive = s.drive := rfl
@[simp] theorem State.atTime_corr (s : State) (t : Nat) : (s.atTime t).corr = s.corr := rfl
@[simp] theorem State.atTime_spell (s : State) (t : Nat) : (s.atTime t).spell = s.spell := rfl
@[simp] theorem State.atTime_display (s : State) (t : Nat) : (s.atTime t).display = s.display := rfl
@[simp] theorem State.atTime_supply (s : State) (t : Nat) : (s.atTime t).supply = s.supply := rfl
@[simp] theorem State.atTime_line (s : State) (t : Nat) : (s.atTime t).line = s.line := rfl
@[simp] theorem State.atTime_retained (s : State) (t : Nat) : (s.atTime t).retained = s.retained := rfl

/-! ## State.taken -/

@[simp] theorem State.taken_pending (s : State) (rest : List Action) : (s.taken rest).pending = s.pending := by unfold State.taken; split <;> rfl
@[simp] theorem State.taken_clock (s : State) (rest : List Action) : (s.taken rest).clock = s.clock := by unfold State.taken; split <;> rfl
@[simp] theorem State.taken_nextId (s : State) (rest : List Action) : (s.taken rest).nextId = s.nextId := by unfold State.taken; split <;> rfl
@[simp] theorem State.taken_powered (s : State) (rest : List Action) : (s.taken rest).powered = s.powered := by unfold State.taken; split <;> rfl
@[simp] theorem State.taken_restartHeld (s : State) (rest : List Action) : (s.taken rest).restartHeld = s.restartHeld := by unfold State.taken; split <;> rfl
@[simp] theorem State.taken_pins (s : State) (rest : List Action) : (s.taken rest).pins = s.pins := by unfold State.taken; split <;> rfl
@[simp] theorem State.taken_text (s : State) (rest : List Action) : (s.taken rest).text = s.text := by unfold State.taken; split <;> rfl
@[simp] theorem State.taken_engine (s : State) (rest : List Action) : (s.taken rest).engine = s.engine := by unfold State.taken; split <;> rfl
@[simp] theorem State.taken_drive (s : State) (rest : List Action) : (s.taken rest).drive = s.drive := by unfold State.taken; split <;> rfl
@[simp] theorem State.taken_corr (s : State) (rest : List Action) : (s.taken rest).corr = s.corr := by unfold State.taken; split <;> rfl
@[simp] theorem State.taken_spell (s : State) (rest : List Action) : (s.taken rest).spell = s.spell := by unfold State.taken; split <;> rfl
@[simp] theorem State.taken_display (s : State) (rest : List Action) : (s.taken rest).display = s.display := by unfold State.taken; split <;> rfl
@[simp] theorem State.taken_supply (s : State) (rest : List Action) : (s.taken rest).supply = s.supply := by unfold State.taken; split <;> rfl
@[simp] theorem State.taken_retained (s : State) (rest : List Action) : (s.taken rest).retained = s.retained := by unfold State.taken; split <;> rfl

end Sys2Proof.Machine
end

