-- ==== Sys2Proof/Laws/Ops.lean ====
section
/-! SUPPORT. What each shared operation can do, said once: the event of a command, holds, appended ops, the bell, completions,
the transmit queue and the message list. -/

namespace Sys2Proof.Machine

/-! ## The event of a command -/

/-- A live controller runs the command's effect and what follows it. -/
theorem State.event_live {s : State} (h : s.live) (f : State → State) : s.event f = (f s).finish s := by
  obtain ⟨h1, h2⟩ := h
  simp [State.event, h1, h2]

/-- A controller without power, or held by the restart pin, stays as it is. -/
theorem State.event_dead {s : State} (h : s.powered = false ∨ s.restartHeld = true) (f : State → State) :
    s.event f = s := by
  unfold State.event
  rw [if_neg]
  rintro ⟨h1, h2⟩
  rcases h with h | h <;> simp_all

/-- A live controller runs the effect of a sensor's report and what follows it. -/
theorem State.sensed_live {s : State} (h : s.live) (f : State → State) : s.sensed f = (f s).finish s := by
  obtain ⟨h1, h2⟩ := h
  simp [State.sensed, h1, h2]

/-- In a controller without power, or held by the restart pin, the pins alone follow a sensor's report. -/
theorem State.sensed_dead {s : State} (h : s.powered = false ∨ s.restartHeld = true) (f : State → State) :
    s.sensed f = { s with pins := (f s).pins } := by
  unfold State.sensed
  rw [if_neg]
  rintro ⟨h1, h2⟩
  rcases h with h | h <;> simp_all

/-- Every command answers a next state. -/
theorem exec_total (c : Instr) (s : State) : ∃ t, exec c s = .next t := by
  cases c <;> exact ⟨_, rfl⟩

/-- Equal effects give equal outcomes. -/
theorem next_finish_congr {a b old : State} (h : a = b) :
    (Host.Outcome.next (a.finish old) : Host.Outcome State Fault Refusal) = .next (b.finish old) := by rw [h]

/-- The end of a wait changes the waiting reason and the resumption alone. -/
theorem State.endWait_eq (s : State) : ∃ w r, s.endWait = { s with text := { s.text with waiting := w, resume := r } } := by
  unfold State.endWait
  split
  · exact ⟨_, _, rfl⟩
  · split <;> exact ⟨_, _, rfl⟩

/-- The beginning of a composition changes the display unit alone. -/
theorem State.beginComposition_eq (s : State) (b : Bool) : ∃ d, s.beginComposition b = { s with display := d } := by
  unfold State.beginComposition
  split <;> exact ⟨_, rfl⟩

/-! ## Holds and the queue -/

/-- A hold is set or cleared, and decides between READY and HELD alone; the line interface is asked for a STATE at most. -/
theorem State.setHold_eq (s : State) (r : HoldReason) (b : Bool) :
    ∃ l, s.setHold r b =
      { s with
        engine :=
          { s.engine with
            holds := s.engine.holds.set r b,
            state := if s.engine.state = .ready ∨ s.engine.state = .held then
                (if (s.engine.holds.set r b).any then .held else .ready) else s.engine.state },
        line := l } := by
  unfold State.setHold
  simp only
  split <;> simp [State.setEngine]

/-- Ops appended to an engine that is not LOCKED join the slots in turn. -/
theorem State.appendOps_eq (os : List Op) (s : State) (h : s.engine.state ≠ .locked) :
    ∃ l, os.foldl State.appendOp s =
      { s with engine := { s.engine with slots := s.engine.slots ++ os }, line := l } := by
  induction os generalizing s with
  | nil => exact ⟨s.line, by simp⟩
  | cons o os ih =>
    have one : ∃ l, s.appendOp o = { s with engine := { s.engine with slots := s.engine.slots ++ [o] }, line := l } := by
      simp only [State.appendOp, State.isLocked, h, decide_false]
      exact ⟨_, rfl⟩
    obtain ⟨l, e⟩ := one
    obtain ⟨l2, e2⟩ := ih (s.appendOp o) (by rw [e]; exact h)
    simp only [List.foldl_cons, e2]
    rw [e]
    exact ⟨l2, by simp⟩

/-- One op appended to an engine that is not LOCKED. -/
theorem State.appendOp_eq (o : Op) (s : State) (h : s.engine.state ≠ .locked) :
    ∃ l, s.appendOp o = { s with engine := { s.engine with slots := s.engine.slots ++ [o] }, line := l } :=
  State.appendOps_eq [o] s h

/-- The bell sets its mark on entering the zone, and asks for BELL at most. -/
theorem State.bell_eq (s : State) (p w : Nat) :
    ∃ l, s.bell p w =
      { s with
        text := { s.text with bellGiven := s.text.bellGiven || entersBell s.text.settings.rm p w }, line := l } := by
  unfold State.bell
  by_cases h1 : entersBell s.text.settings.rm p w = true <;> cases h2 : s.text.bellGiven <;> simp [h1]
  · exact ⟨_, rfl⟩
  · exact ⟨s.line, by rw [← h2]⟩
  · exact ⟨s.line, by simp at h1; rw [← h2]⟩
  · exact ⟨s.line, by rw [← h2]⟩

/-- A completion empties the head place and reports to the unit that the op came from. -/
theorem State.completeOp_eq (s : State) (o : Op) (ho : s.engine.head = some o) :
    ∃ l, s.completeOp =
      (let s2 : State := { s with engine := { s.engine with head := none, progress := none }, line := l }
       let s3 := match o.kind with
         | .strike => s2.strikeDone o
         | .carriageReturn => s2.returnDone
         | .feed => match o.origin with
           | .correction => s2.closingFeedDone
           | .text => s2
       if s3.engine.state = .down then s3 else s3.setEngine s3.engine.idleState) := by
  unfold State.completeOp
  rw [ho]
  exact ⟨_, rfl⟩

/-- A refused action changes the transmit queue at most. -/
theorem State.refuse_eq (s : State) (a : Action) : ∃ l, s.refuse a = { s with line := l } := by
  unfold State.refuse
  split <;> exact ⟨_, rfl⟩

/-- A new estimate changes the heat figures, HEAT and what follows it, and the message list alone. -/
theorem State.setHeat_eq (s : State) (h : Nat) :
    ∃ (hot : Bool) (e : EngineState) (d : Display) (l : LineInterface), s.setHeat h =
      { s with
        supply := { s.supply with heat := h, region := regionFor s.supply.region h },
        engine := { s.engine with holds := { s.engine.holds with heat := hot }, state := e }, display := d, line := l } := by
  unfold State.setHeat
  simp only
  split
  · obtain ⟨l, e⟩ := State.setHold_eq
      { s with
        supply := { s.supply with heat := h, region := regionFor s.supply.region h },
        line := if regionFor s.supply.region h = s.supply.region then s.line else s.line.askState } .heat true
    rw [e]
    exact ⟨true, _, _, _, rfl⟩
  · split
    · obtain ⟨l, e⟩ := State.setHold_eq
        { s with
          supply := { s.supply with heat := h, region := regionFor s.supply.region h },
          line := if regionFor s.supply.region h = s.supply.region then s.line else s.line.askState } .heat false
      rw [e]
      exact ⟨false, _, _, _, rfl⟩
    · exact ⟨s.engine.holds.heat, s.engine.state, _, _, rfl⟩

/-! ## The transmit queue (R184, R185) -/

theorem LineInterface.join_places (l : LineInterface) (k : TxKind) :
    (l.join k).places = l.places ++ [{ kind := k, stamp := l.stamp, losses := 0 }] := rfl

/-- A STATE joins only a queue with a free place. -/
theorem LineInterface.askState_places_le (l : LineInterface) (h : l.places.length ≤ 8) : l.askState.places.length ≤ 8 := by
  unfold LineInterface.askState
  split
  · exact h
  · split
    · next hp => simp [LineInterface.hasPlace] at hp; simp [LineInterface.join]; omega
    · exact h

/-- A SOUND joins only a queue with a free place. -/
theorem LineInterface.sound_places_le (l : LineInterface) (p : Sound) (h : l.places.length ≤ 8) :
    (l.sound p).places.length ≤ 8 := by
  unfold LineInterface.sound
  split
  · exact h
  · split
    · exact h
    · next hp => simp [LineInterface.hasPlace] at hp; simp [LineInterface.join]; omega

@[simp] theorem LineInterface.askState_roster (l : LineInterface) : l.askState.roster = l.roster := by
  unfold LineInterface.askState; split <;> (try split) <;> rfl

@[simp] theorem LineInterface.sound_roster (l : LineInterface) (p : Sound) : (l.sound p).roster = l.roster := by
  unfold LineInterface.sound; split <;> (try split) <;> rfl

@[simp] theorem LineInterface.askState_flow (l : LineInterface) : l.askState.flow = l.flow := by
  unfold LineInterface.askState; split <;> (try split) <;> rfl

@[simp] theorem LineInterface.sound_flow (l : LineInterface) (p : Sound) : (l.sound p).flow = l.flow := by
  unfold LineInterface.sound; split <;> (try split) <;> rfl

/-! ## The message list (R152 to R155) -/

/-- A new message list changes the list and the showing cycle alone. -/
theorem Display.setMessages_eq (d : Display) (l : List Message) (replaced : Option Message) :
    ∃ (p : ShowPhase) (n : Nat) (due empty : Bool), d.setMessages l replaced =
      { d with messages := l, phase := p, phaseCount := n, messageDue := due, emptySince := empty } := by
  unfold Display.setMessages
  split
  · exact ⟨_, _, _, _, rfl⟩
  · split
    · split <;> exact ⟨_, _, _, _, rfl⟩
    · exact ⟨_, _, _, _, rfl⟩

/-- A lift driver that is set to a state gives its solenoid the drive of that state, and the other lift's drive stands (R91). -/
@[simp] theorem Drive.liftOutput_setLift (d : Drive) (l k : Lift) (st : LiftState) :
    (d.setLift l st).liftOutput k = if k = l then st.output l else d.liftOutput k := by
  cases l <;> cases k <;> rfl

/-- A showing cycle that is stopped stands (R158). -/
theorem Display.setMessages_of_stopped (d : Display) (l : List Message) (replaced : Option Message) (h : d.stopped = true) :
    d.setMessages l replaced = { d with messages := l } := by
  simp [Display.setMessages, h]

/-- What a change of the message list does to the showing cycle (R154, R155, R158). -/
theorem Display.setMessages_relisted (d : Display) (standing l : List Message) (again : Option Message) :
    Relisted d standing l again
      (({ d with standing := standing, dirty := d.dirty || again.isSome } : Display).setMessages l again) := by
  rcases d with ⟨⟩
  refine ⟨?_, ?_, ?_, ?_⟩ <;> simp only [Display.setMessages]
  · split
    · rfl
    · split
      · split <;> rfl
      · rfl
  · rintro (h | ⟨m, h, h2, h3⟩)
    · simp [h]
    · simp [h, h2, h3]
  · intro m h h2 h3
    simp only [h, h2]
    rw [if_neg (by simp), if_neg]
    · exact ⟨rfl, rfl, rfl, rfl⟩
    · rcases h3 with h3 | h3 <;> simp [h3]
  · intro h h2
    simp [h, h2]

@[simp] theorem Display.setMessages_messages (d : Display) (l : List Message) (r : Option Message) :
    (d.setMessages l r).messages = l := by
  obtain ⟨_, _, _, _, e⟩ := d.setMessages_eq l r; rw [e]

@[simp] theorem Display.setMessages_standing (d : Display) (l : List Message) (r : Option Message) :
    (d.setMessages l r).standing = d.standing := by
  obtain ⟨_, _, _, _, e⟩ := d.setMessages_eq l r; rw [e]

@[simp] theorem Display.setMessages_frameCount (d : Display) (l : List Message) (r : Option Message) :
    (d.setMessages l r).frameCount = d.frameCount := by
  obtain ⟨_, _, _, _, e⟩ := d.setMessages_eq l r; rw [e]

/-- A new fault keeps the list within 4. -/
theorem withFault_length_le (l : List Message) (m : Message) (h : l.length ≤ 4) : (withFault l m).length ≤ 4 := by
  unfold withFault
  split
  · simp; omega
  · split
    · simp; omega
    · exact h

/-- A post changes the message list, the standing faults and the showing cycle alone. -/
theorem Display.post_frameCount (d : Display) (m : Message) : (d.post m).frameCount = d.frameCount := by
  unfold Display.post; split <;> (try split) <;> simp

/-- A removal leaves the frame count. -/
theorem Display.unpost_frameCount (d : Display) (m : Message) : (d.unpost m).frameCount = d.frameCount := by
  unfold Display.unpost; split <;> (try simp only) <;> (try split) <;> simp

/-! ## The saved line (R203, R208) -/

/-- The regrouped entries are the owners and the companions of these. -/
theorem mem_ownersFirst (l : List Entry) (e : Entry) :
    e ∈ ownersFirst l ↔ ∃ o ∈ l, o.isChar = true ∧ (e = o ∨ (e ∈ l ∧ e.isChar = false ∧ ownerId e = o.id)) := by
  simp [ownersFirst, and_assoc]

end Sys2Proof.Machine
end

