-- ==== Sys2Proof/WellFormed.lean ====
section
/-! DEFINITION. What a command's operands must satisfy for the event to be one that the spec describes. -/

namespace Sys2Proof

/-- The operands of a command lie in the ranges of the rules: a station number is 0 to 7 (R188), a TEXT payload is at
most 15 bytes (Table 11-1), a complete frame has at least 3 bytes (R176), a tag is 0 to 63 (R127). -/
def Instr.WellFormed : Instr → Bool
  | .here sender _ _ => decide (sender < 8)
  | .textFrame codes => decide (codes.length ≤ 15)
  | .frameDropped bytes => decide (3 ≤ bytes.length)
  | .queryTimeout tag => decide (tag < 64)
  | _ => true

end Sys2Proof
end

