-- ==== Sys2Proof/Laws/PerInstr.lean ====
section
/-! SUPPORT. A statement about every command as syntax, one lemma for each constructor: which operands are out of range. -/

namespace Sys2Proof.Laws.Described

/-- A command that is not well-formed is one of four, with an operand outside the range that the spec gives it: a station number
above 7 (R188), a TEXT payload above 15 bytes (Table 11-1), a frame of fewer than 3 bytes (R176), a tag above 63 (R127). -/
def Statement (c : Instr) : Prop :=
  c.WellFormed = false →
    (∃ n cls variant, c = .here n cls variant ∧ 8 ≤ n) ∨ (∃ codes, c = .textFrame codes ∧ 15 < codes.length)
      ∨ (∃ bytes, c = .frameDropped bytes ∧ bytes.length < 3) ∨ (∃ tag, c = .queryTimeout tag ∧ 64 ≤ tag)

theorem powerOn : Statement .powerOn := fun h => nomatch h
theorem restartAssert (point : SavePoint) : Statement (.restartAssert point) := fun h => nomatch h
theorem restartRelease : Statement .restartRelease := fun h => nomatch h
theorem keyFrame (value flags : Byte) : Statement (.keyFrame value flags) := fun h => nomatch h
theorem clear : Statement .clear := fun h => nomatch h
theorem textFrame (codes : List Byte) : Statement (.textFrame codes) := fun h => .inr (.inl ⟨codes, rfl, by simpa [Instr.WellFormed] using h⟩)
theorem settingFrame (item : Byte) (value : Byte × Byte) : Statement (.settingFrame item value) := fun h => nomatch h
theorem here (n : Nat) (cls variant : Byte) : Statement (.here n cls variant) := fun h => .inl ⟨n, cls, variant, rfl, by simpa [Instr.WellFormed] using h⟩
theorem supply (report : Byte) (time : Nat) : Statement (.supply report time) := fun h => nomatch h
theorem powerFailing (time : Nat) : Statement (.powerFailing time) := fun h => nomatch h
theorem saveComplete : Statement .saveComplete := fun h => nomatch h
theorem wordAnswer (tag verdict : Byte) : Statement (.wordAnswer tag verdict) := fun h => nomatch h
theorem frameSent (stateFirst : Bool) : Statement (.frameSent stateFirst) := fun h => nomatch h
theorem lineIdClash : Statement .lineIdClash := fun h => nomatch h
theorem frameDropped (bytes : List Byte) : Statement (.frameDropped bytes) := fun h => .inr (.inr (.inl ⟨bytes, rfl, by simpa [Instr.WellFormed] using h⟩))
theorem codingError (heard : List Nat) : Statement (.codingError heard) := fun h => nomatch h
theorem lineStuck : Statement .lineStuck := fun h => nomatch h
theorem lineReleased : Statement .lineReleased := fun h => nomatch h
theorem beginTransmission (quiet : Nat) : Statement (.beginTransmission quiet) := fun h => nomatch h
theorem arbitrationLoss (stateFirst : Bool) : Statement (.arbitrationLoss stateFirst) := fun h => nomatch h
theorem collectionWindowEnd : Statement .collectionWindowEnd := fun h => nomatch h
theorem nextRollCall : Statement .nextRollCall := fun h => nomatch h
theorem powerSilenceExpiry : Statement .powerSilenceExpiry := fun h => nomatch h
theorem char : Statement .char := fun h => nomatch h
theorem space : Statement .space := fun h => nomatch h
theorem backspace : Statement .backspace := fun h => nomatch h
theorem carriageReturn : Statement .carriageReturn := fun h => nomatch h
theorem tab : Statement .tab := fun h => nomatch h
theorem index : Statement .index := fun h => nomatch h
theorem reverseIndex : Statement .reverseIndex := fun h => nomatch h
theorem halfUp : Statement .halfUp := fun h => nomatch h
theorem halfDown : Statement .halfDown := fun h => nomatch h
theorem correct : Statement .correct := fun h => nomatch h
theorem wordCorrect : Statement .wordCorrect := fun h => nomatch h
theorem lineCorrect : Statement .lineCorrect := fun h => nomatch h
theorem relocate : Statement .relocate := fun h => nomatch h
theorem tabSet : Statement .tabSet := fun h => nomatch h
theorem tabClear : Statement .tabClear := fun h => nomatch h
theorem tabClearAll : Statement .tabClearAll := fun h => nomatch h
theorem lmSet : Statement .lmSet := fun h => nomatch h
theorem rmSet : Statement .rmSet := fun h => nomatch h
theorem marginRelease : Statement .marginRelease := fun h => nomatch h
theorem pitch : Statement .pitch := fun h => nomatch h
theorem spacing : Statement .spacing := fun h => nomatch h
theorem impression : Statement .impression := fun h => nomatch h
theorem mode : Statement .mode := fun h => nomatch h
theorem underline : Statement .underline := fun h => nomatch h
theorem bold : Statement .bold := fun h => nomatch h
theorem center : Statement .center := fun h => nomatch h
theorem flushRight : Statement .flushRight := fun h => nomatch h
theorem decimalTab : Statement .decimalTab := fun h => nomatch h
theorem justify : Statement .justify := fun h => nomatch h
theorem spell : Statement .spell := fun h => nomatch h
theorem addWord : Statement .addWord := fun h => nomatch h
theorem deleteWord : Statement .deleteWord := fun h => nomatch h
theorem actionResume : Statement .actionResume := fun h => nomatch h
theorem heldRunFeed : Statement .heldRunFeed := fun h => nomatch h
theorem printLineFeed : Statement .printLineFeed := fun h => nomatch h
theorem lookupEnd : Statement .lookupEnd := fun h => nomatch h
theorem queryTimeout (tag : Nat) : Statement (.queryTimeout tag) := fun h => .inr (.inr (.inr ⟨tag, rfl, by simpa [Instr.WellFormed] using h⟩))
theorem waitListTimeout : Statement .waitListTimeout := fun h => nomatch h
theorem listWriteEnd : Statement .listWriteEnd := fun h => nomatch h
theorem tapeAppend : Statement .tapeAppend := fun h => nomatch h
theorem correctionClosing : Statement .correctionClosing := fun h => nomatch h
theorem carriageBrakeEnd : Statement .carriageBrakeEnd := fun h => nomatch h
theorem encoderEdge (rightward : Bool) (interval : Nat) : Statement (.encoderEdge rightward interval) := fun h => nomatch h
theorem pwmPeriodStart : Statement .pwmPeriodStart := fun h => nomatch h
theorem carriageStall : Statement .carriageStall := fun h => nomatch h
theorem homeSensorTrip : Statement .homeSensorTrip := fun h => nomatch h
theorem wheelMoveEnded : Statement .wheelMoveEnded := fun h => nomatch h
theorem wheelHomeFound : Statement .wheelHomeFound := fun h => nomatch h
theorem flagNotFound : Statement .flagNotFound := fun h => nomatch h
theorem feedEnded : Statement .feedEnded := fun h => nomatch h
theorem advanceEnded : Statement .advanceEnded := fun h => nomatch h
theorem liftDrawn (lift : Lift) (time : Nat) : Statement (.liftDrawn lift time) := fun h => nomatch h
theorem strikeIntervalEnd : Statement .strikeIntervalEnd := fun h => nomatch h
theorem pulseEnd : Statement .pulseEnd := fun h => nomatch h
theorem settleEnd : Statement .settleEnd := fun h => nomatch h
theorem deadlineExpiry (timer : Deadline) : Statement (.deadlineExpiry timer) := fun h => nomatch h
theorem coverOpen : Statement .coverOpen := fun h => nomatch h
theorem coverClosed : Statement .coverClosed := fun h => nomatch h
theorem ribbonSpent : Statement .ribbonSpent := fun h => nomatch h
theorem ribbonPresent : Statement .ribbonPresent := fun h => nomatch h
theorem tapeEndReport (spent : Bool) : Statement (.tapeEndReport spent) := fun h => nomatch h
theorem sagTimerExpiry : Statement .sagTimerExpiry := fun h => nomatch h
theorem decayTimerExpiry : Statement .decayTimerExpiry := fun h => nomatch h
theorem frameStart : Statement .frameStart := fun h => nomatch h
theorem compositionEnd : Statement .compositionEnd := fun h => nomatch h
theorem startCell : Statement .startCell := fun h => nomatch h
theorem huntFrameEnd : Statement .huntFrameEnd := fun h => nomatch h
theorem pwmOnPhaseEnd : Statement .pwmOnPhaseEnd := fun h => nomatch h
theorem stepIntervalEnd (pacer : Pacer) (flag codeBit : Bool) : Statement (.stepIntervalEnd pacer flag codeBit) := fun h => nomatch h
theorem powerLoss (point : SavePoint) : Statement (.powerLoss point) := fun h => nomatch h

end Sys2Proof.Laws.Described
end

