-- ==== Sys2Proof/Laws/Text.lean ====
section
/-! SUPPORT. The taking of actions, the tab stops, and the chains of entries of the line records. -/

namespace Sys2Proof.Machine

/-! ## Taking an action (R11) -/

/-- The command of a kind asks the text unit to take the head action of that kind. -/
theorem exec_command {s : State} (h : s.live) (k : ActionKind) :
    exec k.command s = .next ((s.takeAction k).finish s) := by
  rw [← State.event_live h (fun t => t.takeAction k)]
  cases k <;> rfl

/-- A head action that is offered is taken, unless the slots of Table 1-4 are short. -/
theorem State.takeAction_offers {s : State} {k : ActionKind} {a : Action} {rest : List Action} (h : s.offers k a rest) :
    s.takeAction k =
      if s.freeSlots < s.slotsNeeded a then
        { s with text := { s.text with waiting := some (.queueRoom (s.slotsNeeded a)) } }
      else (s.taken rest).perform a := by
  obtain ⟨_, hq, hk, hw, hr, hp, hs⟩ := h
  simp only [State.takeAction, hq]
  rw [if_pos]
  exact ⟨by simp [State.mayTakeAction, hw, hr, State.isDown, hp, hs], hk⟩

/-- An offered action with its slots free is handled. -/
theorem exec_offers {s : State} {k : ActionKind} {a : Action} {rest : List Action} (h : s.offers k a rest)
    (hs : s.slotsNeeded a ≤ s.freeSlots) : exec k.command s = .next (((s.taken rest).perform a).finish s) := by
  rw [exec_command h.1, State.takeAction_offers h, if_neg (by omega)]

/-- With no held run standing it is handled plainly. -/
theorem exec_plain {s : State} {k : ActionKind} {a : Action} {rest : List Action} (h : s.plain k a rest)
    (hs : s.slotsNeeded a ≤ s.freeSlots) : exec k.command s = .next (((s.taken rest).performPlain a true).finish s) := by
  rw [exec_offers h.1 hs]
  simp [State.perform, h.2]

/-- Taking an action changes the intake unit and the flow slot alone. -/
theorem State.taken_eq (s : State) (rest : List Action) : ∃ i l, s.taken rest = { s with intake := i, line := l } := by
  unfold State.taken
  split <;> exact ⟨_, _, rfl⟩

@[simp] theorem State.taken_freeSlots (s : State) (rest : List Action) : (s.taken rest).freeSlots = s.freeSlots := by
  simp [State.freeSlots]

/-- Setting the settings that stand changes nothing. -/
theorem State.taken_setSettings_self (s : State) (rest : List Action) :
    (s.taken rest).setSettings s.text.settings = s.taken rest := by
  obtain ⟨i, l, e⟩ := State.taken_eq s rest
  rw [e]
  rfl

/-! ## Tab stops (R7) -/

theorem mem_insertTab (p q : Nat) (l : List Nat) : q ∈ insertTab p l ↔ q ∈ l ∨ q = p := by
  induction l with
  | nil => simp [insertTab]
  | cons x xs ih =>
    simp only [insertTab]
    split
    · simp [or_comm]
    · split
      · next h => subst h; simp; intro h; exact .inl h
      · simp [ih, or_assoc]

theorem rising_insertTab (p : Nat) (l : List Nat) (h : rising l = true) : rising (insertTab p l) = true := by
  induction l with
  | nil => rfl
  | cons x xs ih =>
    simp only [insertTab]
    split
    · simp [rising, *]
    · split
      · exact h
      · have hx : rising xs = true := by cases xs <;> simp_all [rising]
        have := ih hx
        cases xs with
        | nil => simp [insertTab, rising]; omega
        | cons y ys =>
          simp only [insertTab] at this ⊢
          simp [rising] at h
          split
          · simp [rising]; simp_all; omega
          · split <;> simp_all [rising]

/-- The head of a rising list lies below the others. -/
theorem rising_head_lt {x : Nat} {xs : List Nat} (h : rising (x :: xs) = true) : ∀ y ∈ xs, x < y := by
  induction xs generalizing x with
  | nil => simp
  | cons y ys ih =>
    simp [rising] at h
    intro z hz
    rcases List.mem_cons.mp hz with rfl | hz
    · exact h.1
    · have := ih h.2 z hz
      omega

/-! ## Chains of entries (R41, R117, R119) -/

/-- A round of growing keeps the members that the pool holds. -/
theorem mem_growOnce {rel : Entry → Entry → Bool} {pool set : List Entry} {e : Entry} (hp : e ∈ pool) (hs : e ∈ set) :
    e ∈ growOnce rel pool set := by
  simp only [growOnce, List.mem_filter, List.any_eq_true]
  exact ⟨hp, e, hs, by simp⟩

/-- So do any number of rounds. -/
theorem mem_grow {rel : Entry → Entry → Bool} {pool : List Entry} {e : Entry} (hp : e ∈ pool) :
    ∀ (n : Nat) (set : List Entry), e ∈ set → e ∈ grow rel pool n set
  | 0, _, h => h
  | n + 1, _, h => mem_grow hp n _ (mem_growOnce hp h)

/-- An empty set grows to nothing. -/
theorem grow_nil (rel : Entry → Entry → Bool) (pool : List Entry) : ∀ n : Nat, grow rel pool n [] = []
  | 0 => rfl
  | n + 1 => by
    have h : growOnce rel pool [] = [] := by simp [growOnce]
    rw [grow, h]
    exact grow_nil rel pool n

/-- The members of a chain are entries of its pool, if those it began from are. -/
theorem grow_subset {rel : Entry → Entry → Bool} {pool : List Entry} :
    ∀ (n : Nat) (set : List Entry), (∀ e ∈ set, e ∈ pool) → ∀ e ∈ grow rel pool n set, e ∈ pool
  | 0, _, h => h
  | n + 1, _, _ => grow_subset n _ (fun _ he => (List.mem_filter.mp he).1)

/-- Entries of a list with distinct names that have one name are one. -/
theorem eq_of_id {l : List Entry} (hn : (l.map Entry.id).Nodup) {a b : Entry} (ha : a ∈ l) (hb : b ∈ l)
    (h : a.id = b.id) : a = b := by
  induction l with
  | nil => cases ha
  | cons x xs ih =>
    rw [List.map_cons, List.nodup_cons] at hn
    rcases List.mem_cons.mp ha with ha' | ha' <;> rcases List.mem_cons.mp hb with hb' | hb'
    · rw [ha', hb']
    · exact absurd (ha' ▸ h ▸ List.mem_map_of_mem hb') hn.1
    · exact absurd (hb' ▸ h ▸ List.mem_map_of_mem ha') hn.1
    · exact ih hn.2 ha' hb'

/-- A round of growing keeps what a part of the pool holds. -/
theorem growOnce_filter (rel : Entry → Entry → Bool) (pool : List Entry) (p : Entry → Bool) :
    ∃ q : Entry → Bool, (∀ e ∈ pool, p e = true → q e = true) ∧ growOnce rel pool (pool.filter p) = pool.filter q :=
  ⟨fun e => (pool.filter p).any (fun x => decide (x.id = e.id) || rel e x),
    fun e he hp => List.any_eq_true.mpr ⟨e, List.mem_filter.mpr ⟨he, hp⟩, by simp⟩, rfl⟩

theorem filter_eq_of_imp {pool : List Entry} {p q : Entry → Bool} (h : ∀ e ∈ pool, p e = true → q e = true)
    (hl : (pool.filter q).length ≤ (pool.filter p).length) : pool.filter q = pool.filter p := by
  have hs : (pool.filter p).Sublist (pool.filter q) := by
    have : pool.filter p = (pool.filter q).filter p := by
      rw [List.filter_filter]
      refine List.filter_congr (fun e he => ?_)
      have := h e he
      cases hp : p e <;> simp_all
    rw [this]
    exact List.filter_sublist
  exact (hs.eq_of_length_le hl).symm

theorem grow_fixed {rel : Entry → Entry → Bool} {pool set : List Entry} (h : growOnce rel pool set = set) :
    ∀ n : Nat, grow rel pool n set = set
  | 0 => rfl
  | n + 1 => by rw [grow, h]; exact grow_fixed h n

/-- After as many rounds as entries can still join, growing changes nothing. -/
theorem growOnce_grow (rel : Entry → Entry → Bool) (pool : List Entry) :
    ∀ (n : Nat) (p : Entry → Bool), pool.length ≤ n + (pool.filter p).length →
      growOnce rel pool (grow rel pool n (pool.filter p)) = grow rel pool n (pool.filter p) := by
  intro n
  induction n with
  | zero =>
    intro p hl
    obtain ⟨q, hq, e⟩ := growOnce_filter rel pool p
    rw [grow, e]
    exact filter_eq_of_imp hq (Nat.le_trans (List.length_filter_le _ _) (by omega))
  | succ n ih =>
    intro p hl
    obtain ⟨q, hq, e⟩ := growOnce_filter rel pool p
    rw [grow, e]
    by_cases h : (pool.filter q).length ≤ (pool.filter p).length
    · have he := filter_eq_of_imp hq h
      have hf : growOnce rel pool (pool.filter q) = pool.filter q := by rw [he, e, he]
      rw [grow_fixed hf, hf]
    · exact ih q (by omega)

/-- The closure of the entries of a pool that a test names, where the pool's names are distinct: the chained entries. -/
theorem mem_closure_iff {rel : Entry → Entry → Bool} {pool : List Entry} (hn : (pool.map Entry.id).Nodup)
    (p : Entry → Bool) (y : Entry) :
    y ∈ closure rel pool (pool.filter p) ↔ Chained (fun a b => rel a b = true) (· ∈ pool) (fun x => p x = true) y := by
  have hid : ∀ a ∈ pool, ∀ b ∈ pool, a.id = b.id → a = b := fun a ha b hb h => eq_of_id hn ha hb h
  constructor
  · have : ∀ (n : Nat) (set : List Entry),
        (∀ e ∈ set, Chained (fun a b => rel a b = true) (· ∈ pool) (fun x => p x = true) e) →
        ∀ e ∈ grow rel pool n set, Chained (fun a b => rel a b = true) (· ∈ pool) (fun x => p x = true) e := by
      intro n
      induction n with
      | zero => exact fun set h => h
      | succ n ih =>
        intro set h
        refine ih _ (fun e he => ?_)
        simp only [growOnce, List.mem_filter, List.any_eq_true, Bool.or_eq_true, decide_eq_true_eq] at he
        obtain ⟨he, x, hx, h1 | h1⟩ := he
        · have hc := h x hx
          have hm : x ∈ pool := by cases hc <;> assumption
          exact hid x hm e he h1 ▸ hc
        · exact .joins (h x hx) he h1
    exact this _ _ (fun e he => .starts (List.mem_filter.mp he).1 (List.mem_filter.mp he).2) y
  · intro h
    induction h with
    | starts h hs => exact mem_grow h _ _ (List.mem_filter.mpr ⟨h, hs⟩)
    | @joins x z hx h hl ih =>
      rw [closure, ← growOnce_grow rel pool pool.length p (by omega)]
      simp only [growOnce, List.mem_filter, List.any_eq_true]
      exact ⟨h, x, ih, by simp [hl]⟩

/-- Chains over equal relations and tests are one. -/
theorem Chained.congr {l l' : Entry → Entry → Prop} {p p' q q' : Entry → Prop} (hl : ∀ a b, l a b ↔ l' a b)
    (hp : ∀ a, p a ↔ p' a) (hq : ∀ a, q a ↔ q' a) (y : Entry) : Chained l p q y ↔ Chained l' p' q' y := by
  have h1 : l = l' := funext (fun a => funext (fun b => propext (hl a b)))
  have h2 : p = p' := funext (fun a => propext (hp a))
  have h3 : q = q' := funext (fun a => propext (hq a))
  rw [h1, h2, h3]

theorem linked_iff (a b : Entry) : linked a b = true ↔ Touching a b := by
  rw [linked, Bool.or_eq_true, Bool.or_eq_true, or_assoc]
  exact or_congr decide_eq_true_iff (or_congr decide_eq_true_iff decide_eq_true_iff)

theorem isLetter_iff (c : Nat) : isLetter c = true ↔ Letter c := by
  simp [isLetter, within, Letter]

theorem LineRecord.mem_chars {r : LineRecord} {e : Entry} : e ∈ r.chars ↔ e ∈ r.entries ∧ e.kind = .character := by
  simp [LineRecord.chars, Entry.isChar]

/-- The entries of a part of a record have distinct names if the record's have. -/
theorem nodup_filter {l : List Entry} (hn : (l.map Entry.id).Nodup) (p : Entry → Bool) :
    ((l.filter p).map Entry.id).Nodup :=
  hn.sublist (List.filter_sublist.map _)

/-- The letter run of an entry is the chain of R117. -/
theorem LineRecord.mem_letterRun {r : LineRecord} (hn : (r.entries.map Entry.id).Nodup) (e y : Entry) :
    y ∈ r.letterRun e.id ↔ r.InLetterRun e y := by
  exact (mem_closure_iff (nodup_filter (nodup_filter hn Entry.isChar) _) _ y).trans (Chained.congr linked_iff
    (fun a => by simp [Entry.isChar, isLetter_iff, and_comm, and_left_comm]) (fun a => by simp) y)

/-- The word at a point is the chain of R41. -/
theorem LineRecord.mem_wordAt {r : LineRecord} (hn : (r.entries.map Entry.id).Nodup) (p : Nat) (y : Entry) :
    y ∈ r.wordAt p ↔
      Chained (fun a b => a.pos + a.width = b.pos ∨ a.pos = b.pos) (fun e => e ∈ r.entries ∧ e.kind = .character)
        (fun e => e.pos + e.width = p) y := by
  exact (mem_closure_iff (nodup_filter hn Entry.isChar) _ y).trans
    (Chained.congr (fun a b => by rw [leadsInto, Bool.or_eq_true]; exact or_congr decide_eq_true_iff decide_eq_true_iff)
      (fun a => LineRecord.mem_chars)
      (fun a => decide_eq_true_iff) y)

/-- The token of a word point is the chain of R119. -/
theorem LineRecord.mem_tokenAt {r : LineRecord} (hn : (r.entries.map Entry.id).Nodup) (p : Nat) (y : Entry) :
    y ∈ r.tokenAt p ↔
      Chained Touching
        (fun e => e ∈ r.entries ∧ e.kind = .character ∧ (Letter e.char ∨ e.char = 39 ∨ 48 ≤ e.char ∧ e.char ≤ 57))
        (fun e => e.pos + e.width = p) y := by
  exact (mem_closure_iff (nodup_filter (nodup_filter hn Entry.isChar) _) _ y).trans (Chained.congr linked_iff
    (fun a => by simp [Entry.isChar, continuesWord, isLetter_iff, isDigit, within, or_assoc, and_comm])
    (fun a => decide_eq_true_iff) y)

/-- A list of no entries has no newest. -/
theorem newest_eq_none {l : List Entry} : newest l = none ↔ l = [] := by cases l <;> simp [newest]

/-- The word at a point is empty exactly when no character ends there. -/
theorem LineRecord.wordAt_isEmpty (r : LineRecord) (p : Nat) :
    (r.wordAt p).isEmpty = true ↔ r.newestEndingAt p = none := by
  simp only [LineRecord.wordAt, LineRecord.newestEndingAt, newest_eq_none, List.isEmpty_iff, closure]
  constructor
  · intro h
    refine List.eq_nil_iff_forall_not_mem.mpr (fun e he => ?_)
    have := mem_grow (rel := leadsInto) (List.mem_filter.mp he).1 r.chars.length _ he
    rw [h] at this
    cases this
  · intro h
    rw [h, grow_nil]

/-- Every entry of a word is a character of the record. -/
theorem LineRecord.wordAt_subset (r : LineRecord) (p : Nat) : ∀ e ∈ r.wordAt p, e ∈ r.chars :=
  grow_subset _ _ (fun _ he => (List.mem_filter.mp he).1)

/-! ## The order of a record (R1, R2) -/

theorem mem_insertEntry (e x : Entry) (l : List Entry) : x ∈ insertEntry e l ↔ x = e ∨ x ∈ l := by
  induction l with
  | nil => simp [insertEntry]
  | cons y ys ih =>
    simp only [insertEntry]
    split
    · simp
    · simp only [List.mem_cons, ih]
      constructor
      · rintro (h | h | h) <;> simp [h]
      · rintro (h | h | h) <;> simp [h]

theorem perm_insertEntry (e : Entry) (l : List Entry) : (insertEntry e l).Perm (e :: l) := by
  induction l with
  | nil => exact List.Perm.refl _
  | cons y ys ih =>
    simp only [insertEntry]
    split
    · exact List.Perm.refl _
    · exact (ih.cons y).trans (List.Perm.swap e y ys)

theorem perm_sortEntries (l : List Entry) : (sortEntries l).Perm l := by
  suffices h : ∀ (l acc : List Entry), (l.foldl (fun acc e => insertEntry e acc) acc).Perm (l ++ acc) by
    simpa [sortEntries] using h l []
  intro l
  induction l with
  | nil => exact fun acc => List.Perm.refl _
  | cons e es ih =>
    intro acc
    refine (ih (insertEntry e acc)).trans ?_
    refine ((perm_insertEntry e acc).append_left es).trans ?_
    simp [List.perm_middle]

end Sys2Proof.Machine
end

