-- ==== Sys2Proof/Laws/Words.lean ====
section
/-! SUPPORT. What the shared operations of the spelling unit's lookups, of the home search, of the brake and of the dirty mark can do. -/

namespace Sys2Proof.Machine

/-! ## Word records that are let go (R121, R123, R136) -/

@[simp] theorem Spelling.letGo_records (sp : Spelling) (gone : List Nat) : (sp.letGo gone).records = sp.records := rfl
@[simp] theorem Spelling.letGo_nextRecord (sp : Spelling) (gone : List Nat) : (sp.letGo gone).nextRecord = sp.nextRecord := rfl
@[simp] theorem Spelling.letGo_tagCounter (sp : Spelling) (gone : List Nat) : (sp.letGo gone).tagCounter = sp.tagCounter := rfl
@[simp] theorem Spelling.letGo_timeoutRun (sp : Spelling) (gone : List Nat) : (sp.letGo gone).timeoutRun = sp.timeoutRun := rfl
@[simp] theorem Spelling.letGo_userList (sp : Spelling) (gone : List Nat) : (sp.letGo gone).userList = sp.userList := rfl
@[simp] theorem Spelling.letGo_writing (sp : Spelling) (gone : List Nat) : (sp.letGo gone).writing = sp.writing := rfl
@[simp] theorem Spelling.letGo_writePending (sp : Spelling) (gone : List Nat) : (sp.letGo gone).writePending = sp.writePending := rfl

/-- The lookup under way keeps its record unless that record is let go. -/
theorem Spelling.letGo_lookup {sp : Spelling} {gone : List Nat} {k : Lookup} (h : (sp.letGo gone).lookup = some k) :
    ∃ k₀, sp.lookup = some k₀ ∧ k.listed = k₀.listed
      ∧ k.record = k₀.record.filter (fun i => !gone.contains i) := by
  obtain ⟨k₀, h₀, rfl⟩ := Option.map_eq_some_iff.mp h
  exact ⟨k₀, h₀, rfl, rfl⟩

/-- Dropping word records leaves the spelling unit without them (R121). -/
theorem Spelling.dropWhere_eq (sp : Spelling) (f : WordRecord → Bool) : sp.dropWhere f = sp.without f := by
  have h (i : Nat) : ((sp.records.filter f).map WordRecord.id).contains i
      = sp.records.any (fun r => f r && decide (r.id = i)) := by
    rw [Bool.eq_iff_iff]
    simp [and_assoc]
  simp only [Spelling.dropWhere, Spelling.letGo, Spelling.without, h]

/-- Without some records and then without others. -/
theorem Spelling.without_or (sp : Spelling) (f g : WordRecord → Bool) :
    (sp.without f).without g = sp.without (fun r => f r || g r) := by
  have h (i : Nat) : (sp.records.any (fun r => (f r || g r) && decide (r.id = i)))
      = (sp.records.any (fun r => f r && decide (r.id = i))
        || (sp.records.filter (fun r => !f r)).any (fun r => g r && decide (r.id = i))) := by
    rw [List.any_filter, Bool.eq_iff_iff, Bool.or_eq_true, List.any_eq_true, List.any_eq_true, List.any_eq_true]
    constructor
    · rintro ⟨r, hr, hb⟩
      cases hf : f r
      · exact .inr ⟨r, hr, by simpa [hf] using hb⟩
      · exact .inl ⟨r, hr, by simpa [hf] using hb⟩
    · rintro (⟨r, hr, hb⟩ | ⟨r, hr, hb⟩) <;> refine ⟨r, hr, ?_⟩
      · simp_all
      · simp_all
  simp only [Spelling.without, List.filter_filter, List.map_map, Option.map_map, Function.comp_def, Option.filter_filter, h,
    Bool.not_or, Bool.and_comm]

/-- Without no record nothing changes. -/
theorem Spelling.without_none (sp : Spelling) : sp.without (fun _ => false) = sp := by
  have h (o : Option Nat) : o.filter (fun i => !sp.records.any (fun r => false && decide (r.id = i))) = o := by
    cases o <;> simp [Option.filter]
  have hk (o : Option Lookup) : o.map (fun k => { k with record := k.record }) = o := by cases o <;> rfl
  have hr : sp.records.filter (fun _ => !false) = sp.records := List.filter_eq_self.mpr (by simp)
  have hw : sp.waitList.filter (fun i => !sp.records.any (fun r => false && decide (r.id = i))) = sp.waitList :=
    List.filter_eq_self.mpr (by simp)
  simp only [Spelling.without, h, hk, hr, hw, List.map_id']

/-! ## Tokens and the records that hold them (R119, R120) -/

/-- Two of some entries share a position exactly if the positions are not distinct. -/
theorem sharesPosition_iff (l : List Entry) : sharesPosition l = true ↔ ¬(l.map Entry.pos).Nodup := by
  induction l with
  | nil => simp [sharesPosition]
  | cons e es ih =>
    simp only [sharesPosition, Bool.or_eq_true, List.any_eq_true, decide_eq_true_eq, ih, List.map_cons, List.nodup_cons,
      List.mem_map]
    by_cases h : ∃ x, x ∈ es ∧ x.pos = e.pos
    · simp [h]
    · simp [h]

/-- Leading apostrophes are set aside up to the first other character. -/
theorem dropLeading_append (l m : List Entry) (h : ∀ e ∈ l, e.char = 39) (hm : ∀ e, m.head? = some e → e.char ≠ 39) :
    dropLeading (l ++ m) = m := by
  induction l with
  | nil =>
    cases m with
    | nil => rfl
    | cons x xs => simp [dropLeading, hm x rfl]
  | cons x xs ih =>
    simp only [List.cons_append, dropLeading, h x (by simp), if_true]
    exact ih (fun e he => h e (by simp [he]))

/-- Of apostrophes alone nothing is left. -/
theorem dropLeading_all (l : List Entry) (h : ∀ e ∈ l, e.char = 39) : dropLeading l = [] := by
  simpa using dropLeading_append l [] h (by simp)

/-- A token less its leading and trailing apostrophes is the part between them. -/
theorem trimmed_eq (lead w trail : List Entry) (h1 : ∀ e ∈ lead, e.char = 39) (h2 : ∀ e ∈ trail, e.char = 39)
    (h3 : ∀ e, w.head? = some e → e.char ≠ 39) (h4 : ∀ e, w.getLast? = some e → e.char ≠ 39) :
    trimmed (lead ++ w ++ trail) = w := by
  rcases w with _ | ⟨x, xs⟩
  · have : dropLeading (lead ++ [] ++ trail) = [] := dropLeading_all _ (by
      intro e he
      simp at he
      exact he.elim (h1 e) (h2 e))
    simp only [trimmed, this]; rfl
  · rw [trimmed, List.append_assoc, dropLeading_append lead _ h1 (by simpa using h3), List.reverse_append,
      dropLeading_append _ _ (by simpa using h2) (by rw [List.head?_reverse]; exact h4), List.reverse_reverse]

/-- The word is recorded already exactly if a record of the working line names its entries and no other and holds its letters. -/
theorem Spelling.holdsWord_iff (sp : Spelling) (es ls : List Nat) : sp.holdsWord es ls = true ↔
    ∃ r ∈ sp.records, r.line = .working ∧ (∀ i, i ∈ r.entries ↔ i ∈ es) ∧ r.letters = ls := by
  simp only [Spelling.holdsWord, List.any_eq_true, Bool.and_eq_true, decide_eq_true_eq, sameEntries, List.all_eq_true,
    List.contains_iff_mem, and_assoc]
  refine exists_congr (fun r => and_congr Iff.rfl (and_congr Iff.rfl ?_))
  constructor
  · rintro ⟨h1, h2, h3⟩
    exact ⟨fun i => ⟨h1 i, h2 i⟩, h3⟩
  · rintro ⟨h1, h3⟩
    exact ⟨fun i h => (h1 i).mp h, fun i h => (h1 i).mpr h, h3⟩

/-! ## The lookup under way (R123) -/

/-- Beginning a lookup changes the lookup alone, and only where none is under way. -/
theorem Spelling.beginLookup_eq (sp : Spelling) :
    sp.beginLookup
      = { sp with
          lookup := match sp.lookup with
            | some k => some k
            | none => sp.firstLooking.map (fun r => { record := some r.id, listed := sp.userList.contains r.letters }) } := by
  unfold Spelling.beginLookup
  rcases sp with ⟨_, _, _ | _, _⟩ <;> rfl

/-- The word is found in the user list where the list held it from the beginning of the lookup to its end, whenever the lookup
passes the list. -/
theorem Spelling.listGives_of_stands {sp : Spelling} {k : Lookup} {r : WordRecord} (h : k.listed = true)
    (hc : sp.userList.contains r.letters = true) : sp.listGives k r = true := by
  unfold Spelling.listGives
  rw [hc, h]
  rfl

/-- A word that the list held neither at the beginning of the lookup nor at its end is not found there. -/
theorem Spelling.listGives_of_absent {sp : Spelling} {k : Lookup} {r : WordRecord} (h : k.listed = false)
    (hc : sp.userList.contains r.letters = false) : sp.listGives k r = false := by
  unfold Spelling.listGives
  rw [hc, h]
  rfl

/-- With no lookup under way LOOKUP_END's operation changes nothing. -/
theorem State.endLookup_of_none {s : State} (h : s.spell.lookup = none) : s.endLookup = s := by
  unfold State.endLookup
  rw [h]

/-! ## The internal list and the endings (R124 to R126) -/

/-- A candidate stem ends in a doubled consonant, and `stem` is it less its last letter, exactly if it is some letters with the same
consonant twice behind them, and `stem` has it once. -/
theorem endsDoubled_iff (c stem : List Nat) :
    (endsDoubled c = true ∧ stem = c.dropLast)
      ↔ ∃ (d : List Nat) (x : Nat), c = d ++ [x, x] ∧ x ∉ [97, 101, 105, 111, 117] ∧ stem = d ++ [x] := by
  constructor
  · rintro ⟨h, rfl⟩
    rw [endsDoubled] at h
    rcases hr : c.reverse with _ | ⟨x, _ | ⟨y, l⟩⟩ <;> simp only [hr] at h
    · simp at h
    · simp at h
    · have hc : c = l.reverse ++ [y, x] := by simpa using congrArg List.reverse hr
      simp at h
      obtain ⟨rfl, h⟩ := h
      exact ⟨l.reverse, x, hc, by simpa using h, by rw [hc]; simp [List.dropLast_append_of_ne_nil]⟩
  · rintro ⟨d, x, rfl, hx, rfl⟩
    exact ⟨by simpa [endsDoubled] using hx, by simp [List.dropLast_append_of_ne_nil]⟩

/-- An ending knows a word exactly if the word is a stem candidate of 2 letters or more with the ending behind it, and the internal
list holds one of the candidate's stems with the ending's flag. -/
theorem Ending.knows_iff (g : Ending) (w : List Nat) :
    g.knows w = true
      ↔ ∃ (c stem : List Nat) (f : Config.EndingFlags), w = c ++ g.letters ∧ 2 ≤ c.length ∧ stem ∈ g.candidates c
        ∧ Config.stem stem = some f ∧ g.allowedBy f = true := by
  simp only [Ending.knows, endsWith, Bool.and_eq_true, decide_eq_true_eq, List.any_eq_true]
  constructor
  · rintro ⟨⟨⟨_, h2⟩, h3⟩, stem, h4, h5⟩
    rcases hs : Config.stem stem with _ | f
    · simp [hs] at h5
    · have hw := List.take_append_drop (w.length - g.letters.length) w
      rw [h2] at hw
      exact ⟨w.take (w.length - g.letters.length), stem, f, hw.symm, h3, h4, hs, by simpa [hs] using h5⟩
  · rintro ⟨c, stem, f, rfl, h2, h3, h4, h5⟩
    have : (c ++ g.letters).take ((c ++ g.letters).length - g.letters.length) = c := by simp
    rw [this]
    exact ⟨⟨⟨by simp, by simp⟩, h2⟩, stem, h3, by simp [h4, h5]⟩

/-! ## The home search (R84) -/

/-- A channel that does not search takes no notice of the home sensor. -/
theorem Carriage.tripHome_of_not {c : Carriage} (h : c.seeksHome = false) : c.tripHome = c := by
  simp [Carriage.tripHome, h]

/-! ## The brake (R85, R87) -/

/-- At the end of a stall's brake the channel is released and reports the stall. -/
theorem Carriage.endBrake_stall {c : Carriage} (h : c.phase = .brake .stall) : c.endBrake = (c.release, .stalled) := by
  simp [Carriage.endBrake, h]

/-- At the end of a stop's brake it is released and reports nothing. -/
theorem Carriage.endBrake_silent {c : Carriage} (h : c.phase = .brake .silent) : c.endBrake = (c.release, .unchecked) := by
  simp [Carriage.endBrake, h]

/-- A channel that has been released takes no notice of a stop. -/
@[simp] theorem Carriage.release_stop (c : Carriage) : c.release.stop = c.release := rfl

/-! ## The dirty mark (R146) -/

/-- A part of an event that marks its changes is the part itself but for the dirty mark. -/
theorem State.marking_eq (s : State) (f : State → State) :
    s.marking f = { f s with display := { (f s).display with dirty := (f s).display.dirty || dirtied s (f s) } } := rfl

@[simp] theorem State.marking_text (s : State) (f : State → State) : (s.marking f).text = (f s).text := rfl
@[simp] theorem State.marking_engine (s : State) (f : State → State) : (s.marking f).engine = (f s).engine := rfl
@[simp] theorem State.marking_drive (s : State) (f : State → State) : (s.marking f).drive = (f s).drive := rfl
@[simp] theorem State.marking_corr (s : State) (f : State → State) : (s.marking f).corr = (f s).corr := rfl
@[simp] theorem State.marking_spell (s : State) (f : State → State) : (s.marking f).spell = (f s).spell := rfl
@[simp] theorem State.marking_supply (s : State) (f : State → State) : (s.marking f).supply = (f s).supply := rfl
@[simp] theorem State.marking_line (s : State) (f : State → State) : (s.marking f).line = (f s).line := rfl
@[simp] theorem State.marking_intake (s : State) (f : State → State) : (s.marking f).intake = (f s).intake := rfl
@[simp] theorem State.marking_retained (s : State) (f : State → State) : (s.marking f).retained = (f s).retained := rfl
@[simp] theorem State.marking_pins (s : State) (f : State → State) : (s.marking f).pins = (f s).pins := rfl
@[simp] theorem State.marking_pending (s : State) (f : State → State) : (s.marking f).pending = (f s).pending := rfl

end Sys2Proof.Machine
end

