-- ==== Sys2Proof/Laws/Removal.lean ====
section
/-! SUPPORT. What the removal of CHARACTER entries of the working line leaves (R3, R117, R121). -/

namespace Sys2Proof.Machine

/-! ## A completed item (R107) -/

@[simp] theorem State.completeItem_work (s : State) (e : Entry) : (s.completeItem e).text.work = s.text.work := by
  unfold State.completeItem
  split
  · dsimp only
    split <;> rfl
  · rfl

@[simp] theorem State.completeItem_print (s : State) (e : Entry) : (s.completeItem e).text.print = s.text.print := by
  unfold State.completeItem
  split
  · dsimp only
    split <;> rfl
  · rfl

@[simp] theorem State.completeItem_spell (s : State) (e : Entry) : (s.completeItem e).spell = s.spell := by
  unfold State.completeItem
  split <;> rfl

/-! ## One removal -/

/-- The word records that name the entry are dropped. -/
theorem State.removeOwner_spell (s : State) (e : Entry) :
    (s.removeOwner e).spell = s.spell.without (fun r => r.entries.any (fun i => [e.id].contains i)) := by
  simp only [State.removeOwner, State.completeItem_spell, ← Spelling.dropWhere_eq]
  rfl

/-- The entry leaves the working line with its companions, and its letter run takes the mark NONE. -/
theorem State.removeOwner_work (s : State) (e : Entry) :
    (s.removeOwner e).text.work.entries
      = (s.text.work.entries.filter (fun y => !(e.id :: s.text.companions e.id).contains y.id)).map
          (fun y => if (s.text.letterRun e.id).contains (ownerId y) then { y with mark := .plain } else y) := by
  simp only [State.removeOwner, State.completeItem_work]
  rfl

theorem TextUnit.mem_companions (t : TextUnit) (id i : Nat) :
    i ∈ t.companions id ↔ ∃ y ∈ t.allEntries, y.owner = some id ∧ y.id = i := by
  simp [TextUnit.companions, and_assoc]

/-- An entry of the working line goes out with `e` if it is `e` or a companion of it. -/
theorem State.goesOut_iff {s : State} (hn : (s.text.allEntries.map Entry.id).Nodup) {e y : Entry}
    (hy : y ∈ s.text.work.entries) :
    (e.id :: s.text.companions e.id).contains y.id = true ↔ y.id = e.id ∨ y.owner = some e.id := by
  have ha : y ∈ s.text.allEntries := List.mem_append_left _ hy
  rw [List.contains_iff_mem, List.mem_cons, TextUnit.mem_companions]
  refine or_congr Iff.rfl ⟨?_, fun h => ⟨y, ha, h, rfl⟩⟩
  rintro ⟨z, hz, ho, hi⟩
  exact eq_of_id hn hz ha hi ▸ ho

/-- The letter run that a removal marks meets an entry of the working line in the letter run of the working line alone. -/
theorem State.letterRun_iff {s : State} (hn : (s.text.allEntries.map Entry.id).Nodup) (ho : s.text.work.Owned)
    {e y : Entry} (hy : y ∈ s.text.work.entries) :
    (s.text.letterRun e.id).contains (ownerId y) = true ↔ ∃ x, s.text.work.InLetterRun e x ∧ ownerId y = x.id := by
  have hw : (s.text.work.entries.map Entry.id).Nodup := by
    refine hn.sublist (List.Sublist.map _ ?_)
    exact List.sublist_append_left _ _
  have key : ∀ p, s.text.print = some p → ∀ z ∈ p.record.entries, ownerId y ≠ z.id := by
    intro p hp z hz h
    have hall : s.text.allEntries = s.text.work.entries ++ p.record.entries := by simp [TextUnit.allEntries, hp]
    have hd : ∀ a ∈ s.text.work.entries, a.id ≠ z.id := by
      intro a ha
      rw [hall, List.map_append, List.nodup_append] at hn
      exact hn.2.2 _ (List.mem_map_of_mem ha) _ (List.mem_map_of_mem hz)
    by_cases hk : y.kind = .character
    · have := ho.1 y hy hk
      exact hd y hy (by simpa [ownerId, this] using h)
    · obtain ⟨o, hmo, h1, _⟩ := ho.2 y hy hk
      exact hd o hmo (by simpa [ownerId, h1] using h)
  rw [List.contains_iff_mem, TextUnit.letterRun]
  rcases hp : s.text.print with _ | p
  · simp only [List.mem_map, LineRecord.mem_letterRun hw]
    exact exists_congr (fun x => and_congr Iff.rfl eq_comm)
  · simp only [List.map_append, List.mem_append, List.mem_map, LineRecord.mem_letterRun hw]
    constructor
    · rintro (⟨x, h1, h2⟩ | ⟨x, h1, h2⟩)
      · exact ⟨x, h1, h2.symm⟩
      · have : x ∈ p.record.chars := by
          exact (List.mem_filter.mp (grow_subset _ _ (fun _ he => (List.mem_filter.mp he).1) x h1)).1
        exact absurd h2.symm (key p hp x (LineRecord.mem_chars.mp this).1)
    · rintro ⟨x, h1, h2⟩
      exact .inl ⟨x, h1, h2.symm⟩

/-- What the removal of a CHARACTER entry with its companions leaves (R3, R117, R121). -/
theorem State.removeOwner_removed {s : State} (hn : (s.text.allEntries.map Entry.id).Nodup) (ho : s.text.work.Owned)
    (e : Entry) : Removed s [e] (s.removeOwner e) := by
  refine ⟨fun y hy h => ?_, fun z hz => ?_, by simpa using s.removeOwner_spell e⟩
  · rw [State.removeOwner_work]
    have hout : ¬(y.id = e.id ∨ y.owner = some e.id) := by simpa using h
    refine ⟨_, List.mem_map_of_mem (List.mem_filter.mpr ⟨hy, ?_⟩), ?_, ?_, ?_⟩
    · rw [← State.goesOut_iff hn hy] at hout
      simpa using hout
    · split <;> rfl
    · intro hr
      rw [if_pos]
      exact (State.letterRun_iff hn ho hy).mpr (by simpa using hr)
    · intro hr
      rw [if_neg]
      exact fun hc => hr (by simpa using (State.letterRun_iff hn ho hy).mp hc)
  · rw [State.removeOwner_work] at hz
    obtain ⟨y, hy, rfl⟩ := List.mem_map.mp hz
    obtain ⟨hy, hc⟩ := List.mem_filter.mp hy
    refine ⟨y, hy, by split <;> rfl, fun h => ?_⟩
    rw [(State.goesOut_iff hn hy).mpr (by simpa using h)] at hc
    cases hc

/-- A removal brings no name into the records. -/
theorem State.removeOwner_allEntries (s : State) (e : Entry) :
    ((s.removeOwner e).text.allEntries.map Entry.id).Sublist (s.text.allEntries.map Entry.id) := by
  have key : ∀ (l : List Entry) (f : Entry → Bool) (m : List Nat),
      (((l.filter f).map (fun y => if m.contains (ownerId y) then { y with mark := .plain } else y)).map Entry.id).Sublist
        (l.map Entry.id) := by
    intro l f m
    rw [List.map_map]
    have : (Entry.id ∘ fun y => if m.contains (ownerId y) then { y with mark := .plain } else y) = Entry.id := by
      funext y
      simp only [Function.comp]
      split <;> rfl
    rw [this]
    exact List.filter_sublist.map _
  have hp : (s.removeOwner e).text.print = ((s.takeOut (e.id :: s.text.companions e.id)).text.setMarks
      (s.text.letterRun e.id) .plain).print := by
    simp only [State.removeOwner, State.completeItem_print]
  rw [TextUnit.allEntries, TextUnit.allEntries, hp, State.removeOwner_work, List.map_append, List.map_append]
  refine (key _ _ _).append ?_
  rcases h : s.text.print with _ | p
  · simp [TextUnit.setMarks, TextUnit.mapRecords, State.takeOut, State.clearRefs, h]
  · simp only [TextUnit.setMarks, TextUnit.mapRecords, State.takeOut, State.clearRefs, h, Option.map_some]
    exact key _ _ _

/-- The names of the working line are distinct if those of both records are. -/
theorem nodup_work {t : TextUnit} (hn : (t.allEntries.map Entry.id).Nodup) : (t.work.entries.map Entry.id).Nodup :=
  hn.sublist ((List.sublist_append_left _ _).map _)

/-! ## One removal after another -/

/-- An entry that is left is one that stood, but for its mark. -/
theorem Removed.back {s u : State} {es : List Entry} (h : Removed s es u) (hu : (u.text.work.entries.map Entry.id).Nodup)
    {z : Entry} (hz : z ∈ u.text.work.entries) :
    ∃ y ∈ s.text.work.entries, z = { y with mark := z.mark }
      ∧ ¬(y.id ∈ es.map Entry.id ∨ ∃ i ∈ es.map Entry.id, y.owner = some i) := by
  obtain ⟨y, hy, hi, ho⟩ := h.2.1 z hz
  obtain ⟨z', hz', he, _⟩ := h.1 y hy ho
  have hid : z'.id = y.id := by rw [he]
  have := eq_of_id hu hz' hz (hid.trans hi)
  subst this
  exact ⟨y, hy, he, ho⟩

/-- The companions that are left stand with their owners. -/
theorem Removed.owned {s u : State} {es : List Entry} (h : Removed s es u) (hu : (u.text.work.entries.map Entry.id).Nodup)
    (ho : s.text.work.Owned) : u.text.work.Owned := by
  constructor
  · intro z hz hk
    obtain ⟨y, hy, he, _⟩ := h.back hu hz
    rw [he] at hk ⊢
    exact ho.1 y hy hk
  · intro z hz hk
    obtain ⟨y, hy, he, hn⟩ := h.back hu hz
    rw [he] at hk ⊢
    obtain ⟨o, hmo, h1, h2⟩ := ho.2 y hy hk
    obtain ⟨o', hmo', h3, _⟩ := h.1 o hmo (by
      rintro (h4 | ⟨i, _, h4⟩)
      · exact hn (.inr ⟨_, h4, h1⟩)
      · rw [ho.1 o hmo h2] at h4
        cases h4)
    refine ⟨o', hmo', ?_, ?_⟩ <;> rw [h3]
    · exact h1
    · exact h2

/-- A removal and those after it are one removal: a letter run that an earlier removal cuts has lost its marks in it. -/
theorem Removed.trans {s t u : State} {e : Entry} {es : List Entry} (ht : (t.text.work.entries.map Entry.id).Nodup) (ho : s.text.work.Owned)
    (h1 : Removed s [e] t) (h2 : Removed t es u) : Removed s (e :: es) u := by
  -- the chains of `t`, and those of `s`
  have up : ∀ e' x, t.text.work.InLetterRun e' x →
      ∃ y, s.text.work.InLetterRun e' y ∧ y.id = x.id ∧ y.pos = x.pos ∧ y.width = x.width := by
    intro e' x hx
    induction hx with
    | @starts x h hs' =>
      obtain ⟨y, hy, he, _⟩ := h1.back ht h.1
      rw [he] at h hs' ⊢
      exact ⟨y, .starts ⟨hy, h.2⟩ hs', rfl, rfl, rfl⟩
    | @joins x z hx h hl ih =>
      obtain ⟨y, hy, he, _⟩ := h1.back ht h.1
      obtain ⟨w, hw, h4, h5, h6⟩ := ih
      rw [he] at h hl ⊢
      refine ⟨y, .joins hw ⟨hy, h.2⟩ ?_, rfl, rfl, rfl⟩
      simpa [Touching, h5, h6] using hl
  have down : ∀ e' x, s.text.work.InLetterRun e' x → s.text.work.InLetterRun e x
      ∨ ∃ y, t.text.work.InLetterRun e' y ∧ y.id = x.id ∧ y.pos = x.pos ∧ y.width = x.width := by
    intro e' x hx
    have stay : ∀ y ∈ s.text.work.entries, y.kind = .character → y.id ≠ e.id → ∃ z ∈ t.text.work.entries,
        z = { y with mark := z.mark } := by
      intro y hy hk hne
      obtain ⟨z, hz, he, _⟩ := h1.1 y hy (by simp [hne, ho.1 y hy hk])
      exact ⟨z, hz, he⟩
    induction hx with
    | @starts x h hs' =>
      by_cases hx : x.id = e.id
      · exact .inl (.starts h hx)
      · obtain ⟨z, hz, he⟩ := stay x h.1 h.2.1 hx
        refine .inr ⟨z, .starts ⟨hz, ?_⟩ ?_, ?_⟩
        · rw [he]; exact h.2
        · rw [he]; exact hs'
        · rw [he]; exact ⟨rfl, rfl, rfl⟩
    | @joins x z hx h hl ih =>
      by_cases hz : z.id = e.id
      · exact .inl (.starts h hz)
      · rcases ih with ih | ⟨w, hw, h4, h5, h6⟩
        · exact .inl (.joins ih h hl)
        · obtain ⟨y, hy, he⟩ := stay z h.1 h.2.1 hz
          refine .inr ⟨y, .joins hw ⟨hy, ?_⟩ ?_, ?_⟩
          · rw [he]; exact h.2
          · rw [he]; simpa [Touching, h5, h6] using hl
          · rw [he]; exact ⟨rfl, rfl, rfl⟩
  refine ⟨fun y hy hn => ?_, fun z hz => ?_, ?_⟩
  · simp only [List.map_cons, List.mem_cons, not_or, not_exists, not_and] at hn
    obtain ⟨z, hz, he, hp, hq⟩ := h1.1 y hy (by simp [hn.1.1, hn.2 e.id])
    obtain ⟨v, hv, he', hp', hq'⟩ := h2.1 z hz (by
      rw [he]
      rintro (h | ⟨i, hi, h⟩)
      · exact hn.1.2 h
      · exact hn.2 i (.inr hi) h)
    have hown : ownerId z = ownerId y := by rw [he]; rfl
    refine ⟨v, hv, ?_, ?_, ?_⟩
    · rw [he', he]
    · rintro ⟨e', he1, x, hx, hox⟩
      by_cases hin : ∃ x, s.text.work.InLetterRun e x ∧ ownerId y = x.id
      · have hz1 := hp ⟨e, by simp, hin⟩
        by_cases hin' : ∃ e ∈ es, ∃ x, t.text.work.InLetterRun e x ∧ ownerId z = x.id
        · exact hp' hin'
        · rw [hq' hin', hz1]
      · rcases List.mem_cons.mp he1 with rfl | he1
        · exact absurd ⟨x, hx, hox⟩ hin
        · rcases down e' x hx with h | ⟨w, hw, h4, _⟩
          · exact absurd ⟨x, h, hox⟩ hin
          · exact hp' ⟨e', he1, w, hw, by rw [hown, hox, h4]⟩
    · intro hnot
      rw [hq', hq]
      · rintro ⟨e', he1, h⟩
        exact hnot ⟨e', by rw [List.mem_singleton] at he1; simp [he1], h⟩
      · rintro ⟨e', he1, x, hx, hox⟩
        obtain ⟨w, hw, h4, _⟩ := up e' x hx
        exact hnot ⟨e', List.mem_cons_of_mem _ he1, w, hw, by rw [← hown, hox, h4]⟩
  · obtain ⟨y, hy, hi, hn⟩ := h2.2.1 z hz
    obtain ⟨x, hx, he, hn'⟩ := h1.back ht hy
    refine ⟨x, hx, ?_, ?_⟩
    · rw [← hi, he]
    · rw [he] at hn
      simp only [List.map_cons, List.mem_cons, List.map_nil, List.not_mem_nil, or_false, not_or, not_exists, not_and] at hn hn' ⊢
      exact ⟨⟨hn'.1, hn.1⟩, fun i hi => hi.elim (fun h => hn'.2 i h) (fun h => hn.2 i h)⟩
  · rw [h2.2.2, h1.2.2, Spelling.without_or]
    congr 1
    funext r
    rw [Bool.eq_iff_iff]
    simp only [Bool.or_eq_true, List.any_eq_true, List.contains_iff_mem, List.map_cons, List.map_nil, List.mem_cons,
      List.not_mem_nil, or_false]
    constructor
    · rintro (⟨i, h, h'⟩ | ⟨i, h, h'⟩)
      · exact ⟨i, h, .inl h'⟩
      · exact ⟨i, h, .inr h'⟩
    · rintro ⟨i, h, h' | h'⟩
      · exact .inl ⟨i, h, h'⟩
      · exact .inr ⟨i, h, h'⟩

/-- What the removal of CHARACTER entries one after another leaves. -/
theorem State.removeOwners_removed : ∀ (es : List Entry) {s : State}, (s.text.allEntries.map Entry.id).Nodup →
    s.text.work.Owned → Removed s es (s.removeOwners es)
  | [], s, _, _ => by
    refine ⟨fun y hy _ => ⟨y, hy, rfl, by simp, fun _ => rfl⟩, fun z hz => ⟨z, hz, rfl, by simp⟩, ?_⟩
    have hf : (fun r : WordRecord => r.entries.any (fun i => (([] : List Entry).map Entry.id).contains i)) = fun _ => false := by
      funext r
      simp
    rw [hf, Spelling.without_none]
    rfl
  | e :: es, s, hn, ho => by
    have h1 := State.removeOwner_removed hn ho e
    have hn1 := hn.sublist (s.removeOwner_allEntries e)
    exact h1.trans (nodup_work hn1) ho (State.removeOwners_removed es hn1 (h1.owned (nodup_work hn1) ho))

end Sys2Proof.Machine
end

