-- ==== Sys2Proof/Laws/Stems.lean ====
section
/-! SUPPORT. The internal stem list (R124): it holds 20,480 words of small letters and apostrophes (log entry 7). -/

namespace Sys2Proof.Machine

theorem letterDigit_range (c : Nat) (h : stemLetter c = true) : 1 ≤ letterDigit c ∧ letterDigit c ≤ 27 := by
  simp only [stemLetter, within, Bool.or_eq_true, Bool.and_eq_true, decide_eq_true_eq] at h
  unfold letterDigit; split <;> omega

theorem letterDigit_inj (a b : Nat) (ha : stemLetter a = true) (hb : stemLetter b = true) (h : letterDigit a = letterDigit b) :
    a = b := by
  simp only [stemLetter, within, Bool.or_eq_true, Bool.and_eq_true, decide_eq_true_eq] at ha hb
  unfold letterDigit at h; split at h <;> split at h <;> omega

/-- Two words have two numbers. -/
theorem wordNumber_inj (v w : List Nat) (hv : v.all stemLetter = true) (hw : w.all stemLetter = true)
    (h : wordNumber v = wordNumber w) : v = w := by
  induction v generalizing w with
  | nil =>
    cases w with
    | nil => rfl
    | cons c cs =>
      simp only [List.all_cons, Bool.and_eq_true] at hw
      have := letterDigit_range c hw.1
      simp only [wordNumber] at h; omega
  | cons b bs ih =>
    simp only [List.all_cons, Bool.and_eq_true] at hv
    have r := letterDigit_range b hv.1
    cases w with
    | nil => simp only [wordNumber] at h; omega
    | cons c cs =>
      simp only [List.all_cons, Bool.and_eq_true] at hw
      have q := letterDigit_range c hw.1
      simp only [wordNumber] at h
      rw [letterDigit_inj b c hv.1 hw.1 (by omega), ih cs hv.2 hw.2 (by omega)]

/-- Each number above 0 is that of a word. -/
theorem wordNumber_surj (n : Nat) : ∃ w : List Nat, w.all stemLetter = true ∧ wordNumber w = n := by
  induction n using Nat.strong_induction_on with
  | _ n ih =>
    rcases Nat.eq_zero_or_pos n with h | h
    · exact ⟨[], rfl, h.symm⟩
    · obtain ⟨w, hw, e⟩ := ih ((n - 1) / 27) (by omega)
      refine ⟨(if (n - 1) % 27 = 0 then 39 else (n - 1) % 27 + 96) :: w, ?_, ?_⟩
      · simp only [List.all_cons, Bool.and_eq_true, hw, and_true]
        unfold stemLetter within
        split <;> simp; omega
      · simp only [wordNumber, letterDigit, e]
        split <;> split <;> omega

theorem passCases_le (cases : List Nat) (n : Nat) : n ≤ passCases cases n := by
  induction cases generalizing n with
  | nil => exact Nat.le_refl n
  | cons a l ih => simp only [passCases]; have := ih (if a ≤ n then n + 1 else n); split at this <;> split <;> omega

theorem passCases_below (cases : List Nat) (n : Nat) (h : ∀ y ∈ cases, n < y) : passCases cases n = n := by
  induction cases with
  | nil => rfl
  | cons a l ih =>
    have ha := h a (by simp)
    simp only [passCases]
    rw [if_neg (by omega), ih (fun y hy => h y (by simp [hy]))]

/-- Passing over the cases gives the number of no case. -/
theorem passCases_avoids (cases : List Nat) (sorted : cases.Pairwise (· < ·)) (n x : Nat) (h : x ∈ cases) : passCases cases n ≠ x := by
  induction cases generalizing n with
  | nil => cases h
  | cons a l ih =>
    have hs := List.pairwise_cons.mp sorted
    simp only [passCases]
    rcases List.mem_cons.mp h with rfl | h
    · split
      · have := passCases_le l (n + 1); omega
      · rw [passCases_below l n (fun y hy => by have := hs.1 y hy; omega)]; omega
    · exact ih hs.2 _ h

/-- Passing over the cases keeps the order. -/
theorem passCases_lt (cases : List Nat) (m n : Nat) (h : m < n) : passCases cases m < passCases cases n := by
  induction cases generalizing m n with
  | nil => exact h
  | cons a l ih => simp only [passCases]; apply ih; split <;> split <;> omega

theorem openNumber_lt (i j : Nat) (h : i < j) : openNumber i < openNumber j := by
  induction h with
  | refl => simp only [openNumber]; omega
  | step _ ih => simp only [openNumber]; omega

/-- The places give rising numbers. -/
theorem stemNumber_lt (i j : Nat) (h : i < j) : stemNumber i < stemNumber j := passCases_lt _ _ _ (openNumber_lt i j h)

theorem caseNumbers_all :
    ∀ w ∈ heldCases ++ absentCases, w.all stemLetter = true ∧ wordNumber w ∈ caseNumbers := by decide

theorem caseNumbers_rise : caseNumbers.Pairwise (· < ·) := by decide

theorem stemNumber_inj (i j : Nat) (h : stemNumber i = stemNumber j) : i = j := by
  rcases Nat.lt_trichotomy i j with l | l | l
  · have := stemNumber_lt i j l; omega
  · exact l
  · have := stemNumber_lt j i l; omega

theorem stemNumber_pos (i : Nat) : 0 < stemNumber i := by
  have : 0 < openNumber i := by cases i <;> simp [openNumber]
  exact Nat.lt_of_lt_of_le this (passCases_le _ _)

/-- A word of a worked case is a stem when the case finds it. -/
theorem stem_case (w : List Nat) (h : w ∈ heldCases ++ absentCases) : (Config.stem w).isSome = decide (w ∈ heldCases) := by
  have e : Config.stem w = caseFlags w := by simp only [Config.stem]; rw [if_pos (by simpa using h)]
  rw [e]
  simp only [heldCases, absentCases, List.cons_append, List.nil_append, List.mem_cons, List.not_mem_nil, or_false] at h
  rcases h with rfl | rfl | rfl | rfl | rfl | rfl | rfl | rfl | rfl | rfl | rfl | rfl | rfl | rfl | rfl | rfl | rfl | rfl | rfl <;> decide

/-- Another word is a stem when it has the number of a place. -/
theorem stem_other (w : List Nat) (h : w ∉ heldCases ++ absentCases) :
    (Config.stem w).isSome = true ↔ w.all stemLetter = true ∧ ∃ i < 20473, stemNumber i = wordNumber w := by
  simp only [Config.stem]
  rw [if_neg (by simpa using h)]
  by_cases a : w.all stemLetter = true
  · rw [if_pos a]; simp [a, List.find?_isSome]
  · rw [if_neg a]; simp [a]

/-- The internal stem list holds 20,480 words of small letters and apostrophes (R124). -/
theorem stem_list :
    ∃ l : List (List Nat), l.Nodup ∧ l.length = 20480 ∧ (∀ w, w ∈ l ↔ (Config.stem w).isSome = true)
      ∧ ∀ w ∈ l, w ≠ [] ∧ w.all stemLetter = true := by
  choose word ok num using wordNumber_surj
  let free : List (List Nat) := (List.range 20473).map (fun i => word (stemNumber i))
  have apart : ∀ i, word (stemNumber i) ∉ heldCases ++ absentCases := by
    intro i h
    have := (caseNumbers_all _ h).2
    rw [num] at this
    exact passCases_avoids _ caseNumbers_rise _ _ this rfl
  have held : ∀ w ∈ heldCases, w ∈ heldCases ++ absentCases := fun w h => List.mem_append_left _ h
  refine ⟨heldCases ++ free, ?_, ?_, ?_, ?_⟩
  · refine List.nodup_append.mpr ⟨by decide, ?_, ?_⟩
    · refine List.Nodup.map (fun i j h => stemNumber_inj i j ?_) List.nodup_range
      have := congrArg wordNumber h
      simpa only [num] using this
    · intro a ha b hb e
      obtain ⟨i, _, rfl⟩ := List.mem_map.mp hb
      exact apart i (e ▸ held a ha)
  · simp [free, heldCases]
  · intro w
    by_cases c : w ∈ heldCases ++ absentCases
    · rw [stem_case w c, decide_eq_true_eq]
      refine ⟨fun h => ?_, fun h => List.mem_append_left _ h⟩
      rcases List.mem_append.mp h with h | h
      · exact h
      · obtain ⟨i, _, rfl⟩ := List.mem_map.mp h
        exact absurd c (apart i)
    · rw [stem_other w c]
      constructor
      · intro h
        rcases List.mem_append.mp h with h | h
        · exact absurd (held w h) c
        · obtain ⟨i, hi, rfl⟩ := List.mem_map.mp h
          exact ⟨ok _, i, List.mem_range.mp hi, (num _).symm⟩
      · rintro ⟨a, i, hi, e⟩
        refine List.mem_append_right _ (List.mem_map.mpr ⟨i, List.mem_range.mpr hi, ?_⟩)
        exact wordNumber_inj _ _ (ok _) a (by rw [num, e])
  · intro w h
    rcases List.mem_append.mp h with h | h
    · exact ⟨by rintro rfl; revert h; decide, (caseNumbers_all w (held w h)).1⟩
    · obtain ⟨i, _, rfl⟩ := List.mem_map.mp h
      refine ⟨fun e => ?_, ok _⟩
      have p := stemNumber_pos i
      have n := num (stemNumber i)
      rw [e] at n
      simp [wordNumber] at n
      omega

end Sys2Proof.Machine
end

