-- ==== Sys2Proof/Laws/Wheel.lean ====
section
/-! SUPPORT. The wheel tables (R70): no two characters of a wheel share a petal, and every petal is one of the 96. -/

namespace Sys2Proof.Machine

/-- An exchange of two petals is its own inverse. -/
theorem exchange_exchange (a b p : Nat) : exchange a b (exchange a b p) = p := by
  unfold exchange
  split <;> (try split) <;> (try split) <;> simp_all

/-- Different petals stay different under exchanges. -/
theorem exchanges_inj (f : Nat → Nat) : ∀ (l : List Nat) (p q : Nat),
    l.foldl (fun p i => exchange i (f i) p) p = l.foldl (fun p i => exchange i (f i) p) q → p = q
  | [], _, _, h => h
  | i :: l, p, q, h => by
    have e : exchange i (f i) p = exchange i (f i) q := exchanges_inj f l _ _ h
    rw [← exchange_exchange i (f i) p, e, exchange_exchange]

/-- A petal below 96 stays below 96 under exchanges of petals below 96. -/
theorem exchanges_lt (f : Nat → Nat) (hf : ∀ i, f i < 96) : ∀ (l : List Nat) (p : Nat), (∀ i ∈ l, i < 96) → p < 96 →
    l.foldl (fun p i => exchange i (f i) p) p < 96
  | [], _, _, h => h
  | i :: l, p, hl, h => by
    refine exchanges_lt f hf l _ (fun j hj => hl j (List.mem_cons_of_mem _ hj)) ?_
    have h1 := hl i List.mem_cons_self
    have h2 := hf i
    show exchange i (f i) p < 96
    unfold exchange
    split <;> (try split) <;> omega

/-- The ranks of two characters of a wheel differ. -/
theorem rank_lt {code a b : Nat} (ha : bears code a = true) (h : a < b) : rank code a < rank code b := by
  unfold rank
  have e : List.range b = List.range a ++ (List.range (b - a)).map (a + ·) := by
    rw [← List.range_add]; congr; omega
  rw [e, List.filter_append, List.length_append]
  have : 0 < (((List.range (b - a)).map (a + ·)).filter (bears code)).length := by
    refine List.length_pos_iff_exists_mem.mpr ⟨a, List.mem_filter.mpr ⟨List.mem_map.mpr ⟨0, ?_, rfl⟩, ha⟩⟩
    exact List.mem_range.mpr (by omega)
  omega

/-- Of a wheel's characters each is below 160. -/
theorem bears_lt {code c : Nat} (h : bears code c = true) : c < 160 := by
  unfold bears within at h
  split at h <;> simp at h <;> omega

/-- A wheel bears at most 96 characters. -/
theorem rank_160 (code : Nat) : rank code 160 ≤ 96 := by
  by_cases h : code < 12
  · have : ∀ k : Fin 12, rank k.val 160 ≤ 96 := by decide
    exact this ⟨code, h⟩
  · have e : bears code = fun _ => false := by
      funext c
      unfold bears
      split <;> first | rfl | omega
    simp [rank, e, List.filter_eq_nil_iff.mpr]

/-- The rank of a wheel's character is below 96. -/
theorem rank_lt_96 {code c : Nat} (h : bears code c = true) : rank code c < 96 :=
  Nat.lt_of_lt_of_le (rank_lt h (bears_lt h)) (rank_160 code)

/-- A place of the arrangement stands on one of the 96 petals. -/
theorem petalAt_lt {code place : Nat} (h : place < 96) : petalAt code place < 96 :=
  exchanges_lt _ (fun i => (Config.petalSwap code i).isLt) _ _ (fun _ hi => List.mem_range.mp hi) h

/-- Different places of the arrangement stand on different petals. -/
theorem petalAt_inj {code a b : Nat} (h : petalAt code a = petalAt code b) : a = b :=
  exchanges_inj (fun i => (Config.petalSwap code i).val) (List.range 96) a b h

/-- A character has a petal exactly where the mounted wheel bears it (R61, R70). -/
theorem petalFor_eq_some {wheel : Option Nat} {c p : Nat} :
    petalFor wheel c = some p ↔ ∃ code, wheel = some code ∧ bears code c = true ∧ petalAt code (rank code c) = p := by
  unfold petalFor
  cases wheel with
  | none => simp
  | some code =>
    by_cases hb : bears code c = true
    · simp only [hb, if_true, Option.some.injEq, true_and, exists_eq_left']
    · simp [hb]

/-- The petal of a character is one of the 96 (R70). -/
theorem petalFor_lt {wheel : Option Nat} {c p : Nat} (h : petalFor wheel c = some p) : p < 96 := by
  obtain ⟨code, -, hb, rfl⟩ := petalFor_eq_some.mp h
  exact petalAt_lt (rank_lt_96 hb)

/-- Two characters of a wheel stand on two petals (R70). -/
theorem petalFor_inj {wheel : Option Nat} {a b p : Nat} (ha : petalFor wheel a = some p) (hb : petalFor wheel b = some p) :
    a = b := by
  obtain ⟨code, hw, h1, e1⟩ := petalFor_eq_some.mp ha
  obtain ⟨code', hw', h2, e2⟩ := petalFor_eq_some.mp hb
  obtain rfl : code = code' := Option.some.inj (hw.symm.trans hw')
  have e := petalAt_inj (e1.trans e2.symm)
  rcases Nat.lt_trichotomy a b with h | h | h
  · exact absurd e (Nat.ne_of_lt (rank_lt h1 h))
  · exact h
  · exact absurd e.symm (Nat.ne_of_lt (rank_lt h2 h))

end Sys2Proof.Machine
end

