-- ==== Sys2Proof/Tests/Slice0.lean ====
section
/-! SUPPORT. Tests: the refusals of WellFormed, one or two small steps for each command with the value that the spec gives, and for
each statement of Obligations.lean states and operands that meet its hypotheses. -/

namespace Sys2Proof.Tests

open Sys2Proof Sys2Proof.Machine

/-! ## WellFormed -/

theorem test_wellFormed_station : (Instr.here 8 2 0).WellFormed = false := by decide
theorem test_wellFormed_text : (Instr.textFrame (List.replicate 16 65)).WellFormed = false := by decide
theorem test_wellFormed_frame : (Instr.frameDropped [64, 0]).WellFormed = false := by decide
theorem test_wellFormed_tag : (Instr.queryTimeout 64).WellFormed = false := by decide
theorem test_wellFormed_bounds :
    (Instr.here 7 2 0).WellFormed ∧ (Instr.textFrame (List.replicate 15 65)).WellFormed
      ∧ (Instr.frameDropped [64, 0, 192]).WellFormed ∧ (Instr.queryTimeout 63).WellFormed := by decide

/-! ## States -/

/-- The state after a command. -/
def after (c : Instr) (s : State) : State :=
  match exec c s with
  | .next t => t
  | _ => s

/-- Four stations: a keyboard, a power module, a cartridge and an interface. -/
def stations : List RosterEntry :=
  [{ number := 2, cls := .keyboard, variant := 0, status := .present },
   { number := 3, cls := .power, variant := 0, status := .present },
   { number := 4, cls := .cartridge, variant := 0, status := .present },
   { number := 5, cls := .interface, variant := 0, status := .present }]

/-- A controller that has started, with wheel 0 mounted and the cover open, so that the engine is HELD. -/
def idle : State :=
  { State.reset with
    pins := { State.reset.pins with coverOpen := true },
    intake := { State.reset.intake with state := .opened },
    engine :=
      { State.reset.engine with
        state := .held, holds := { State.reset.engine.holds with cover := true }, carriage := some 120, petal := some 0,
        wheel := some 0, startHomed := true },
    line := { State.reset.line with receiver := .waiting, roster := stations, rosterOpen := false, firstCallSent := true } }

/-- An action of the keyboard. -/
def key (k : ActionKind) (code : Nat := 0) : Action :=
  { kind := k, code := code, source := .keyboard, repeated := false, value := none }

/-- A setting of the interface. -/
def setting (k : ActionKind) (v : Nat) : Action :=
  { kind := k, code := 0, source := .interface, repeated := false, value := some v }

/-- A state whose key queue holds one action. -/
def offer (a : Action) (s : State) : State := { s with intake := { s.intake with queue := [a] } }

/-- A state with another text unit. -/
def texts (f : TextUnit → TextUnit) (s : State) : State := { s with text := f s.text }

/-- A state with other settings. -/
def sets (f : Settings → Settings) (s : State) : State := texts (fun t => { t with settings := f t.settings }) s

/-- The same in line mode. -/
def inLine (s : State) : State := sets (fun x => { x with mode := .line }) s

/-- A state with another engine. -/
def engines (f : Engine → Engine) (s : State) : State := { s with engine := f s.engine }

/-- A state with other drive channels. -/
def drives (f : Drive → Drive) (s : State) : State := { s with drive := f s.drive }

/-- A state with another line interface. -/
def lines (f : LineInterface → LineInterface) (s : State) : State := { s with line := f s.line }

/-- A state with another supply and heat unit. -/
def supplies (f : Supply → Supply) (s : State) : State := { s with supply := f s.supply }

/-- A state with another spelling unit. -/
def spells (f : Spelling → Spelling) (s : State) : State := { s with spell := f s.spell }

/-- A state with another display unit. -/
def displays (f : Display → Display) (s : State) : State := { s with display := f s.display }

/-- A PRINTED CHARACTER entry of width 12. -/
def letter (id pos char : Nat) : Entry :=
  { id := id, pos := pos, width := 12, offset := 0, char := char, kind := .character, owner := none, rise := 0,
    state := .printed, wheel := some 0, mark := .plain, order := id }

/-- The working line 'ab' from LM, with pp behind it. -/
def typed (s : State) : State :=
  texts (fun t => { t with work := { entries := [letter 0 120 97, letter 1 132 98], counter := 2 }, pp := 144 }) s

/-- The print line 'ab' with its entries PENDING. -/
def printing (s : State) : State :=
  texts (fun t =>
    { t with
      print := some
        { record := { entries := [{ letter 8 120 97 with state := .pending }], counter := 1 }, returnFeed := 2,
          impression := .normal, returnAppended := false } }) s

/-- A word record of 'ab'. -/
def word (st : WordState) : WordRecord :=
  { id := 0, tag := some 5, line := .working, entries := [0, 1], letters := [97, 98], state := st }

/-- An op in the head place with a stage. -/
def doing (o : Op) (st : Stage) (s : State) : State :=
  engines (fun e =>
    { e with state := .running, head := some o, progress := some { level := 2, region := .cool, petal := 7, width := 550, stage := st } }) s

/-- The STRIKE op of the first letter. -/
def strike : Op := strikeOp (letter 0 120 97) .normal

/-! ## Supply, heat, restart and retained memory -/

-- R205: the start sequence leaves the engine HOMING.
theorem test_powerOn : (after .powerOn idle).engine.state = .homing := by decide
-- R205, Table 1-3: a settings record gives LM, and pp is LM.
theorem test_powerOn_settings :
    (after .powerOn
      { idle with
        retained := { idle.retained with settings := encodeSettings { Settings.defaults with lm := 60, rm := 900 } none } }).text.pp
      = 60 := by decide
-- R203, R205: what a save writes in LINE mode a start restores: the entries PENDING, pp at the greatest end, RESTORED.
theorem test_powerOn_restores :
    let t := after .powerOn
      (after .saveComplete (supplies (fun u => { u with phase := .saving, saveBegun := true }) (inLine (typed idle))))
    t.text.pp = 144 ∧ t.text.work.entries.map Entry.state = [.pending, .pending] ∧ t.display.messages.contains .restored = true := by
  decide
-- R209: a low restart pin holds every block at its start values.
theorem test_restartAssert : (after (.restartAssert .savedMark) (typed idle)).text.work.entries = [] := by decide
-- R209: its release runs the start sequence.
theorem test_restartRelease : (after .restartRelease { idle with restartHeld := true }).engine.state = .homing := by decide
-- Table 10-2: battery level 7 has the source limit 3, and a change of source sets the ceiling to it.
theorem test_supply_battery :
    (after (.supply 0x87 0) idle).supply.limit = 3 ∧ (after (.supply 0x87 0) idle).supply.ceiling = 3 := by decide
-- R195: a sag lowers the ceiling by 1.
theorem test_supply_sag :
    (after (.supply 0x0A 0) (supplies (fun u => { u with source := some .adapter, limit := 4, ceiling := 4 }) idle)).supply.ceiling
      = 3 := by decide
-- R172, R202: the key queue is emptied and the phase is SAVING.
theorem test_powerFailing :
    (after (.powerFailing 7) (offer (key .char 97) idle)).intake.queue = []
      ∧ (after (.powerFailing 7) idle).supply.phase = .saving := by decide
-- R203: the settings record is written.
theorem test_saveComplete :
    (after .saveComplete (supplies (fun u => { u with phase := .saving, saveBegun := true }) idle)).retained.settings
      = encodeSettings Settings.defaults none := by decide
-- R201: the loss of power keeps retained memory.
theorem test_powerLoss :
    (after (.powerLoss .savedMark) { idle with retained := { idle.retained with words := [1, 2] } }).retained.words = [1, 2] := by
  decide
-- R138: the copy written becomes the retained copy.
theorem test_listWriteEnd :
    (after .listWriteEnd (spells (fun sp => { sp with writing := some [162, 0, 94] }) idle)).retained.words = [162, 0, 94] := by
  decide
-- R196: the ceiling rises by 1 towards the source limit.
theorem test_sagTimerExpiry :
    (after .sagTimerExpiry (supplies (fun u => { u with ceiling := 1, sagRunning := true }) idle)).supply.ceiling = 2 := by decide
-- R199's own figures: H = 1,250 falls by 25 to 1,225.
theorem test_decayTimerExpiry :
    (after .decayTimerExpiry (supplies (fun u => { u with heat := 1250, region := .warm }) idle)).supply.heat = 1225 := by decide
-- R200: HOT ends below 2,000.
theorem test_decayTimerExpiry_hot :
    (after .decayTimerExpiry (supplies (fun u => { u with heat := 2039, region := .hot }) idle)).supply.region = .warm := by decide

/-! ## The intake unit -/

-- R162: a code makes a CHAR.
theorem test_keyFrame : (after (.keyFrame 97 0) idle).intake.queue = [key .char 97] := by decide
-- R166: a repeated CORRECT is dropped.
theorem test_keyFrame_throttled : (after (.keyFrame 9 1) idle).intake.queue = [] := by decide
-- R163: 13 makes a RETURN, and 31 makes nothing.
theorem test_textFrame : (after (.textFrame [65, 13, 31]) idle).intake.queue.map Action.kind = [.char, .carriageReturn] := by
  decide
-- R164, R207, Table 11-4: item 4 is SPACING, and the value's high byte comes first.
theorem test_settingFrame : (after (.settingFrame 4 (0, 3)) idle).intake.queue = [setting .spacing 3]
      ∧ (after (.settingFrame 1 (2, 1)) idle).intake.queue = [setting .lmSet 513] := by decide
-- R168: CLEAR clears the armed mark and joins no queue.
theorem test_clear :
    (after .clear (texts (fun t => { t with armed := true }) idle)).text.armed = false
      ∧ (after .clear idle).intake.queue = [] := by decide

/-! ## The module line -/

-- R190: the lower number takes the class.
theorem test_here :
    ((after (.here 1 2 1) (lines (fun l => { l with rosterOpen := true }) idle)).line.station? .keyboard).map RosterEntry.number
      = some 1 := by decide
-- R179: the frame leaves its place; R189: a ROLL_CALL begins a window.
theorem test_frameSent :
    let f : TxFrame := { kind := .rollCall, stamp := 0, losses := 0 }
    let t := after (.frameSent true)
      (lines (fun l => { l with places := [f], stamp := 1, sending := some { frame := f, bytes := [] }, receiver := .receiving }) idle)
    t.line.places = [] ∧ t.line.window = true := by decide
-- R183: a loss raises the loss count.
theorem test_arbitrationLoss :
    let f : TxFrame := { kind := .rollCall, stamp := 0, losses := 3 }
    (after (.arbitrationLoss true)
      (lines (fun l => { l with places := [f], stamp := 1, sending := some { frame := f, bytes := [] } }) idle)).line.places
      = [{ f with losses := 4 }] := by decide
-- R181, Table 9-4: station 0 sends after 6 cells of quiet, and not before.
theorem test_beginTransmission :
    let s := lines (fun l => { l with places := [{ kind := .rollCall, stamp := 0, losses := 0 }], stamp := 1 }) idle
    (after (.beginTransmission 120) s).line.sending.isSome ∧ (after (.beginTransmission 119) s).line.sending.isNone := by decide
-- Table 11-2: a ROLL_CALL of station 0 to all has the header 01 F0 and no payload.
theorem test_rollCall_bytes : idle.txBytes .rollCall = [0x01, 0xF0, 0x0F] := by decide
theorem test_lineIdClash : (after .lineIdClash idle).display.messages = [.lineId] := by decide
-- R192: any frame of a SILENT power station that passes the first tests marks it PRESENT.
theorem test_frameDropped :
    ((after (.frameDropped [0x67, 0x70, 0x29])
      (lines (fun l => { l with roster := stations.map (fun e => { e with status := .silent }) }) idle)).line.station? .power).map
        RosterEntry.status = some .present := by decide
theorem test_codingError : (after (.codingError [40]) (lines (fun l => { l with receiver := .receiving }) idle)).line.receiver = .hunting := by
  decide
theorem test_lineStuck : (after .lineStuck idle).display.messages = [.line] := by decide
theorem test_lineReleased : (after .lineReleased (after .lineStuck idle)).display.messages = [] := by decide
theorem test_startCell : (after .startCell idle).line.receiver = .receiving := by decide
theorem test_huntFrameEnd : (after .huntFrameEnd (lines (fun l => { l with receiver := .hunting }) idle)).line.receiver = .waiting := by
  decide
-- R189: with neither keyboard nor interface a further call is due.
theorem test_collectionWindowEnd :
    (after .collectionWindowEnd (lines (fun l => { l with roster := [], window := true, rosterOpen := true, callsMade := 1 }) idle)).line.nextCallDue
      = true := by decide
-- R160: the roster closes and the intake unit opens.
theorem test_collectionWindowEnd_opens :
    (after .collectionWindowEnd
      { lines (fun l => { l with window := true, rosterOpen := true, callsMade := 1 }) idle with intake := State.reset.intake }).intake.state
      = .opened := by decide
theorem test_nextRollCall :
    (after .nextRollCall (lines (fun l => { l with nextCallDue := true, rosterOpen := true }) idle)).line.places.map TxFrame.kind
      = [.rollCall] := by decide
-- R198: a SILENT power station leaves the ceiling at 2.
theorem test_powerSilenceExpiry :
    (after .powerSilenceExpiry
      (supplies (fun u => { u with source := some .adapter, limit := 4, ceiling := 4 })
        (lines (fun l => { l with silenceRunning := true }) idle))).supply.ceiling = 2 := by decide
-- R174: the wire carries a frame; the first interval of a start cell is a whole cell.
theorem test_wire : hear (frameIntervals [0x01, 0xF0, 0x0F]) = .frame [0x01, 0xF0, 0x0F] := by decide

/-! ## The text unit -/

-- R15, Table 2-1: at P10 pp advances by 12; R16: one STRIKE op.
theorem test_char :
    (after .char (offer (key .char 97) idle)).text.pp = 132
      ∧ (after .char (offer (key .char 97) idle)).engine.slots = [strikeOp (letter 0 120 97) .normal] := by decide
-- R26: in line mode the entry is PENDING.
theorem test_char_line :
    (after .char (offer (key .char 97) (inLine idle))).text.work.entries.map Entry.state = [.pending] := by decide
theorem test_space : (after .space (offer (key .space) idle)).text.pp = 132 := by decide
-- R17: BACKSPACE goes to the start of the newest character that ends at pp, and is refused at LM.
theorem test_backspace :
    (after .backspace (offer (key .backspace) (typed idle))).text.pp = 132
      ∧ (after .backspace (offer (key .backspace) idle)).text.pp = 120 := by decide
-- R20: the working line empties, pp returns to LM, and the RETURN op feeds the spacing.
theorem test_carriageReturn :
    (after .carriageReturn (offer (key .carriageReturn) (typed idle))).text.pp = 120
      ∧ (after .carriageReturn (offer (key .carriageReturn) (typed idle))).engine.slots = [returnOp 120 2] := by decide
-- R27: in line mode the line is dispatched.
theorem test_carriageReturn_line :
    ((after .carriageReturn (offer (key .carriageReturn) (inLine (typed idle)))).text.print.map (fun p => p.record.entries.length))
      = some 2 := by decide
theorem test_tab :
    (after .tab (offer (key .tab) (sets (fun x => { x with tabs := [100, 240, 300] }) idle))).text.pp = 240 := by decide
theorem test_index : (after .index (offer (key .index) idle)).engine.slots = [feedOp 2 .text] := by decide
theorem test_reverseIndex : (after .reverseIndex (offer (key .reverseIndex) idle)).engine.slots = [feedOp (-2) .text] := by decide
-- R18: the rise goes to −2 and no further.
theorem test_halfUp :
    (after .halfUp (offer (key .halfUp) idle)).text.settings.rise = -1
      ∧ (after .halfUp (offer (key .halfUp) (sets (fun x => { x with rise := -2 }) idle))).text.settings.rise = -2 := by decide
theorem test_halfDown :
    (after .halfDown (offer (key .halfDown) idle)).text.settings.rise = 1
      ∧ (after .halfDown (offer (key .halfDown) (sets (fun x => { x with rise := 2 }) idle))).text.settings.rise = 2 := by decide
-- R99: the newest character before pp is handed over, and pp moves to it; its tape strike follows (R105, R106).
theorem test_correct :
    (after .correct (offer (key .correct) (typed idle))).corr.items.map Item.owner = [1]
      ∧ (after .correct (offer (key .correct) (typed idle))).text.pp = 132 := by decide
theorem test_wordCorrect : (after .wordCorrect (offer (key .wordCorrect) (typed idle))).corr.items.map Item.owner = [1, 0] := by decide
theorem test_lineCorrect : (after .lineCorrect (offer (key .lineCorrect) (typed idle))).corr.items.map Item.owner = [1, 0] := by decide
-- R102: RELOCATE goes to the greatest end.
theorem test_relocate :
    (after .relocate (offer (key .relocate) (texts (fun t => { t with pp := 300 }) (typed idle)))).text.pp = 144 := by decide
theorem test_tabSet : (after .tabSet (offer (key .tabSet) idle)).text.settings.tabs = [120] := by decide
theorem test_tabClear :
    (after .tabClear (offer (key .tabClear) (sets (fun x => { x with tabs := [100, 120] }) idle))).text.settings.tabs = [100] := by decide
theorem test_tabClearAll :
    (after .tabClearAll (offer (key .tabClearAll) (sets (fun x => { x with tabs := [100, 120] }) idle))).text.settings.tabs = [] := by
  decide
-- R6: LM stays less than RM, and an interface value that is not is ignored.
theorem test_lmSet :
    (after .lmSet (offer (setting .lmSet 200) idle)).text.settings.lm = 200
      ∧ (after .lmSet (offer (setting .lmSet 1020) idle)).text.settings.lm = 120 := by decide
theorem test_rmSet :
    (after .rmSet (offer (setting .rmSet 2000) idle)).text.settings.rm = 1600
      ∧ (after .rmSet (offer (setting .rmSet 120) idle)).text.settings.rm = 1020 := by decide
theorem test_marginRelease : (after .marginRelease (offer (key .marginRelease) idle)).text.settings.marginRelease = true := by decide
-- R21: PITCH passes over PS on a fixed wheel.
theorem test_pitch :
    (after .pitch (offer (key .pitch) (sets (fun x => { x with pitch := .p15 }) idle))).text.settings.pitch = .p10 := by decide
theorem test_spacing : (after .spacing (offer (setting .spacing 9) idle)).text.settings.spacing = 4 := by decide
theorem test_impression : (after .impression (offer (key .impression) idle)).text.settings.impression = .heavy := by decide
-- R19: a change of mode, refused while the working line holds an entry.
theorem test_mode :
    (after .mode (offer (key .mode) idle)).text.settings.mode = .line
      ∧ (after .mode (offer (key .mode) (typed idle))).text.settings.mode = .direct := by decide
theorem test_underline : (after .underline (offer (key .underline) idle)).text.settings.underline = true := by decide
theorem test_bold : (after .bold (offer (key .bold) idle)).text.settings.bold = true := by decide
theorem test_center : (after .center (offer (key .center) idle)).text.run.map HeldRun.kind = some .center := by decide
theorem test_flushRight : (after .flushRight (offer (key .flushRight) idle)).text.run.map HeldRun.kind = some .flush := by decide
theorem test_decimalTab :
    (after .decimalTab (offer (key .decimalTab) (sets (fun x => { x with tabs := [240] }) idle))).text.run
      = some { kind := .decimal, startPp := 120, origin := 240, members := [] } := by decide
theorem test_justify : (after .justify (offer (key .justify) idle)).text.settings.justify = true := by decide
theorem test_spell : (after .spell (offer (key .spell) idle)).text.settings.spell = .checkStop := by decide

/-! ## Words, feeding and corrections -/

-- R136: the newest record's word joins the user list.
theorem test_addWord :
    (after .addWord (offer (key .addWord) (spells (fun sp => { sp with records := [word .unknown] }) idle))).spell.userList = [[97, 98]] := by
  decide
theorem test_deleteWord :
    (after .deleteWord
      (offer (key .deleteWord) (spells (fun sp => { sp with records := [word .known], userList := [[97, 98]] }) idle))).spell.userList
      = [] := by decide
-- R129, R132: an UNKNOWN verdict marks the entries.
theorem test_wordAnswer :
    let s := typed (spells (fun sp => { sp with records := [word .asking], outstanding := [{ tag := 5, record := some 0 }] }) idle)
    (after (.wordAnswer 5 2) s).text.work.entries.map Entry.mark = [.unknown, .unknown]
      ∧ (after (.wordAnswer 5 2) s).spell.outstanding = [] := by decide
theorem test_queryTimeout :
    let s := typed (spells (fun sp => { sp with records := [word .asking], outstanding := [{ tag := 5, record := some 0 }] }) idle)
    (after (.queryTimeout 5) s).spell.records.map WordRecord.state = [.unchecked]
      ∧ (after (.queryTimeout 5) s).spell.timeoutRun = 1 := by decide
theorem test_waitListTimeout :
    (after .waitListTimeout (spells (fun sp => { sp with records := [word .waiting], waitList := [0] }) idle)).spell.records.map
      WordRecord.state = [.unchecked] := by decide
-- R123: a word of the user list is KNOWN.
theorem test_lookupEnd :
    (after .lookupEnd
      (spells (fun sp =>
        { sp with
          records := [word .looking], lookup := some { record := some 0, listed := true }, userList := [[97, 98]] })
        idle)).spell.records.map WordRecord.state = [.known] := by decide
-- R12: a RETURN that waited for the print line goes on.
theorem test_actionResume :
    ((after .actionResume
      (texts (fun t => { t with resume := some { action := key .carriageReturn, stage := .dispatch } }) (inLine (typed idle)))).text.print).isSome
      = true := by decide
-- R25: the run's next entry gets its STRIKE op.
theorem test_heldRunFeed :
    (after .heldRunFeed (texts (fun t => { t with waiting := some .runFeeding, feeding := [0, 1] }) (typed idle))).text.feeding = [1] := by
  decide
-- R28: the print line's next PENDING entry gets its STRIKE op.
theorem test_printLineFeed : (after .printLineFeed (printing (inLine idle))).engine.slots = [strikeOp (letter 8 120 97) .normal] := by
  decide
-- R106: the tape strike of the next member; it becomes LIFTING.
theorem test_tapeAppend :
    let s := { typed idle with
      corr := { State.reset.corr with lifting := true, items := [{ owner := 1, status := .appending }] } }
    (after .tapeAppend s).engine.slots.map Op.medium = [.tape]
      ∧ (after .tapeAppend s).text.work.entries.map Entry.state = [.printed, .lifting] := by decide
-- R109: the restoring feed to the current rise.
theorem test_correctionClosing :
    (after .correctionClosing
      { sets (fun x => { x with rise := 1 }) idle with
        corr := { State.reset.corr with lifting := true, tapeMark := true } }).engine.slots = [feedOp 1 .correction] := by decide

/-! ## The drive channels -/

/-- A carriage move of 100 units to the right at 960 units/s. -/
def move : CarriageMove :=
  { kind := .toPosition, target := 220, cruise := 960, rightward := true, travelled := 0, leg := .profile, overshot := false }

/-- A carriage channel with a move in a phase at a count. -/
def carries (ph : CarriagePhase) (m : CarriageMove) (count : Int) (s : State) : State :=
  drives (fun d => { d with carriage := { d.carriage with phase := ph, move := some m, duty := 40, period := 3333, count := count } }) s

-- R83: a residual of 0 ends the move.
theorem test_carriageBrakeEnd : (after .carriageBrakeEnd (carries (.brake .check) move 220 idle)).drive.carriage.phase = .idle := by
  decide
-- R81, R82: after one edge v = 300 + 40 × 1 and P = 1,000,000 / 340; an interval above 17/16 of P raises the duty.
theorem test_encoderEdge :
    (after (.encoderEdge true 4000) (carries .drive move 120 idle)).drive.carriage.period = 2941
      ∧ (after (.encoderEdge true 4000) (carries .drive move 120 idle)).drive.carriage.duty = 41 := by decide
theorem test_pwmPeriodStart : (after .pwmPeriodStart (carries .drive move 120 idle)).drive.carriage.loaded = 40 := by decide
theorem test_pwmOnPhaseEnd : (after .pwmOnPhaseEnd (after .pwmPeriodStart (carries .drive move 120 idle))).drive.carriage.onPhase = false := by
  decide
-- R87: a stall brakes, and the engine records the fault at the end of the brake, with the channel IDLE.
theorem test_carriageStall :
    let s := after .carriageStall (carries .drive move 120 idle)
    (s.drive.carriage.phase = .brake .stall ∧ s.engine = idle.engine)
      ∧ (after .carriageBrakeEnd s).engine.state = .halted ∧ (after .carriageBrakeEnd s).engine.fault = .carriageStall
      ∧ (after .carriageBrakeEnd s).drive.carriage.phase = .idle := by decide
-- Log entry 16: a deadline that expires in the brake has its own fault, and the brake then ends without a report.
theorem test_carriageStall_stopped :
    let s := after (.deadlineExpiry .wheel) (drives (fun d => { d with wheelDeadline := some 200 }) (carries (.brake .stall) move 120 idle))
    s.drive.carriage.phase = .brake .silent ∧ (after .carriageBrakeEnd s).engine.fault = .wheelLost := by decide
-- R84: the home sensor sets the count to 0.
theorem test_homeSensorTrip :
    (after .homeSensorTrip (carries .drive { move with kind := .search, rightward := false } (-55) idle)).drive.carriage.count = 0 := by
  decide
theorem test_wheelMoveEnded :
    (after .wheelMoveEnded (doing strike (.moves true true) (drives (fun d => { d with wheel := .moving true 7 360 28 }) idle))).engine.petal
      = some 7 := by decide
-- R69: code 3 mounts, and its native pitch is P12.
theorem test_wheelHomeFound :
    (after .wheelHomeFound (drives (fun d => { d with wheel := .searching 9 [false, false, true, true] }) idle)).engine.wheel = some 3
      ∧ (after .wheelHomeFound (drives (fun d => { d with wheel := .searching 9 [false, false, true, true] }) idle)).text.settings.pitch
        = .p12 := by decide
theorem test_flagNotFound :
    (after .flagNotFound (drives (fun d => { d with wheel := .searching 768 [] }) idle)).engine.fault = .wheelLost := by decide
-- R64: a half-line feed moves the paper rise.
theorem test_feedEnded :
    (after .feedEnded (doing (feedOp 1 .text) .feeding (drives (fun d => { d with feed := .feeding true 12 12 }) idle))).engine.paperRise
      = 1 := by decide
-- R63: the strike completes and the entry is PRINTED.
theorem test_advanceEnded :
    (after .advanceEnded
      (doing strike .advance
        (drives (fun d => { d with ribbon := .advancing .ribbon 6 6 })
          (texts (fun t => { t with work := { entries := [{ letter 0 120 97 with state := .queued }], counter := 1 } }) idle)))).text.work.entries
      = [letter 0 120 97] := by decide
-- Table 3-3: 100 ms at level 2 in COOL have not passed 50 ms after the last pulse.
theorem test_liftDrawn :
    let s := doing strike .lift
      (engines (fun e => { e with lastPulse := some 1000 }) (drives (fun d => { d with ribbonLift := .pulling }) idle))
    (after (.liftDrawn .ribbon 51000) s).drive.hammer = .idle
      ∧ (after (.liftDrawn .ribbon 101000) s).drive.hammer = .pulse 550 := by decide
-- R199: a pulse of 550 µs adds 11 to H.
theorem test_strikeIntervalEnd :
    (after .strikeIntervalEnd (doing strike .interval (drives (fun d => { d with ribbonLift := .drawn }) idle))).supply.heat = 11 := by
  decide
theorem test_pulseEnd : (after .pulseEnd (doing strike .pulse (drives (fun d => { d with hammer := .pulse 550 }) idle))).drive.hammer = .settle := by
  decide
-- R63, R90: after the settle the ribbon advances by half the width.
theorem test_settleEnd :
    (after .settleEnd (doing strike .settle (drives (fun d => { d with hammer := .settle, ribbonLift := .drawn }) idle))).drive.ribbon
      = .advancing .ribbon 6 1 := by decide
theorem test_stepIntervalEnd :
    (after (.stepIntervalEnd .wheel true true) (drives (fun d => { d with wheel := .searching 9 [false] }) idle)).drive.wheel
      = .searching 10 [false, true] := by decide
theorem test_deadlineExpiry :
    (after (.deadlineExpiry .wheel) (drives (fun d => { d with wheelDeadline := some 200 }) idle)).engine.fault = .wheelLost := by decide

/-! ## Sensors and the glass -/

theorem test_coverOpen : (after .coverOpen { idle with pins := { idle.pins with coverOpen := false } }).display.messages = [.cover] := by
  decide
-- R57: a closing sets the re-home mark.
theorem test_coverClosed : (after .coverClosed (engines (fun e => { e with state := .running }) idle)).engine.rehome = true := by decide
theorem test_ribbonSpent : (after .ribbonSpent idle).engine.holds.ribbon = true := by decide
theorem test_ribbonPresent : (after .ribbonPresent (after .ribbonSpent idle)).engine.holds.ribbon = false := by decide
theorem test_tapeEndReport : (after (.tapeEndReport true) idle).engine.tapeSpent = true := by decide
-- R140, R150: the frame count goes on modulo 16, and its wrap turns the blink phase.
theorem test_frameStart :
    (after .frameStart (displays (fun d => { d with frameCount := 15 }) idle)).display.frameCount = 0
      ∧ (after .frameStart (displays (fun d => { d with frameCount := 15 }) idle)).display.blinkOdd = true := by decide
-- R147: the composed image goes into the buffer not shown.
theorem test_compositionEnd :
    let image : Image := { Image.blank with cursor := some { cell := 3, shape := .under, manner := .blink } }
    (after .compositionEnd (displays (fun d => { d with composer := .composing image }) idle)).display.bufferB.cursor.isSome = true := by
  decide

/-! ## The hypotheses of the statements can be met

One theorem for each statement with hypotheses: the hypotheses of its clauses, at states and operands that meet them. -/

theorem witness_StepRunsFront : (∃ s c rest, State.pending s = c :: rest) ∧ State.reset.pending = [] :=
  ⟨⟨{ idle with pending := [.clear] }, .clear, [], rfl⟩, rfl⟩

theorem witness_QueueUntouched : ∃ t, exec .clear { idle with pending := [.char] } = .next t := ⟨_, rfl⟩

-- R57, R209: a cover that opens while the restart pin is held is read at the release, and homing waits for it to close (R68).
theorem test_coverOpen_held :
    let t := after .restartRelease (after .coverOpen (after (.restartAssert .savedMark) { idle with pins := State.reset.pins }))
    t.engine.holds.cover = true ∧ t.drive.carriage.phase = .idle ∧ t.engine.state = .homing
      ∧ Message.cover ∈ t.display.messages := by decide

-- R54, R58: a ribbon and a tape that are spent while the power is off are read at the start.
theorem test_sensors_unpowered :
    let t := after .powerOn (after .ribbonSpent (after (.tapeEndReport true) (after (.powerLoss .savedMark) idle)))
    t.engine.holds.ribbon = true ∧ t.engine.tapeSpent = true := by decide

theorem witness_NothingWithoutPower :
    ({ idle with powered := false } : State).powered = false ∧ ({ idle with restartHeld := true } : State).restartHeld = true := by
  decide

theorem witness_FollowUpStill :
    ∀ e ∈ [EngineState.running, .halted, .locked, .down, .parked],
      (engines (fun x => { x with state := e }) idle).still ∧ (engines (fun x => { x with state := e }) idle).text.waiting = none := by
  decide

-- Where the event has changed the working line the mark stands, and a composition begins at a frame start, and at a high level at once.
theorem witness_FollowUpStill_marks :
    let fast := supplies (fun u => { u with source := some .adapter, limit := 4, ceiling := 3 }) (typed idle)
    (typed idle).text.work ≠ idle.text.work ∧ (typed idle).display.composer = .idle ∧ (typed idle).supply.phase = .running
      ∧ ¬(3 ≤ (typed idle).supply.ceiling) ∧ (typed idle).display.frameCount % 4 = 0
      ∧ (3 ≤ fast.supply.ceiling ∧ fast.supply.source ≠ some .battery) := by decide

-- R14, R146: a change of a setting marks the image dirty, and a change of a flag that the image does not show makes no mark.
theorem test_finish_dirty :
    let clean := displays (fun d => { d with dirty := false }) idle
    ((sets (fun x => { x with bold := true }) clean).finish clean).display.dirty = true
      ∧ ((engines (fun e => { e with tapeSpent := true }) clean).finish clean).display.dirty = false := by decide

theorem witness_EngineTakesFeed :
    let s := engines (fun e => { e with state := .ready, slots := [feedOp (-1) .text] }) idle
    s.engine.state = .ready ∧ s.engine.restMove = false ∧ s.engine.rehome = false ∧ s.engine.head = none
      ∧ s.engine.slots = [feedOp (-1) .text] ∧ s.drive.feed = .idle ∧ (feedOp (-1) .text).kind = .feed
      ∧ (feedOp (-1) .text).feed ≠ 0 := by decide

/-- A READY engine at a level with one op in its queue, the carriage at 120 and a petal in front. -/
def readyFor (o : Op) (petal level : Nat) : State :=
  supplies (fun u => { u with limit := 4, ceiling := level })
    (engines (fun e => { e with state := .ready, slots := [o], petal := some petal }) idle)

theorem witness_EngineTakesFeed_strike :
    ∃ petal c : Nat, petalFor (some 0) 97 = some petal ∧ petal < 96 ∧ c < 96 ∧ petal ≠ c
      ∧ ∀ level x n : Nat,
        let o : Op := { strike with target := n }
        let s := readyFor o x level
        s.engine.state = .ready ∧ s.engine.restMove = false ∧ s.engine.rehome = false ∧ s.drive.feed = .idle
          ∧ (s.engine.head = none ∧ s.engine.slots = o :: []) ∧ o.kind = .strike ∧ s.engine.carriage = some 120
          ∧ s.engine.petal = some x ∧ s.engine.wheel = some 0 ∧ o.char = 97 ∧ o.medium = .ribbon ∧ s.supply.ceiling = level
          ∧ s.drive.carriage.phase = .idle ∧ s.drive.wheel = .idle ∧ s.drive.lift o.medium = .released
          ∧ o.rise = s.engine.paperRise ∧ ({ o with rise := 1 } : Op).rise ≠ s.engine.paperRise := by
  have h : petalFor (some 0) 97 = some (petalAt 0 (rank 0 97)) := petalFor_eq_some.mpr ⟨0, rfl, by decide, rfl⟩
  refine ⟨_, (petalAt 0 (rank 0 97) + 1) % 96, h, petalFor_lt h, Nat.mod_lt _ (by decide), by omega, ?_⟩
  intro level x n
  refine ⟨rfl, rfl, rfl, rfl, ⟨rfl, rfl⟩, rfl, rfl, rfl, rfl, rfl, rfl, rfl, rfl, rfl, rfl, rfl, ?_⟩
  exact (by decide : (1 : Int) ≠ 0)

theorem witness_EngineTakesFeed_drop :
    let standing (o : Op) (st : EntryState) : State :=
      texts (fun t => { t with work := { entries := [{ letter 0 120 97 with state := st }], counter := 1 } })
        (engines (fun e => { e with wheel := none }) (readyFor o 0 2))
    let lifting (o : Op) : State := { standing o .lifting with corr := { State.reset.corr with items := [{ owner := 0, status := .inQueue }] } }
    let tape : Op := { strike with origin := .correction, medium := .tape }
    let spent := engines (fun e => { e with tapeSpent := true, wheel := some 0 }) (lifting tape)
    (strike.ref = some 0 ∧ (standing strike .queued).text.find 0 = some { letter 0 120 97 with state := .queued }
        ∧ petalFor (standing strike .queued).engine.wheel strike.char = none ∧ strike.origin = .text)
      ∧ ((lifting tape).text.find 0 = some { letter 0 120 97 with state := .lifting } ∧ tape.origin = .correction
          ∧ (lifting tape).corr.items ≠ [])
      ∧ (tape.medium = .tape ∧ spent.engine.tapeSpent = true)
      ∧ ({ strike with ref := none } : Op).ref = none := by decide

theorem witness_EngineTakesFeed_return :
    ∀ level ∈ [2, 3], ∀ n ∈ [120, 220], ∀ f ∈ [(0 : Int), 2],
      let o := returnOp n f
      let s := readyFor o 0 level
      (s.engine.head = none ∧ s.engine.slots = o :: []) ∧ o.kind = .carriageReturn ∧ s.engine.carriage = some 120
        ∧ s.supply.ceiling = level ∧ s.drive.carriage.phase = .idle ∧ o.target = n ∧ o.feed = f := by decide

theorem witness_EngineTakesFeed_rest :
    let still (e : EngineState) : State := engines (fun x => { x with state := e }) idle
    let rest := texts (fun t => { t with pp := 200 }) (still .ready)
    let homing (p : HomingPhase) : State :=
      engines (fun e => { e with homing := some { kind := .start, phase := p }, holds := { e.holds with cover := false } }) (still .homing)
    (rest.engine.state = .ready ∧ rest.engine.restMove = false ∧ rest.engine.rehome = false ∧ rest.engine.head = none
        ∧ rest.engine.slots = [] ∧ rest.engine.carriage = some 120 ∧ (120 : Int) ≠ (min rest.text.pp 1599 : Nat)
        ∧ rest.drive.carriage.phase = .idle ∧ 1 ≤ rest.supply.ceiling ∧ rest.supply.ceiling ≤ 4
        ∧ (inLine (texts (fun t => { t with settings := { t.settings with lm := 130 } }) rest)).text.settings.lm = 130)
      ∧ (let s := engines (fun e => { e with rehome := true, holds := { e.holds with cover := false, ribbon := true } }) idle
         s.engine.state = .held ∧ s.engine.restMove = false ∧ s.engine.rehome = true ∧ s.engine.holds.cover = false
           ∧ s.drive.wheel = .idle)
      ∧ (∀ p ∈ [HomingPhase.carriageDue, .wheelDue], (homing p).engine.state = .homing
          ∧ (homing p).engine.homing = some { kind := .start, phase := p } ∧ (homing p).engine.holds.cover = false
          ∧ (homing p).drive.carriage.phase = .idle ∧ (homing p).drive.wheel = .idle)
      ∧ (engines (fun e => { e with holds := { e.holds with cover := true } }) (homing .carriageDue)).engine.holds.cover = true := by decide

/-- A state in all the bounds with a command waiting. -/
def queued : State := { idle with pending := [.decayTimerExpiry] }

theorem witness_StepKeepsSupply : queued.SupplyOk ∧ ∃ t, step queued = .next t := ⟨by decide, _, rfl⟩

/-- The bound of the line records at a state without a print line. -/
theorem recordsOk_of_none {s : State} (h : s.text.print = none) (hl : s.text.work.entries.length ≤ 320) : s.RecordsOk :=
  ⟨hl, fun p hp => by rw [h] at hp; cases hp⟩

/-- The bound of the strike queue at a state in which no action is to continue. -/
theorem strikesOk_of_none {s : State} (h : s.text.resume = none) (hl : s.engine.slots.length ≤ 64) : s.StrikesOk :=
  ⟨hl, fun r hr => by rw [h] at hr; cases hr⟩

theorem witness_StepKeepsQueues :
    let closing : State :=
      { sets (fun x => { x with rise := 2 }) (engines (fun e => { e with paperRise := -2 }) idle) with
        pending := [.correctionClosing], corr := { State.reset.corr with lifting := true, tapeMark := true } }
    (∃ t, step queued = .next t) ∧ queued.QueueOk ∧ queued.PlacesOk ∧ queued.WordsOk ∧ queued.RecordsOk ∧ queued.StrikesOk
      ∧ (queued.corr.items.length ≤ 32 ∧ queued.LinesOk)
      ∧ (closing.StrikesOk ∧ (closing.text.settings.rise - closing.engine.paperRise).natAbs ≤ 64 ∧ ∃ t, step closing = .next t) :=
  ⟨⟨_, rfl⟩, by decide, by decide, by decide, recordsOk_of_none rfl (by decide), strikesOk_of_none rfl (by decide), by decide,
    strikesOk_of_none rfl (by decide), by decide, _, rfl⟩

theorem witness_StepKeepsSettings :
    queued.SettingsOk ∧ queued.PointOk ∧ ∃ t, step queued = .next t := by
  refine ⟨by decide, ⟨by decide, by decide, ?_, by decide⟩, _, rfl⟩
  intro h e
  cases e

theorem witness_StepKeepsMessages : queued.GlassOk ∧ ∃ t, step queued = .next t := ⟨by decide, _, rfl⟩

theorem witness_OnlySaveWrites : ∃ t, exec .decayTimerExpiry idle = .next t := ⟨_, rfl⟩

theorem witness_WireRoundTrip : 3 ≤ ([0x01, 0xF0, 0x0F] : List Byte).length := by decide

theorem witness_FrameFields :
    (7 < 8 ∧ 31 < 32 ∧ 15 < 16 ∧ (List.replicate 15 (0xFF : Byte)).length ≤ 15) ∧ 0 < 8 ∧ ([] : List Byte).length ≤ 15 := by
  decide

theorem witness_SettingsRecordRoundTrip :
    let x : Settings := { Settings.defaults with lm := 0, rm := 1600, tabs := [0, 1599], spacing := 4 }
    x.lm < x.rm ∧ x.rm ≤ 1600 ∧ rising x.tabs = true ∧ x.tabs.length ≤ 24 ∧ (∀ t ∈ x.tabs, t ≤ 1599) ∧ 2 ≤ x.spacing
      ∧ x.spacing ≤ 4 ∧ ∀ w, some 15 = some w → w < 16 := by
  refine ⟨by decide, by decide, by decide, by decide, by decide, by decide, by decide, ?_⟩
  intro w h
  cases h
  decide

theorem witness_WordListRoundTrip :
    let ws : List (List Nat) := [[39], [97], List.replicate 24 122]
    ws.length ≤ 128 ∧ wordsInOrder ws = true
      ∧ ∀ w ∈ ws, 1 ≤ w.length ∧ w.length ≤ 24 ∧ ∀ c ∈ w, c = 39 ∨ (97 ≤ c ∧ c ≤ 122) := by decide

theorem witness_SavedLineRoundTrip :
    let l : List Entry :=
      [{ letter 0 1586 97 with width := 14, rise := -2 }, { letter 1 1586 97 with width := 14, rise := 2, kind := .bold, owner := some 0 }]
    l.length ≤ 320 ∧ noThird l = true ∧ (l.map Entry.id).Nodup
      ∧ ∀ e ∈ l, e.pos + e.width ≤ 1600 ∧ 6 ≤ e.width ∧ e.width ≤ 14 ∧ e.offset ≤ 4 ∧ isCharCode e.char = true
        ∧ -2 ≤ e.rise ∧ e.rise ≤ 2 ∧ (e.kind = .character → e.owner = none)
        ∧ (e.kind ≠ .character → ∃ o ∈ l, e.owner = some o.id ∧ o.kind = .character) := by decide

theorem witness_StartSequence :
    ({ idle with powered := false } : State).restartHeld = false
      ∧ ({ idle with restartHeld := true } : State).powered = true ∧ ({ idle with restartHeld := true } : State).restartHeld = true
      ∧ ({ State.reset with powered := false, restartHeld := true } : State).powered = false
      ∧ ({ State.reset with powered := false, restartHeld := true } : State).restartHeld = true := by
  decide

theorem witness_RestartAndPowerLoss :
    let saving := supplies (fun u => { u with phase := .saving, saveBegun := true }) (typed idle)
    let writes := spells (fun sp => { sp with writing := some [1] }) idle
    idle.powered = true ∧ ¬(idle.supply.phase = .saving ∧ idle.supply.saveBegun = true) ∧ idle.spell.writing = none
      ∧ writes.spell.writing ≠ none ∧ (saving.supply.phase = .saving ∧ saving.supply.saveBegun = true)
      ∧ (∀ p ∈ [SavePoint.lineNext, .savedLine, .markNext, .savedMark], p ≠ .settingsNext ∧ p ≠ .settingsRecord)
      ∧ saving.text.settings.mode = .direct
      ∧ (inLine saving).text.settings.mode = .line ∧ (inLine saving).savedEntries ≠ []
      ∧ (texts (fun t => { t with work := .empty }) (inLine saving)).savedEntries = [] := by decide

-- R201, R203: a save cut in the saved line leaves the settings record whole, the saved line invalid and the mark as it was.
theorem test_powerLoss_saving :
    let s := inLine (supplies (fun u => { u with phase := .saving, saveBegun := true }) (typed idle))
    let r := (after (.powerLoss .savedLine) s).retained
    (parseSettings r.settings).isSome = true ∧ parseSavedLine r.savedLine = none ∧ r.savedMark = s.retained.savedMark := by decide

-- R203: "had power failed between steps 3 and 4, the saved mark would have stayed clear", and the saved line is whole.
theorem test_powerLoss_beforeMark :
    let s := inLine (supplies (fun u => { u with phase := .saving, saveBegun := true }) (typed idle))
    let r := (after (.powerLoss .markNext) { s with retained := { s.retained with savedMark := clearMark } }).retained
    (parseSavedLine r.savedLine).isSome = true ∧ r.savedMark = clearMark ∧ r.restorable = none := by decide

-- R208: a stroke clamped to 1,590, which the restored line numbers before its owner at 1,591, is saved behind it.
theorem test_savedEntries_clamped :
    let owner : Entry := { letter 1 1591 97 with width := 8, order := 1 }
    let stroke : Entry := { letter 0 1590 95 with width := 10, kind := .underscore, owner := some 1, order := 0 }
    (inLine (texts (fun t => { t with work := { entries := [stroke, owner], counter := 2 } }) idle)).savedEntries.map Entry.id
      = [1, 0] := by decide

theorem witness_SaveCompletes :
    let s := supplies (fun u => { u with phase := .saving, saveBegun := true }) (typed idle)
    s.live ∧ s.supply.phase = .saving ∧ s.supply.saveBegun = true ∧ s.text.settings.mode = .direct
      ∧ (inLine s).text.settings.mode = .line ∧ (inLine s).savedEntries ≠ []
      ∧ (texts (fun t => { t with work := .empty }) (inLine s)).savedEntries = []
      ∧ ({ s with retained := { s.retained with savedMark := clearMark } } : State).retained.savedMark = clearMark
      ∧ (∃ t, exec (.powerLoss .savedMark) s = .next t) :=
  ⟨by decide, by decide, by decide, by decide, by decide, by decide, by decide, by decide, _, rfl⟩

theorem witness_SaveCompletes_parts :
    let s := printing (inLine (typed idle))
    let left := [{ letter 8 120 97 with state := .pending }]
    let wide := texts (fun t => { t with work := { entries := [letter 0 120 97, letter 1 1570 98], counter := 2 } }) s
    (s.text.allEntries.map Entry.id).Nodup ∧ s.text.work.Owned ∧ (∀ p, s.text.print = some p → p.record.Owned)
      ∧ ((∃ e ∈ left, e.kind = .character ∧ e.endPos = 132) ∧ ∀ e ∈ left, e.kind = .character → e.endPos ≤ 132)
      ∧ ((∃ e ∈ s.text.work.entries, e.pos = 120) ∧ ∀ e ∈ s.text.work.entries, 120 ≤ e.pos)
      ∧ s.savedEntries.map Entry.pos = [120, 144, 156]
      ∧ (letter 1 1570 98 ∈ wide.text.work.entries ∧ (1600 : Int) < (letter 1 1570 98).endPos + (132 + spaceWidth .p10 - 120))
      ∧ wide.savedEntries.map Entry.pos = [120, 144] := by
  refine ⟨by decide, by decide, ?_, by decide, by decide, by decide, by decide, by decide⟩
  intro p h
  cases h
  decide

theorem witness_SaveCompletes_strokes :
    let wide : Entry := { letter 0 1500 97 with width := 14 }
    let stroke (id pos : Nat) : Entry := { letter id pos 95 with width := 10, kind := .underscore, owner := some 0 }
    let past : Entry := { letter 3 1502 98 with width := 14 }
    let work := [wide, stroke 1 1500, past, stroke 2 1504]
    let s := texts (fun t =>
      { t with
        work := { entries := work, counter := 4 },
        print := t.print.map (fun p =>
          { p with record := { entries := [{ letter 8 1562 97 with state := .pending }], counter := 1 } }) })
      (printing (inLine idle))
    -- the shift is 1,574 + 12 - 1,500, and the stroke that comes to 1,590 stands right of the owner that comes to 1,588 and is cut
    (1600 : Int) < past.endPos + 86 ∧ ¬((1600 : Int) < wide.endPos + 86)
      ∧ ((strokePositions ((1500 : Int) + 86).toNat 14)[strokeIndex work (stroke 1 1500)]?).map Int.ofNat = some 1586
      ∧ ((strokePositions ((1500 : Int) + 86).toNat 14)[strokeIndex work (stroke 2 1504)]?).map Int.ofNat = some 1590
      ∧ s.savedEntries.map (fun e => (e.id, e.pos)) = [(8, 1562), (0, 1586), (1, 1586)] := by decide

theorem witness_ListWriteEnds :
    let s := spells (fun sp => { sp with writing := some [162, 0, 94], writePending := true }) idle
    s.live ∧ s.spell.writing = some [162, 0, 94] := by decide

theorem witness_SupplyReport :
    idle.live ∧ idle.line.rostered .power = true ∧ idle.supply.phase = .running ∧ idle.engine.holds.low = idle.supply.low := by decide

theorem witness_SupplyTimersExpire :
    idle.live ∧ idle.supply.sagRunning = false ∧ (supplies (fun u => { u with sagRunning := true }) idle).supply.sagRunning = true
      ∧ (lines (fun l => { l with silenceRunning := true }) idle).line.silenceRunning = true
      ∧ idle.line.rostered .power = true ∧ idle.supply.phase = .running := by
  decide

theorem witness_PowerFailingStops :
    idle.live ∧ idle.line.rostered .power = true ∧ idle.supply.phase = .running ∧ idle.engine.progress = none
      ∧ (supplies (fun u => { u with phase := .saved }) idle).supply.phase ≠ .running := by decide

theorem witness_PowerFailingStops_op :
    let lifted (st : EntryState) (s : State) : State :=
      texts (fun t => { t with work := { entries := [{ letter 0 120 97 with state := st }], counter := 1 } }) s
    let tape : Op := { strike with origin := .correction, medium := .tape }
    let ends (o : Op) (st : EntryState) (g : Stage) : State := doing o g (lifted st idle)
    -- ops whose pulse runs, whose pulse has not begun, and a RETURN whose feed has ended
    (∀ q ∈ [(strike, Stage.pulse), (strike, .lift), (returnOp 120 2, .returning true false), (feedOp 1 .text, .feeding)],
        (doing q.1 q.2 idle).engine.head = some q.1 ∧ (doing q.1 q.2 idle).engine.progress.map Progress.stage = some q.2
          ∧ q.2 ≠ .settle ∧ q.2 ≠ .advance)
      -- strikes in their settle and their advance
      ∧ (∀ g ∈ [Stage.settle, .advance], (ends strike .queued g).supply.phase = .running
          ∧ (ends strike .queued g).engine.progress.map Progress.stage = some g ∧ (ends strike .queued g).engine.state ≠ .locked
          ∧ (ends strike .queued g).text.find 0 = some { letter 0 120 97 with state := .queued })
      ∧ (strike.kind = .strike ∧ strike.ref = some 0 ∧ strike.origin = .text)
      ∧ (tape.kind = .strike ∧ tape.ref = some 0 ∧ tape.origin = .correction
          ∧ (ends tape .lifting .advance).text.find 0 = some { letter 0 120 97 with state := .lifting }) := by decide

-- R66, R76: a strike in its settle completes as DOWN is entered, and one that waits for its lift is put back.
theorem test_powerFailing_op :
    let s (g : Stage) : State :=
      doing strike g (texts (fun t => { t with work := { entries := [{ letter 0 120 97 with state := .queued }], counter := 1 } }) idle)
    ((after (.powerFailing 7) (s .settle)).text.work.entries = [letter 0 120 97]
        ∧ (after (.powerFailing 7) (s .settle)).engine.head = none)
      ∧ ((after (.powerFailing 7) (s .lift)).engine.head = some strike ∧ (after (.powerFailing 7) (s .lift)).engine.progress = none)
      ∧ (after (.powerFailing 7) (doing (returnOp 120 2) (.returning true false) idle)).engine.head = some (returnOp 120 0) := by
  decide

theorem witness_SupplyInDown :
    let s := supplies (fun u => { u with phase := .saved, lastFailing := some 1000 }) idle
    s.live ∧ s.line.rostered .power = true ∧ s.supply.lastFailing = some 1000 ∧ s.supply.phase = .saved
      ∧ 1000 + 500000 ≤ 501000 ∧ 500999 < 1000 + 500000
      ∧ (supplies (fun u => { u with phase := .saving }) s).supply.phase = .saving := by decide

theorem witness_GlassFrames :
    let put (p : ShowPhase) (n : Nat) (l : List Message) (due : Bool) (c : Composer) : State :=
      displays (fun d => { d with phase := p, phaseCount := n, messages := l, messageDue := due, composer := c }) idle
    idle.live ∧ idle.supply.phase = .running
      ∧ (put .line 79 [.char] false .done).display.composer = .done ∧ idle.display.composer ≠ .done
      ∧ ((put .line 79 [.char] false .done).display.messages = [.char] ∧ 79 ≤ (put .line 79 [.char] false .done).display.phaseCount)
      ∧ (put .line 0 [.char] true .idle).display.messageDue = true
      ∧ ((put .line 78 [.char] false .idle).display.messageDue = false ∧ (put .line 78 [.char] false .idle).display.phaseCount < 79)
      ∧ ((put (.message .char) 46 [.char] false .idle).display.phase = .message .char
          ∧ (put (.message .char) 46 [.char] false .idle).display.phaseCount < 47)
      ∧ 47 ≤ (put (.message .char) 47 [.char] false .idle).display.phaseCount
      ∧ (supplies (fun u => { u with phase := .saving }) idle).supply.phase ≠ .running
      ∧ (put .line 0 [] false (.composing .blank)).display.composer = .composing .blank := by decide

theorem witness_GlassFrames_begins :
    let dirty := displays (fun d => { d with dirty := true }) (typed idle)
    let fast := supplies (fun u => { u with source := some .adapter, limit := 4, ceiling := 3 }) dirty
    (dirty.display.dirty = true ∧ dirty.display.composer = .idle ∧ dirty.supply.phase = .running ∧ dirty.display.frameCount % 4 = 0)
      ∧ (3 ≤ fast.supply.ceiling ∧ fast.supply.source ≠ some .battery)
      ∧ ((∀ e ∈ dirty.text.work.chars, 0 < e.width) ∧ (dirty.text.work.chars.map Entry.order).Nodup) := by decide

theorem witness_GlassFrames_messages :
    let put (faults transients standing : List Message) : Display :=
      { idle.display with messages := faults ++ transients, standing := standing }
    let four : List Message := [.cover, .ribbon, .wheel, .low]
    (∀ x ∈ four ++ [Message.start], x.isFault = true) ∧ (∀ x ∈ [Message.tape, .char], x.isFault = false)
      -- a new fault and a transient with room, with a transient to displace, and behind 4 faults
      ∧ ((put [.cover] [.tape] [.cover]).messages.length < 4 ∧ Message.ribbon ∉ (put [.cover] [.tape] [.cover]).standing)
      ∧ (4 ≤ (put [.cover, .ribbon] [.tape, .char] [.cover, .ribbon]).messages.length
          ∧ Message.wheel ∉ (put [.cover, .ribbon] [.tape, .char] [.cover, .ribbon]).standing)
      ∧ (4 ≤ four.length ∧ Message.start ∉ (put four [] four).standing)
      ∧ ([Message.tape, .char].erase .listFull = [.tape] ++ [.char]
          ∧ 4 ≤ ([Message.cover, .ribbon] ++ [Message.tape, .char].erase .listFull).length)
      ∧ (([Message.cover] ++ [Message.tape, .char].erase .char).length < 4 ∧ Message.char ∈ [Message.tape, .char])
      ∧ [Message.char].erase .char = []
      -- removals: of a fault outside the list, of one whose place stays free, and of one whose place another takes
      ∧ (Message.start ∈ (put four [] (four ++ [.start])).standing ∧ Message.start ∉ four)
      ∧ (∀ f ∈ four.erase .wheel, f ∈ four.erase .wheel)
      ∧ ((four ++ [Message.start]).erase .wheel = [.cover, .ribbon, .low] ++ .start :: []
          ∧ (∀ x ∈ [Message.cover, .ribbon, .low], x ∈ four.erase .wheel) ∧ Message.start ∉ four.erase .wheel) := by decide

-- R152, R153: with four faults listed the fifth waits outside, and takes the place of one that ends, in its order of posting.
theorem test_messages_outside :
    let four : List Message := [.cover, .ribbon, .wheel, .low]
    let d := ({ idle.display with messages := four, standing := four } : Display).post .stall
    d.messages = four ∧ (d.unpost .ribbon).messages = [.stall, .cover, .wheel, .low] := by decide

theorem witness_FramesMakeActions : 1 ≤ 1 ∧ 1 ≤ 159 := by decide

theorem witness_KeyJoins :
    let put (n : Nat) (hold sounded : Bool) : State :=
      { idle with intake := { idle.intake with queue := List.replicate n (key .space), hold := hold, dropSounded := sounded } }
    idle.live ∧ idle.line.rostered .keyboard = true ∧ keyAction (255 : Byte).toNat false = none
      ∧ keyAction (97 : Byte).toNat ((0 : Byte).getLsbD 0) = some (key .char 97) ∧ (97 : Byte) ≠ 0
      ∧ State.reset.intake.state ≠ .opened ∧ idle.intake.state = .opened
      ∧ ((1 : Byte).getLsbD 0 = true ∧ 4 ≤ (put 4 false false).intake.queue.length)
      ∧ (32 ≤ (put 32 true true).intake.queue.length ∧ (put 32 true true).intake.dropSounded = true)
      ∧ (put 32 true false).intake.dropSounded = false
      ∧ ((0 : Byte).getLsbD 0 = false ∧ (put 31 true false).intake.queue.length < 32)
      ∧ ((0 : Byte) = 0 ∧ ({ idle with intake := State.reset.intake } : State).intake.state ≠ .opened)
      ∧ (put 23 false false).intake.queue.length + 1 = 24 := by decide

theorem witness_TextAndSettingsJoin :
    idle.live ∧ idle.line.rostered .interface = true ∧ idle.intake.state = .opened
      ∧ ([65, 13] : List Byte).filterMap (fun c => textAction c.toNat) ≠ []
      ∧ settingAction (4 : Byte).toNat (256 * (0 : Byte).toNat + (3 : Byte).toNat) = some (setting .spacing 3)
      ∧ State.reset.intake.state ≠ .opened := by decide

-- R165, R170: the second of two codes reaches 24 and puts HOLD in the flow slot; of two codes at 31 one is dropped.
theorem test_textFrame_limits :
    let put (n : Nat) (hold : Bool) : State :=
      { idle with intake := { idle.intake with queue := List.replicate n (key .space), hold := hold } }
    ((after (.textFrame [65, 66]) (put 22 false)).intake.hold = true
        ∧ (after (.textFrame [65, 66]) (put 22 false)).line.flow.map TxFrame.kind = some .hold)
      ∧ (after (.textFrame [65, 66]) (put 31 true)).intake.queue.length = 32
      ∧ (after (.settingFrame 4 (0, 3)) (put 32 true)).intake.queue.length = 32 := by decide

theorem witness_ClearActs :
    let run : HeldRun := { kind := .center, startPp := 120, origin := 120, members := [0] }
    idle.live ∧ idle.line.rostered .keyboard = true ∧ idle.intake.state = .opened ∧ idle.text.run = none ∧ idle.engine.state ≠ .halted
      ∧ (engines (fun e => { e with state := .halted, fault := .wheelLost }) idle).engine.state = .halted
      ∧ (texts (fun t => { t with run := some run }) (typed idle)).text.run = some run ∧ idle.supply.phase = .running
      ∧ ((texts (fun t => { t with run := some run }) (typed idle)).text.allEntries.map Entry.id).Nodup
      ∧ (texts (fun t => { t with run := some run }) (typed idle)).text.work.Owned := by decide

theorem witness_HereClaims :
    let s := lines (fun l => { l with rosterOpen := true }) idle
    s.live ∧ 1 < 8 ∧ 1 ≠ s.line.station ∧ (∀ e ∈ s.line.roster, e.number ≠ 1)
      ∧ (s.line.rosterOpen = true ∧ s.line.firstCallSent = true ∧ hereClass 2 = some .keyboard
          ∧ s.line.station? .keyboard = some { number := 2, cls := .keyboard, variant := 0, status := .present } ∧ 1 < 2)
      ∧ idle.line.rosterOpen = false ∧ hereClass 1 = none
      ∧ (7 < 8 ∧ 7 ≠ s.line.station ∧ (∀ e ∈ s.line.roster, e.number ≠ 7) ∧ 2 < 7)
      ∧ (lines (fun l => { l with firstCallSent := false }) s).line.firstCallSent = false := by decide

-- A number that an entry bears: the keyboard's, and those of a SILENT power station and a SILENT cartridge.
theorem witness_HereClaims_borne :
    let silent := lines (fun l => { l with roster := stations.map (fun e => { e with status := .silent }) }) idle
    ∀ e ∈ silent.line.roster, e.number < 8 ∧ e.number ≠ silent.line.station ∧ silent.line.station? e.cls = some e
      ∧ (∀ x ∈ silent.line.roster, x.number = e.number → x = e) ∧ e.status = .silent ∧ silent.supply.phase = .running := by decide

-- R178, R190, R192: a HERE of a rostered number claims nothing and marks the SILENT power station PRESENT.
theorem test_here_borne :
    let silent := lines (fun l => { l with rosterOpen := true, roster := stations.map (fun e => { e with status := .silent }) }) idle
    (after (.here 3 2 0) silent).line.roster.map (fun e => (e.number, e.status))
      = [(2, .silent), (3, .present), (4, .silent), (5, .silent)] := by decide

theorem witness_RollCallRuns :
    let s := lines (fun l => { l with window := true, rosterOpen := true, nextCallDue := true, silenceRunning := true }) idle
    let none' := lines (fun l => { l with roster := [], callsMade := 7 }) s
    s.live ∧ s.line.window = true ∧ s.line.rosterOpen = true ∧ s.line.rostered .keyboard = true
      ∧ (none'.line.rostered .keyboard = false ∧ none'.line.rostered .interface = false ∧ none'.line.callsMade < 8)
      ∧ 8 ≤ (lines (fun l => { l with callsMade := 8 }) none').line.callsMade
      ∧ (lines (fun l => { l with rosterOpen := false }) s).line.rosterOpen = false
      ∧ s.line.nextCallDue = true ∧ s.line.places.length < 8 ∧ s.line.silenceRunning = true := by decide

/-- One query is outstanding for the word 'ab'. -/
def asked : State :=
  typed (spells (fun sp => { sp with records := [word .asking], outstanding := [{ tag := 5, record := some 0 }] }) idle)

theorem witness_VerdictsSettleWords :
    asked.live ∧ asked.supply.phase = .running ∧ asked.line.rostered .cartridge = true
      ∧ asked.spell.outstanding.find? (fun q => decide (q.tag = (5 : Byte).toNat)) = some { tag := 5, record := some 0 }
      ∧ asked.spell.record? 0 = some (word .asking) ∧ (word .asking).state = .asking ∧ asked.spell.waitList = []
      ∧ (1 : Byte).toNat = 1 ∧ (2 : Byte).toNat = 2 ∧ asked.line.cartridgeSilent = false
      ∧ (let s := spells (fun sp => { sp with records := [word .waiting], waitList := [0] }) idle
         s.spell.waitList = 0 :: [] ∧ s.spell.record? 0 = some (word .waiting)) := by decide

/-- The query of tag 5 is an orphan. -/
def orphaned : State := spells (fun sp => { sp with outstanding := [{ tag := 5, record := none }] }) asked

-- R129 to R131: an orphan, a record that is settled, a tag that is not out, a verdict of 3, and a cartridge that is SILENT already.
theorem witness_VerdictsSettleWords_orphan :
    let silent (s : State) : State := lines (fun l => { l with roster := stations.map (fun e => { e with status := .silent }) }) s
    let settled := spells (fun sp => { sp with records := [word .known] }) asked
    (orphaned.live ∧ orphaned.supply.phase = .running ∧ orphaned.line.rostered .cartridge = true)
      ∧ orphaned.spell.outstanding.find? (fun q => decide (q.tag = (5 : Byte).toNat)) = some { tag := 5, record := none }
      ∧ (∀ q ∈ asked.spell.outstanding, q.tag ≠ (6 : Byte).toNat) ∧ ((3 : Byte).toNat ≠ 1 ∧ (3 : Byte).toNat ≠ 2)
      ∧ (settled.spell.record? 0 = some (word .known) ∧ (word .known).state ≠ .asking)
      ∧ orphaned.spell.timeoutRun < 2
      ∧ (let s := spells (fun sp => { sp with timeoutRun := 2 }) orphaned
         2 ≤ s.spell.timeoutRun ∧ s.line.cartridgeSilent = false ∧ (s.spell.records.map WordRecord.id).Nodup
           ∧ (silent s).line.cartridgeSilent = true)
      ∧ (silent asked).line.cartridgeSilent = true := by decide

-- R129, R131: an answer with another verdict leaves the query out; a third timeout of a SILENT cartridge takes the run back to 0.
theorem test_wordAnswer_other :
    let s := spells (fun sp => { sp with timeoutRun := 2 }) asked
    let silent := lines (fun l => { l with roster := stations.map (fun e => { e with status := .silent }) }) s
    ((after (.wordAnswer 5 3) s).spell.outstanding.length = 1 ∧ (after (.wordAnswer 5 3) s).spell.timeoutRun = 0)
      ∧ ((after (.queryTimeout 5) silent).spell.outstanding = [] ∧ (after (.queryTimeout 5) silent).spell.timeoutRun = 0) := by decide

/-- One query is outstanding for 'ab', and a second record waits for the table. -/
def askedTwo : State :=
  spells (fun sp => { sp with records := [word .asking, { word .waiting with id := 1, tag := none, letters := [99] }], waitList := [1] }) asked

theorem witness_VerdictsSettleWords_waits :
    let third := spells (fun sp => { sp with timeoutRun := 2 }) askedTwo
    askedTwo.spell.record? 0 = some (word .asking) ∧ askedTwo.spell.timeoutRun < 2
      -- the head of the wait list can be asked with the first tag
      ∧ (askedTwo.spell.waitList = 1 :: [] ∧ (askedTwo.spell.record? 1).isSome = true ∧ askedTwo.line.places.length < 8
          ∧ askedTwo.line.station? .cartridge = some { number := 4, cls := .cartridge, variant := 0, status := .present }
          ∧ askedTwo.spell.tagCounter < 64 ∧ (askedTwo.spell.outstanding.filter (fun x => decide (x.tag ≠ 5))).length < 4)
      ∧ (2 ≤ third.spell.timeoutRun ∧ (third.spell.records.map WordRecord.id).Nodup ∧ third.line.cartridgeSilent = false) := by decide

-- R128, R130: a verdict has the waiting word asked; the third timeout makes it UNCHECKED and the cartridge SILENT.
theorem test_waitList :
    let asksNext := after (.wordAnswer 5 1) askedTwo
    let third := after (.queryTimeout 5) (spells (fun sp => { sp with timeoutRun := 2 }) askedTwo)
    (asksNext.spell.records.map WordRecord.state = [.known, .asking] ∧ asksNext.spell.waitList = []
        ∧ asksNext.line.places.map TxFrame.kind = [.wordQuery 0 [99] 4])
      ∧ (third.spell.records.map WordRecord.state = [.unchecked, .unchecked] ∧ third.spell.waitList = []
          ∧ third.line.cartridgeSilent = true) := by decide

/-- The lookup of the word 'ab' is under way. -/
def looking : State :=
  spells (fun sp => { sp with records := [word .looking], lookup := some { record := some 0, listed := false } }) idle

theorem witness_LookupEnds :
    let listed := spells (fun sp => { sp with userList := [[97, 98]], lookup := some { record := some 0, listed := true } }) looking
    let asks (n : Nat) (tags : List Nat) (waits : List Nat) : State :=
      spells (fun sp =>
        { sp with outstanding := tags.map (fun t => { tag := t, record := none }), tagCounter := n, waitList := waits }) looking
    looking.live ∧ looking.spell.lookup = some { record := some 0, listed := false } ∧ looking.spell.record? 0 = some (word .looking)
      ∧ (spells (fun sp => { sp with lookup := some { record := none, listed := false } }) looking).spell.lookup
        = some { record := none, listed := false }
      ∧ (listed.spell.userList.contains (word .looking).letters = true
          ∧ listed.spell.lookup = some { record := some 0, listed := true })
      ∧ (lines (fun l => { l with roster := [] }) looking).line.rostered .cartridge = false
      ∧ (lines (fun l => { l with roster := stations.map (fun e => { e with status := .silent }) }) looking).line.cartridgeSilent = true
      ∧ looking.line.rostered .cartridge = true ∧ 15 ≤ (List.replicate 15 97).length ∧ 39 ∈ [97, 39, 98]
      ∧ looking.line.station? .cartridge = some { number := 4, cls := .cartridge, variant := 0, status := .present }
      ∧ (looking.line.cartridgeSilent = false ∧ (word .looking).letters.length < 15 ∧ 39 ∉ (word .looking).letters)
      ∧ looking.spell.outstanding.length < 4 ∧ looking.line.places.length < 8
      -- the tags 63 and 0 are skipped
      ∧ (let s := asks 63 [63, 0] []
         s.spell.tagCounter < 64 ∧ 2 ≤ s.spell.outstanding.length
           ∧ (∀ j < 2, ∃ q ∈ s.spell.outstanding, q.tag = (s.spell.tagCounter + j) % 64)
           ∧ ∀ q ∈ s.spell.outstanding, q.tag ≠ (s.spell.tagCounter + 2) % 64)
      ∧ (4 ≤ (asks 4 [0, 1, 2, 3] [7, 8, 9]).spell.outstanding.length ∧ (asks 4 [0, 1, 2, 3] [7, 8, 9]).spell.waitList.length < 4)
      ∧ 4 ≤ (asks 4 [0, 1, 2, 3] [6, 7, 8, 9]).spell.waitList.length := by and_intros <;> decide

-- Table 6-3: 'gooder' passes to R126.
theorem witness_LookupEnds_unknown :
    let r : WordRecord := { word .looking with letters := [103, 111, 111, 100, 101, 114] }
    let s := spells (fun sp => { sp with records := [r] }) looking
    s.spell.record? r.id = some r ∧ lookupKnows (s.spell.listGives { record := some 0, listed := false } r) r.letters = false := by decide

-- Table 6-3: baking, stopping, stopped, kisses, cat's and is are KNOWN; the worked sequence of a spell-stop: dog is, teh is not.
theorem test_lookup_cases :
    ∀ w ∈ [[98, 97, 107, 105, 110, 103], [115, 116, 111, 112, 112, 105, 110, 103], [115, 116, 111, 112, 112, 101, 100],
      [107, 105, 115, 115, 101, 115], [99, 97, 116, 39, 115], [105, 115], [100, 111, 103]], lookupKnows false w = true := by decide
theorem test_lookup_teh : lookupKnows false [116, 101, 104] = false := by decide
theorem test_lookup_notDoubled : Ending.er.candidates [103, 111, 111, 100] = [[103, 111, 111, 100], [103, 111, 111, 100, 101]] := by
  decide

-- R121, R123: the lookup of a record that has been dropped settles no other record.
theorem test_lookupEnd_discarded :
    let s := spells (fun sp => { sp with lookup := some { record := none, listed := false } }) looking
    (after .lookupEnd s).spell.records.map WordRecord.state = [.looking]
      ∧ (after .lookupEnd s).spell.lookup = some { record := some 0, listed := false } := by decide

theorem witness_ReceiverFollows :
    let receives (r : Receiver) : State := lines (fun l => { l with receiver := r }) idle
    let silent := lines (fun l => { l with roster := stations.map (fun e => { e with status := .silent }) }) idle
    idle.live ∧ idle.line.receiver = .waiting ∧ ((receives .hunting).line.receiver = .hunting ∧ idle.line.stuck = false)
      ∧ ((receives .receiving).line.receiver = .receiving ∧ hear [160, 47] = .error ∧ hear [160] = .badEnd)
      ∧ byteSum [64, 0, 1] ≠ 0
      ∧ (byteSum [0x27, 0x10, 0xC9] = 0 ∧ ([0x27, 0x10, 0xC9] : List Byte).length = frameLength [0x27, 0x10, 0xC9] + 3
          ∧ frameSender [0x27, 0x10, 0xC9] ≠ idle.line.station ∧ takenKind (frameKind [0x27, 0x10, 0xC9]) = false
          ∧ ∀ e ∈ idle.line.roster, e.number ≠ frameSender [0x27, 0x10, 0xC9])
      ∧ (byteSum [0x67, 0x70, 0x29] = 0 ∧ frameSender [0x67, 0x70, 0x29] = 3 ∧ takenKind (frameKind [0x67, 0x70, 0x29]) = false
          ∧ ([0x67, 0x70, 0x29] : List Byte).length = frameLength [0x67, 0x70, 0x29] + 3
          ∧ silent.line.station? .power = some { number := 3, cls := .power, variant := 0, status := .silent }
          ∧ silent.supply.phase = .running
          ∧ silent.line.station? .cartridge = some { number := 4, cls := .cartridge, variant := 0, status := .silent })
      ∧ (lines (fun l => { l with stuck := true }) idle).line.stuck = true := by decide

-- Tests 7 and 8 of Table 9-2: a KEY from the power station, and a KEY of the keyboard without a payload; a SILENT cartridge.
theorem witness_ReceiverFollows_tests :
    let key (sender : Nat) (payload : List Byte) : List Byte := frameBytes sender 4 15 payload
    let silent := lines (fun l => { l with roster := stations.map (fun e => { e with status := .silent }) }) idle
    (∀ b ∈ [key 3 [97, 0], key 2 [], key 4 [97, 0]], byteSum b = 0 ∧ b.length = frameLength b + 3
        ∧ frameSender b ≠ idle.line.station ∧ frameKind b = 4 ∧ frameAddressee b = 15)
      ∧ (frameSender (key 3 [97, 0]) = 3 ∧ ∀ e, idle.line.station? .keyboard = some e → e.number ≠ 3)
      ∧ frameLength (key 2 []) ≠ 2
      ∧ (frameSender (key 4 [97, 0]) = 4
          ∧ silent.line.station? .cartridge = some { number := 4, cls := .cartridge, variant := 0, status := .silent }
          ∧ silent.line.station? .power = some { number := 3, cls := .power, variant := 0, status := .silent })
      ∧ (after (.frameDropped (key 4 [97, 0])) silent).line.cartridgeSilent = false := by
  refine ⟨by decide, ⟨by decide, ?_⟩, by decide, by decide, by decide⟩
  intro e h
  cases h
  decide

-- R175, R176: an interval below 6 µs, one above 28 µs with the line low, and one above 28 and below 40 µs with the line released are
-- coding errors; a released interval of 40 µs is the frame end.
theorem witness_ReceiverFollows_intervals :
    (∀ l ∈ [[160, 47], [225], [160, 225], [160, 319]], hear l = .error)
      ∧ (∀ (j x : Nat), j < 1 → j % 2 = 1 → [160, 319][j]? = some x → x < 320)
      ∧ hear [160, 320] = hear [160] ∧ hear [160, 320, 40] = hear [160] ∧ ([160] : List Nat).length % 2 = 1 := by
  refine ⟨by decide, ?_, by decide, by decide, by decide⟩
  intro j x h1 h2
  omega

/-- A frame of the transmit queue. -/
def frame (k : TxKind) (n : Nat) (losses : Nat := 0) : TxFrame := { kind := k, stamp := n, losses := losses }

theorem witness_TransmissionBegins :
    let flow (k : TxKind) : State := lines (fun l => { l with flow := some (frame k 1), stamp := 2 }) idle
    let placed : State := lines (fun l => { l with places := [frame .state 0], stamp := 2 }) idle
    idle.live ∧ idle.supply.phase = .running ∧ idle.line.receiver = .waiting ∧ idle.line.stuck = false ∧ idle.line.sending = none
      ∧ ((flow .hold).line.flow = some (frame .hold 1) ∧ 80 ≤ 80 ∧ 79 < 80)
      ∧ (placed.line.places.head? = some (frame .state 0) ∧ (frame .state 0).kind ≠ .hold ∧ placed.line.flow = none
          ∧ (6 + 2 * placed.line.station) * 20 ≤ 120 ∧ 119 < (6 + 2 * placed.line.station) * 20)
      ∧ ((lines (fun l => { l with places := [frame .state 0] }) (flow .release)).line.flow = some (frame .release 1)
          ∧ (frame .release 1).kind ≠ .hold ∧ (frame .state 0).stamp ≤ (frame .release 1).stamp)
      ∧ ((flow .release).line.flow = some (frame .release 1) ∧ (flow .release).line.places.head? = none)
      ∧ (idle.line.flow = none ∧ idle.line.places = [])
      ∧ (∀ r ∈ [Receiver.hunting, .receiving], (lines (fun l => { l with receiver := r }) placed).line.receiver ≠ .waiting)
      ∧ (lines (fun l => { l with stuck := true }) placed).line.stuck = true
      ∧ (lines (fun l => { l with sending := some { frame := frame .state 0, bytes := [] } }) placed).line.sending ≠ none
      ∧ (supplies (fun u => { u with phase := .saving }) placed).supply.phase ≠ .running := by decide

theorem witness_StateReportsValues : 1 ≤ idle.supply.ceiling ∧ idle.supply.ceiling ≤ 4 ∧ 1 ≤ 1 ∧ 4 ≤ 4 := by decide

theorem witness_FrameSentLeaves :
    let s := lines (fun l => { l with places := [frame .rollCall 0], sending := some { frame := frame .rollCall 0, bytes := [] }, stateOwed := true }) idle
    s.live ∧ s.line.sending = some { frame := frame .rollCall 0, bytes := [] } ∧ s.line.stateOwed = true
      ∧ (∃ f ∈ s.line.places, f.stamp = 0)
      ∧ (lines (fun l => { l with places := [] }) s).line.places = [] := by decide

theorem witness_FrameSentLeaves_joins :
    let put (k : TxKind) (n : Nat) (x : Option Sending) : LineInterface :=
      { idle.line with places := (List.range n).map (frame k), stamp := n, sending := x }
    let sent (k : TxKind) : LineInterface := put k 1 (some { frame := frame k 0, bytes := [] })
    -- a STATE that waits, one that is being sent, and a full queue
    ((∃ f ∈ (put .state 1 none).places, f.kind = .state ∧ ∀ x, (put .state 1 none).sending = some x → x.frame.stamp ≠ f.stamp)
        ∧ ¬(∃ f ∈ (sent .state).places, f.kind = .state ∧ f.stamp ≠ 0) ∧ (sent .state).places.length < 8
        ∧ 8 ≤ (put .rollCall 8 none).places.length ∧ (∀ f ∈ (put .rollCall 8 none).places, f.kind ≠ .state))
      -- a SOUND with a keyboard, without one, and with one of its pattern in the queue
      ∧ (idle.line.roster.find? (fun e => decide (e.cls = .keyboard))).map RosterEntry.number = some 2
      ∧ (∀ e ∈ State.reset.line.roster, e.cls ≠ .keyboard)
      ∧ (∃ f ∈ (sent (.sound .bell 2)).places, f.kind = .sound .bell 2)
      ∧ (∀ f ∈ (sent (.sound .bell 2)).places, ∀ n ∈ List.range 8, f.kind ≠ .sound .click n) :=
  ⟨⟨⟨_, List.mem_singleton.mpr rfl, rfl, fun _ h => nomatch h⟩, by decide, by decide, by decide, by decide⟩, by decide, by decide,
    by decide, by decide⟩

-- R128, R185: with one place freed of the 8, the owed STATE or the waiting word takes it, whichever comes first.
theorem test_frameSent_room :
    let full := spells (fun sp => { sp with outstanding := [] })
      (lines (fun l =>
        { l with
          places := (List.range 8).map (fun i => frame (.sound .bell 2) i), stamp := 8, stateOwed := true,
          sending := some { frame := frame (.sound .bell 2) 0, bytes := [] } }) askedTwo)
    (((after (.frameSent true) full).line.places.getLast?.map TxFrame.kind) = some .state
        ∧ (after (.frameSent true) full).spell.waitList = [1])
      ∧ (((after (.frameSent false) full).line.places.getLast?.map TxFrame.kind) = some (.wordQuery 0 [99] 4)
          ∧ (after (.frameSent false) full).line.stateOwed = true) := by decide

theorem witness_LossesCount :
    let put (f : TxFrame) (l : List TxFrame) : State :=
      lines (fun x => { x with places := l, stamp := 9, sending := some { frame := f, bytes := [] } }) idle
    let at_ (k : TxKind) (n : Nat) : State := put (frame k 0 n) [frame k 0 n]
    (put (frame .state 0) []).live ∧ (put (frame .state 0) []).line.sending = some { frame := frame .state 0, bytes := [] }
      ∧ askedTwo.spell.waitList ≠ []
      ∧ ((∀ f ∈ (put (frame .state 0) []).line.places, f.stamp ≠ 0) ∧ (put (frame .state 0) []).line.flow = none)
      ∧ (let s := put (frame .state 0) [frame .state 0, frame .state 3]
         frame .state 0 ∈ s.line.places ∧ ∃ f ∈ s.line.places, f.kind = .state ∧ f.stamp ≠ 0)
      ∧ (frame .rollCall 0 14 ∈ (at_ .rollCall 14).line.places ∧ (frame .rollCall 0 14).losses < 15)
      ∧ (∀ k ∈ [TxKind.rollCall, .state, .sound .click 2, .wordQuery 5 [97, 98] 4],
          frame k 0 15 ∈ (at_ k 15).line.places ∧ 15 ≤ (frame k 0 15).losses
            ∧ ∀ f ∈ (at_ k 15).line.places, f.kind = .state → f.stamp = 0)
      ∧ (lines (fun x => { x with flow := some (frame .hold 0 15) }) (put (frame .hold 0 15) [])).line.flow = some (frame .hold 0 15) := by
  decide

theorem witness_ActionsTaken :
    (offer (key .char 97) idle).offers .char (key .char 97) []
      ∧ (offer (key .char 97) idle).slotsNeeded (key .char 97) ≤ (offer (key .char 97) idle).freeSlots
      ∧ (let full := engines (fun e => { e with slots := List.replicate 64 (feedOp 1 .text) }) (offer (key .char 97) idle)
         full.freeSlots < full.slotsNeeded (key .char 97))
      ∧ (∀ a rest, ¬idle.offers .char a rest) := by
  refine ⟨by decide, by decide, by decide, ?_⟩
  intro a rest h
  cases h.2.1

theorem witness_LockedRefuses :
    let locked (k : ActionKind) (s : State) : State := engines (fun e => { e with state := .locked }) (offer (key k) s)
    let running (r : RunKind) (s : State) : State :=
      texts (fun t => { t with run := some { kind := r, startPp := 120, origin := 120, members := [] } }) s
    (∀ k ∈ [ActionKind.char, .index, .reverseIndex, .halfUp, .halfDown, .carriageReturn, .correct, .wordCorrect, .lineCorrect],
      (locked k idle).offers k (key k) [] ∧ (locked k idle).engine.state = .locked ∧ (locked k idle).engine.slots = []
        ∧ (locked k idle).text.run = none ∧ (locked k idle).text.settings.mode = .direct)
      ∧ (∀ k ∈ [ActionKind.index, .reverseIndex, .carriageReturn],
        (locked k (inLine idle)).offers k (key k) [] ∧ (locked k (inLine idle)).text.settings.mode = .line)
      ∧ (locked .carriageReturn (running .center idle)).offers .carriageReturn (key .carriageReturn) []
      ∧ ((locked .flushRight (running .flush idle)).offers .flushRight (key .flushRight) []
          ∧ (locked .flushRight (running .flush idle)).text.run
            = some { kind := .flush, startPp := 120, origin := 120, members := [] })
      -- a DECIMAL run: another action, and the decimal character
      ∧ (locked .tab (running .decimal idle)).offers .tab (key .tab) []
      ∧ (let point := engines (fun e => { e with state := .locked }) (offer (key .char 46) (running .decimal idle))
         point.offers .char (key .char 46) [] ∧ (key .char 46).code = point.intake.decimal) := by decide

-- R25: a DECIMAL run stands under LOCKED, with a CLICK for the TAB that would end it.
theorem test_locked_decimal :
    let run : HeldRun := { kind := .decimal, startPp := 120, origin := 120, members := [] }
    let s := engines (fun e => { e with state := .locked }) (offer (key .tab) (texts (fun t => { t with run := some run }) idle))
    (after .tab s).text.run = some run ∧ (after .tab s).line.places.map TxFrame.kind = [.sound .click 2] := by decide

theorem witness_LockedRefuses_return :
    let a := key .carriageReturn
    let locked := engines (fun e => { e with state := .locked }) (offer a (inLine (typed idle)))
    let stop (st : WordState) (m : SpellMark) : State :=
      spells (fun sp => { sp with records := [word st] })
        (texts (fun t =>
          { t with
            work := { t.work with entries := t.work.entries.map (fun e => { e with mark := m }) },
            settings := { t.settings with spell := .checkStop } }) locked)
    (locked.offers .carriageReturn a [] ∧ locked.engine.state = .locked ∧ locked.engine.slots = [] ∧ locked.text.print = none
        ∧ locked.text.settings.spell ≠ .checkStop)
      ∧ (let s := stop .known .plain
         s.offers .carriageReturn a [] ∧ ((s.taken []).wordEnd 144).spell.lineSettled = true
           ∧ ((s.taken []).wordEnd 144).unknownStands = false)
      ∧ (let s := stop .asking .plain
         s.offers .carriageReturn a [] ∧ s.text.armed = false ∧ ((s.taken []).wordEnd 144).spell.lineSettled = false)
      ∧ (let s := stop .unknown .unknown
         s.offers .carriageReturn a [] ∧ ((s.taken []).wordEnd 144).spell.lineSettled = true
           ∧ ((s.taken []).wordEnd 144).unknownStands = true) := by and_intros <;> decide

theorem witness_SettingsChange :
    ∀ k ∈ [ActionKind.marginRelease, .underline, .bold, .pitch, .spacing, .impression, .justify, .spell],
      (offer (key k) idle).plain k (key k) [] ∧ (key k).value = none
        ∧ (offer (setting k 3) idle).plain k (setting k 3) [] ∧ (setting k 3).value = some 3 := by decide

theorem witness_ModeChanges :
    (offer (key .mode) idle).plain .mode (key .mode) [] ∧ (key .mode).value = none
      ∧ ((offer (setting .mode 0) idle).plain .mode (setting .mode 0) [] ∧ (setting .mode 0).value = some 0)
      ∧ ((offer (setting .mode 1) idle).plain .mode (setting .mode 1) [] ∧ (setting .mode 1).value = some 1)
      ∧ (offer (key .mode) (typed idle)).text.work.entries ≠ []
      ∧ ((offer (key .mode) (printing (inLine idle))).plain .mode (key .mode) []
          ∧ (printing (inLine idle)).text.work.entries = [] ∧ (printing (inLine idle)).text.print ≠ none) := by decide

theorem witness_ModeChanges_run :
    let h : HeldRun := { kind := .center, startPp := 120, origin := 120, members := [] }
    let s := offer (key .mode) (texts (fun t => { t with run := some h }) idle)
    s.offers .mode (key .mode) [] ∧ s.text.run = some h ∧ h.kind ≠ .decimal := by decide

theorem witness_ModeChanges_resumes :
    let s := texts (fun t => { t with resume := some { action := key .mode, stage := .afresh } }) (inLine idle)
    s.live ∧ s.supply.phase = .running ∧ s.text.waiting = none ∧ s.text.run = none ∧ s.text.settings.mode = .line
      ∧ s.text.resume = some { action := key .mode, stage := .afresh } ∧ s.text.work.entries = [] ∧ s.text.print = none := by decide

/-- Twenty-four tab stops. -/
def stops24 : List Nat := (List.range 24).map (fun i => 10 * i)

theorem witness_TabsAndMargins :
    let at_ (k : ActionKind) (p : Nat) (tabs : List Nat) : State :=
      offer (key k) (texts (fun t => { t with pp := p, settings := { t.settings with tabs := tabs } }) idle)
    ((at_ .tabSet 1600 []).plain .tabSet (key .tabSet) [] ∧ (at_ .tabSet 1600 []).text.pp = 1600)
      ∧ (120 ∈ (at_ .tabSet 120 [120]).text.settings.tabs ∧ (at_ .tabSet 120 [120]).text.pp ≠ 1600)
      ∧ (120 ∈ stops24 ∧ 24 ≤ stops24.length ∧ (at_ .tabSet 120 stops24).plain .tabSet (key .tabSet) [])
      ∧ (235 ∉ stops24 ∧ 24 ≤ stops24.length ∧ (at_ .tabSet 235 stops24).plain .tabSet (key .tabSet) [])
      ∧ (235 ∉ stops24.take 23 ∧ (stops24.take 23).length < 24 ∧ rising (stops24.take 23) = true)
      ∧ (at_ .tabClear 120 [120]).plain .tabClear (key .tabClear) [] ∧ (at_ .tabClearAll 120 [120]).plain .tabClearAll (key .tabClearAll) []
      ∧ ((at_ .lmSet 1019 []).plain .lmSet (key .lmSet) [] ∧ (at_ .lmSet 1019 []).text.pp < 1020 ∧ 1020 ≤ (at_ .lmSet 1020 []).text.pp)
      ∧ ((at_ .rmSet 121 []).plain .rmSet (key .rmSet) [] ∧ 120 < (at_ .rmSet 121 []).text.pp ∧ (at_ .rmSet 120 []).text.pp ≤ 120)
      ∧ ((offer (setting .lmSet 1600) idle).plain .lmSet (setting .lmSet 1600) [] ∧ (setting .lmSet 1600).value = some 1600)
      ∧ ((offer (setting .rmSet 0) idle).plain .rmSet (setting .rmSet 0) [] ∧ (setting .rmSet 0).value = some 0) := by and_intros <;> decide

theorem witness_PrintPointMoves :
    let at_ (k : ActionKind) (p : Nat) (s : State) : State := offer (key k) (texts (fun t => { t with pp := p }) s)
    let free := sets (fun x => { x with marginRelease := true, tabs := [240, 1020] })
    let line := at_ .space 1009 (inLine idle)
    ((at_ .space 1008 idle).plain .space (key .space) [] ∧ (at_ .space 1008 idle).text.pp + spaceWidth .p10 ≤ 1020)
      ∧ (1600 < (at_ .space 1589 (free idle)).text.pp + 12 ∧ (at_ .space 1589 (free idle)).text.settings.marginRelease = true)
      ∧ (1020 < (at_ .space 1009 idle).text.pp + 12 ∧ idle.text.settings.marginRelease = false)
      ∧ (line.plain .space (key .space) [] ∧ line.text.print = none ∧ line.engine.state ≠ .locked ∧ (printing line).text.print ≠ none
          ∧ (engines (fun e => { e with state := .locked }) line).engine.state = .locked)
      ∧ ((at_ .tab 240 (free idle)).plain .tab (key .tab) [] ∧ ∀ u ∈ [240, 1020], u ≤ 240 ∨ 1020 ≤ u)
      ∧ (240 ∈ (at_ .tab 239 (free idle)).text.settings.tabs ∧ 239 < 240 ∧ 240 < 1020 ∧ ∀ v ∈ [240, 1020], 239 < v → 240 ≤ v)
      ∧ ((at_ .backspace 120 idle).plain .backspace (key .backspace) [] ∧ (at_ .backspace 120 idle).text.work.newestEndingAt 120 = none
          ∧ 120 < (at_ .backspace 121 idle).text.pp ∧ (at_ .backspace 121 idle).text.work.newestEndingAt 121 = none)
      ∧ ((at_ .backspace 144 (typed idle)).text.work.newestEndingAt 144 = some (letter 1 132 98)
          ∧ (inLine (at_ .backspace 144 (typed idle))).plain .backspace (key .backspace) []
          ∧ ((typed idle).text.allEntries.map Entry.id).Nodup ∧ (typed idle).text.work.Owned)
      ∧ ((at_ .relocate 500 (typed idle)).plain .relocate (key .relocate) [] ∧ (typed idle).text.work.chars ≠ [] ∧ idle.text.work.chars = []
          ∧ (at_ .relocate 500 (inLine idle)).text.settings.mode = .line) := by and_intros <;> decide

theorem witness_CompanionsStand :
    let p (w : Nat) : Placement := { char := 97, pos := 1595, width := w, offset := 2, rise := 0, bold := true, underline := true }
    (6 ≤ (p 6).width ∧ (p 6).width ≤ 14) ∧ 6 ≤ (p 10).width ∧ (p 14).width ≤ 14
      ∧ LineRecord.empty.counter + 4 ≤ 65536 ∧ (makeEntries 0 (p 14) .queued)[3]?.isSome = true := by decide

theorem witness_CharPlaced :
    let a := key .char 97
    let at_ (p : Nat) (s : State) : State := offer a (texts (fun t => { t with pp := p }) s)
    let line := inLine (at_ 1009 idle)
    -- 'ab' ends at 1,009, so that a word is carried.
    let carried := inLine (texts (fun t =>
      { t with work := { entries := [letter 0 120 97, letter 1 985 97, letter 2 997 98], counter := 3 } }) (at_ 1009 idle))
    let whole := inLine (texts (fun t => { t with work := { entries := [letter 1 985 97, letter 2 997 98], counter := 3 } }) (at_ 1009 idle))
    ((at_ 1008 idle).plain .char a [] ∧ idle.text.settings.mode = .direct ∧ (at_ 1008 idle).slotsNeeded a ≤ (at_ 1008 idle).freeSlots
        ∧ onWheel (some 0) 97 = true ∧ idle.text.settings.underline = false
        ∧ 1008 + widthAt .p10 (some 0) 97 ≤ 1020
        ∧ idle.text.work.entries.length + entryCount (widthAt .p10 (some 0) 97) false false ≤ 320
        ∧ (idle.text.work.charsAt 1008).length < 2 ∧ idle.engine.state ≠ .locked)
      ∧ ((inLine (at_ 1008 idle)).plain .char a [] ∧ (inLine (at_ 1008 idle)).text.settings.mode = .line)
      ∧ onWheel (some 0) 159 = false
      ∧ (¬(1009 + widthAt .p10 (some 0) 97 ≤ 1020) ∧ (at_ 1009 idle).text.settings.marginRelease = false)
      ∧ (line.plain .char a [] ∧ line.text.work.newestEndingAt 1009 = none ∧ 120 + widthAt .p10 (some 0) 97 ≤ 1020
          ∧ (printing line).text.print ≠ none ∧ line.text.print = none ∧ line.engine.state ≠ .locked)
      -- refused with no word at pp: not on the wheel, and wider than the line
      ∧ (¬(onWheel line.engine.wheel 159 = true)
          ∧ ¬((sets (fun x => { x with lm := 1010 }) line).text.settings.lm + widthAt .p10 (some 0) 97 ≤ 1020)
          ∧ (sets (fun x => { x with lm := 1010 }) line).plain .char a [])
      ∧ (let locked := engines (fun e => { e with state := .locked })
         (locked line).plain .char a [] ∧ (locked carried).plain .char a [] ∧ (locked carried).text.print = none)
      ∧ (carried.plain .char a [] ∧ carried.text.work.newestEndingAt 1009 ≠ none
          ∧ 120 < leastPos 120 (carried.text.work.wordAt 1009)
          ∧ (carried.text.work.wordAt 1009).length < carried.text.work.chars.length
          ∧ (1009 - leastPos 120 (carried.text.work.wordAt 1009)) + 12 ≤ 1020 - 120
          ∧ (carried.text.work.entries.filter (fun e => ((carried.text.work.wordAt 1009).map Entry.id).contains (ownerId e))).length
              + entryCount 12 false false ≤ 320)
      ∧ (whole.plain .char a [] ∧ ¬((whole.text.work.wordAt 1009).length < whole.text.work.chars.length))
      ∧ ((carried.text.work.entries.map Entry.id).Nodup ∧ letter 1 985 97 ∈ carried.text.work.wordAt 1009)
      ∧ (nativePitch 9 = some .ps ∧ nativePitch 0 ≠ some .ps ∧ nativePitch 12 ≠ some .ps) := by and_intros <;> decide

-- R13, R42: with the engine LOCKED the wrap of a CHAR is refused with a CLICK, and the working line stands.
theorem test_char_locked_wrap :
    let s := engines (fun e => { e with state := .locked })
      (inLine (offer (key .char 97) (texts (fun t => { t with pp := 1009 }) (typed idle))))
    (after .char s).text = s.text ∧ (after .char s).line.places.map TxFrame.kind = [.sound .click 2] := by decide

-- R1, R42: behind a carried word of 319 entries a character finds its place and its bold companion does not.
theorem test_wrap_full :
    let stroke : Entry := { letter 2 985 95 with kind := .underscore, owner := some 1 }
    let s (b : Bool) : State := sets (fun x => { x with bold := b })
      (texts (fun t => { t with work := { entries := letter 0 120 97 :: letter 1 985 97 :: List.replicate 318 stroke, counter := 320 } }) idle)
    (s false).carryFull (key .char 97) [letter 1 985 97] = false ∧ (s true).carryFull (key .char 97) [letter 1 985 97] = true := by
  decide +kernel
-- R36: an entry that ends at 960 does not enter the bell zone of RM 1,020; the first one beyond it asks for BELL, once.
theorem test_char_bell :
    let at_ (b : Bool) : State := offer (key .char 97) (texts (fun t => { t with pp := 949, bellGiven := b }) idle)
    (entersBell 1020 948 12 = false ∧ entersBell 1020 949 12 = true)
      ∧ TxKind.sound .bell 2 ∈ (after .char (at_ false)).line.places.map TxFrame.kind
      ∧ TxKind.sound .bell 2 ∉ (after .char (at_ true)).line.places.map TxFrame.kind := by decide

theorem witness_DispatchMoves :
    let s := typed idle
    (s.text.work.entries.map Entry.id).Nodup
      ∧ (∀ e ∈ [letter 1 132 98], e ∈ s.text.work.entries ∧ e.kind = .character ∧ e.owner = none)
      ∧ s.text.settings.justify = false
      ∧ (s.dispatch true []).text.print.map (fun p => p.record.entries.getLast?.map Entry.id) = some (some 1)
      ∧ (idle.dispatch true []).text.print.map (fun p => p.record.entries) = some [] := by decide

theorem witness_DispatchMoves_words :
    let other : WordRecord := { word .known with id := 1, entries := [7], letters := [99, 100] }
    let s := spells (fun sp => { sp with records := [other, word .looking], nextRecord := 2 }) (typed idle)
    let t := s.dispatch true [letter 1 132 98]
    s.spell.records.length ≤ 8 ∧ (∃ r ∈ s.spell.records, r.line = .working ∧ r.state = .looking ∧ 1 ∈ r.entries)
      ∧ t.spell.records.map (fun r => (r.id, decide (r.line = .print), r.state)) = [(1, true, .known), (2, false, .looking)] := by
  decide

-- R45 to R47: 'a', a gap and 'b' that ends 5 short of RM: the one gap takes 5 units. With 25 units of slack JUST LIMIT is posted.
theorem witness_DispatchMoves_justified :
    let at_ (rm : Nat) : State :=
      texts (fun t =>
        { t with
          work := { entries := [letter 0 120 97, letter 1 144 98], counter := 2 },
          settings := { t.settings with justify := true, rm := rm } }) idle
    let line := (at_ 161).text.work.chars
    (line.Pairwise (fun a b => a.pos ≤ b.pos) ∧ (∀ e ∈ line, e.owner = none) ∧ (∃ e ∈ line, e.endPos = 156)
        ∧ (∀ e ∈ line, e.endPos ≤ 156) ∧ (161 - 156) / 1 ≤ 2 * spaceWidth .p10 ∧ ¬((181 - 156) / 1 ≤ 2 * spaceWidth .p10)
        ∧ ((∃ e ∈ line, e.pos = 144) ∧ (∃ e ∈ line, e.pos < 144) ∧ ∀ e ∈ line, e.pos < 144 → e.endPos < 144)
        ∧ ∀ e ∈ line, e.pos ≠ 144 → ¬(∃ y ∈ line, y.pos < e.pos))
      ∧ ((at_ 161).dispatch true []).text.print.map (fun p => p.record.entries.map Entry.pos) = some [120, 149]
      ∧ ((at_ 181).dispatch true []).text.print.map (fun p => p.record.entries.map Entry.pos) = some [120, 144]
      ∧ ((at_ 181).dispatch true []).display.messages = [.justLimit] := by and_intros <;> decide

theorem witness_ReturnEndsLine :
    let a := key .carriageReturn
    let line := offer a (inLine (typed idle))
    let stop := sets (fun x => { x with spell := .checkStop }) line
    (offer a (typed idle)).direct .carriageReturn a [] 1
      ∧ (line.inLine .carriageReturn a [] ∧ line.engine.state ≠ .locked ∧ line.text.settings.spell ≠ .checkStop ∧ line.text.print = none)
      ∧ (printing line).text.print ≠ none
      ∧ (stop.inLine .carriageReturn a [] ∧ stop.text.settings.spell = .checkStop ∧ stop.text.armed = false
          ∧ ((stop.taken []).wordEnd 144).spell.lineSettled = false)
      ∧ (let known := texts (fun t => { t with work := { t.work with entries := t.work.entries.map (fun e => { e with mark := .unknown }) } })
            (spells (fun sp => { sp with records := [word .unknown] }) stop)
         known.inLine .carriageReturn a [] ∧ ((known.taken []).wordEnd 144).spell.lineSettled = true
           ∧ ((known.taken []).wordEnd 144).unknownStands = true) := by decide

theorem witness_PaperFeeds :
    let at_ (k : ActionKind) (r : Int) : State := offer (key k) (sets (fun x => { x with rise := r }) idle)
    (∀ k ∈ [ActionKind.index, .reverseIndex], (at_ k 0).direct k (key k) [] 1 ∧ (inLine (at_ k 0)).inLine k (key k) []
        ∧ (inLine (at_ k 0)).text.print = none ∧ 1 ≤ (inLine (at_ k 0)).freeSlots)
      ∧ ((at_ .halfDown 1).direct .halfDown (key .halfDown) [] 1 ∧ (at_ .halfDown 1).text.settings.rise ≤ 1
          ∧ 2 ≤ (at_ .halfDown 2).text.settings.rise)
      ∧ ((at_ .halfUp (-1)).direct .halfUp (key .halfUp) [] 1 ∧ -1 ≤ (at_ .halfUp (-1)).text.settings.rise
          ∧ (at_ .halfUp (-2)).text.settings.rise ≤ -2)
      ∧ (inLine (at_ .halfDown (-2))).inLine .halfDown (key .halfDown) [] ∧ (inLine (at_ .halfUp 2)).inLine .halfUp (key .halfUp) []
      ∧ (∀ k ∈ [ActionKind.index, .reverseIndex], (printing (inLine (at_ k 0))).inLine k (key k) []
          ∧ (printing (inLine (at_ k 0))).text.print ≠ none) := by and_intros <;> decide

theorem witness_CorrectionsChoose :
    let at_ (k : ActionKind) (p : Nat) (s : State) : State := offer (key k) (texts (fun t => { t with pp := p }) s)
    ((at_ .correct 144 (typed idle)).direct .correct (key .correct) [] 0 ∧ 120 < 144 ∧ (at_ .correct 120 idle).text.pp ≤ 120)
      ∧ ((at_ .wordCorrect 144 (typed idle)).direct .wordCorrect (key .wordCorrect) [] 0
          ∧ (typed idle).text.work.newestEndingAt 144 ≠ none)
      ∧ ((typed idle).text.work.newestEndingAt 120 = none ∧ ∀ e ∈ (typed idle).text.work.chars, 120 ≤ e.endPos)
      ∧ (letter 1 132 98 ∈ (typed idle).text.work.chars ∧ (typed idle).text.work.newestEndingAt 145 = none
          ∧ (letter 1 132 98).endPos < 145 ∧ ∀ y ∈ (typed idle).text.work.chars, y.endPos < 145 → y.endPos ≤ (letter 1 132 98).endPos)
      ∧ ((at_ .lineCorrect 144 (typed idle)).direct .lineCorrect (key .lineCorrect) [] 0 ∧ (typed idle).text.work.chars ≠ []
          ∧ idle.text.work.chars = [])
      ∧ ((inLine (at_ .correct 144 (typed idle))).inLine .correct (key .correct) []
          ∧ (typed idle).text.work.newestEndingAt 144 = some (letter 1 132 98) ∧ idle.text.work.newestEndingAt 121 = none)
      ∧ (inLine (at_ .wordCorrect 144 (typed idle))).inLine .wordCorrect (key .wordCorrect) []
      ∧ ((inLine (at_ .lineCorrect 120 idle)).inLine .lineCorrect (key .lineCorrect) [] ∧ idle.text.work.entries = []
          ∧ (typed idle).text.work.entries ≠ []) := by and_intros <;> decide

theorem witness_CorrectionsChoose_word :
    let at_ (p : Nat) : State := inLine (offer (key .wordCorrect) (texts (fun t => { t with pp := p }) (typed idle)))
    (at_ 156).inLine .wordCorrect (key .wordCorrect) [] ∧ (at_ 156).text.work.newestEndingAt 156 = none
      ∧ (letter 1 132 98 ∈ (at_ 156).text.work.chars ∧ (letter 1 132 98).endPos < 156
          ∧ ∀ y ∈ (at_ 156).text.work.chars, y.endPos < 156 → y.endPos ≤ (letter 1 132 98).endPos)
      ∧ ((at_ 120).text.work.newestEndingAt 120 = none ∧ ∀ e ∈ (at_ 120).text.work.chars, 120 ≤ e.endPos)
      ∧ ((at_ 156).text.allEntries.map Entry.id).Nodup ∧ (at_ 156).text.work.Owned := by decide

/-- 'ab' with a BOLD companion of 'b', all UNKNOWN, and a word record that names the two. -/
def marked : State :=
  spells (fun sp => { sp with records := [word .unknown], waitList := [0, 9] })
    (texts (fun t =>
      { t with
        work :=
          { entries :=
              [{ letter 0 120 97 with mark := .unknown }, { letter 1 132 98 with mark := .unknown },
               { letter 2 132 98 with kind := .bold, owner := some 1, mark := .unknown }], counter := 3 },
        pp := 144 }) (inLine idle))

-- R117: the deleted character goes with its companion, what is left of its letter run takes the mark NONE, and its record is dropped.
theorem test_removal_marks :
    let s := after .backspace (offer (key .backspace) marked)
    s.text.work.entries = [letter 0 120 97] ∧ s.spell.records = [] ∧ s.spell.waitList = [9] := by decide

-- R115: with no character ending at pp, WORD_CORRECT deletes the word left of it.
theorem test_wordCorrect_line :
    (after .wordCorrect (inLine (offer (key .wordCorrect) (texts (fun t => { t with pp := 156 }) (typed idle))))).text.pp = 120
      ∧ (after .wordCorrect (inLine (offer (key .wordCorrect) (texts (fun t => { t with pp := 156 }) (typed idle))))).text.work.entries
        = [] := by decide

theorem witness_CorrectionLifts :
    let s : State := { typed idle with corr := { State.reset.corr with lifting := true, items := [{ owner := 1, status := .appending }] } }
    let closing : State := { idle with corr := { State.reset.corr with lifting := true, tapeMark := true } }
    s.live ∧ s.corr.lifting = true ∧ s.engine.state ≠ .halted ∧ s.engine.state ≠ .locked ∧ s.supply.phase = .running
      ∧ (1 ≤ s.freeSlots ∧ s.corr.current = some { owner := 1, status := .appending }
          ∧ tapeOrder (s.members { owner := 1, status := .appending }) = [letter 1 132 98])
      ∧ (closing.corr.items = [] ∧ closing.corr.tapeMark = true ∧ closing.corr.closingMark = false ∧ closing.engine.slots = []
          ∧ closing.engine.head = none ∧ closing.text.settings.rise = closing.engine.paperRise)
      ∧ (sets (fun x => { x with rise := -2 }) closing).text.settings.rise ≠ closing.engine.paperRise := by decide

theorem witness_CorrectionLifts_disposal :
    let with_ (items : List Item) (s : State) : State :=
      { s with corr := { State.reset.corr with lifting := true, items := items } }
    let lifts (st : EntryState) (items : List Item) : State :=
      with_ items (texts (fun t =>
        { t with
          work :=
            { entries :=
                [{ letter 0 120 97 with state := st },
                 { letter 1 120 97 with kind := .bold, owner := some 0, state := .queued }],
              counter := 2 } }) idle)
    let one (st : ItemStatus) : List Item := [{ owner := 0, status := st }]
    let begun := doing strike .pulse (lifts .queued (one .fresh))
    let printed : State := with_ (one .fresh) (typed idle)
    (with_ [] idle).corr.lifting = true ∧ idle.engine.state ≠ .halted ∧ idle.supply.phase = .running
      ∧ (engines (fun e => { e with state := .halted }) printed).engine.state = .halted
      ∧ (printed.corr.current = some { owner := 0, status := .fresh } ∧ (with_ (one .appending) printed).corr.current = some { owner := 0, status := .appending })
      ∧ (∀ e ∈ (with_ (one .fresh) idle).members { owner := 0, status := .fresh }, e.id ≠ 0)
      -- an owner that has not begun, and one whose strike is in progress while its bold entry's is not
      ∧ (((lifts .queued (one .fresh)).members { owner := 0, status := .fresh }).find? (fun e => decide (e.id = 0))
            = some { letter 0 120 97 with state := .queued } ∧ (lifts .queued (one .fresh)).engine.progress = none)
      ∧ (begun.engine.inProgress 0 = true
          ∧ ((begun.members { owner := 0, status := .fresh }).filter
              (fun e => decide (e.state = .queued) && !begun.engine.inProgress e.id)).map Entry.id = [1])
      -- all PRINTED, on the wheel and not
      ∧ ((∀ e ∈ printed.members { owner := 0, status := .fresh }, e.state ≠ .queued ∧ onWheel printed.engine.wheel e.char = true)
          ∧ printed.members { owner := 0, status := .fresh } = [letter 0 120 97]
          ∧ onWheel (engines (fun e => { e with wheel := some 12 }) printed).engine.wheel 97 = false) := by and_intros <;> decide

-- R104, R110: the strike in progress is awaited once its bold entry's op is gone.
theorem test_correction_awaits :
    let s := doing strike .pulse (texts (fun t =>
      { t with work := { entries := [{ letter 0 120 97 with state := .queued }], counter := 1 } })
        { idle with corr := { State.reset.corr with lifting := true, items := [{ owner := 0, status := .fresh }] } })
    s.correctionActs.corr.items = [{ owner := 0, status := .awaitStrike }] := by decide

theorem witness_HeldRunsStand :
    let tabbed := sets (fun x => { x with tabs := [240] }) (offer (key .decimalTab) idle)
    (offer (key .center) idle).plain .center (key .center) [] ∧ (offer (key .flushRight) idle).plain .flushRight (key .flushRight) []
      ∧ (tabbed.plain .decimalTab (key .decimalTab) [] ∧ rising tabbed.text.settings.tabs = true ∧ 240 ∈ tabbed.text.settings.tabs
          ∧ tabbed.text.pp < 240 ∧ 240 < 1020 ∧ idle.text.settings.tabs = [])
      ∧ (∀ k ∈ [ActionKind.center, .flushRight, .decimalTab], (inLine (offer (key k) idle)).inLine k (key k) []) := by
  and_intros <;> decide

/-- IMPRESSION in a FLUSH run, from the keyboard and from the interface. -/
theorem witness_HeldRunsStand_impression :
    let run : HeldRun := { kind := .flush, startPp := 120, origin := 120, members := [] }
    ∀ a ∈ [key .impression, setting .impression 2],
      (texts (fun t => { t with run := some run }) (offer a idle)).offers .impression a []
        ∧ (texts (fun t => { t with run := some run }) (offer a idle)).text.run = some run ∧ run.kind ≠ .decimal := by decide

/-- A held run of 'ab' from 120. -/
def held (k : RunKind) : HeldRun := { kind := k, startPp := 120, origin := 120, members := [0, 1] }

/-- The run stands with its characters PENDING and pp behind them, and an action waits. -/
def inRun (h : HeldRun) (a : Action) : State :=
  offer a (texts (fun t =>
    { t with run := some h, work := { t.work with entries := t.work.entries.map (fun e => { e with state := .pending, wheel := none }) } })
    (typed idle))

/-- The bounds that StepKeepsSettings keeps hold where a run stands. -/
theorem witness_StepKeepsSettings_run :
    let s : State := { inRun (held .flush) (key .flushRight) with nextId := 2, pending := [.flushRight] }
    s.SettingsOk ∧ s.PointOk ∧ ∃ t, step s = .next t := by
  refine ⟨by decide, ⟨by decide, by decide, ?_, by decide⟩, _, rfl⟩
  intro h e
  cases e
  decide

/-- The same at another print point. -/
def runAt (p : Nat) (h : HeldRun) (a : Action) : State := texts (fun t => { t with pp := p }) (inRun h a)

/-- The hypotheses that every clause about a standing run makes. -/
abbrev State.running (s : State) (h : HeldRun) (a : Action) : Prop :=
  s.offers a.kind a [] ∧ s.text.run = some h ∧ s.slotsNeeded a ≤ s.freeSlots

theorem witness_HeldRunsStand_actions :
    let b := { letter 1 132 98 with state := .pending, wheel := none }
    (∀ k ∈ [ActionKind.tab, .underline, .bold, .space, .char, .backspace, .correct, .carriageReturn],
        State.running (inRun (held .flush) (key k 97)) (held .flush) (key k 97))
      ∧ (∀ k ∈ [ActionKind.char, .backspace, .correct, .tab],
        State.running (inRun { held .decimal with startPp := 60 } (key k 97)) { held .decimal with startPp := 60 } (key k 97))
      -- SPACE up to RM, and beyond it
      ∧ ((1008 + 12) - 120 ≤ 1020 - 120 ∧ 1020 - 120 < (1009 + 12) - 120
          ∧ State.running (runAt 1009 (held .flush) (key .space)) (held .flush) (key .space))
      -- CHAR: placed, and refused by the run's 40 characters
      ∧ (((inRun (held .flush) (key .char 97)).taken []).noPlace 97 = false ∧ (held .flush).members.length < 40
          ∧ (144 + widthAt .p10 (some 0) 97) - 120 ≤ 1020 - 120 ∧ ((inRun (held .flush) (key .char 159)).taken []).noPlace 159 = true
          ∧ 40 ≤ { held .flush with members := List.range 40 }.members.length)
      -- BACKSPACE: at the origin, behind a space, and behind a character
      ∧ ((runAt 120 (held .flush) (key .backspace)).text.pp = (held .flush).origin
          ∧ (∀ e ∈ (runAt 150 (held .flush) (key .backspace)).text.work.chars, e.endPos ≠ 150)
          ∧ newest (((inRun (held .flush) (key .backspace)).text.work.chars.filter
              (fun e => (held .flush).members.contains e.id)).filter (fun e => decide (e.endPos = 144))) = some b
          ∧ ((inRun (held .flush) (key .backspace)).text.allEntries.map Entry.id).Nodup
          ∧ (inRun (held .flush) (key .backspace)).text.work.Owned) := by
  and_intros <;> decide

theorem witness_HeldRunsStand_ends :
    let bare (k : RunKind) (a : Action) : State :=
      texts (fun t => { t with work := .empty }) (inRun { held k with members := [] } a)
    let point := key .char 46
    let full := engines (fun e => { e with slots := List.replicate 64 (feedOp 1 .text) }) (bare .center (key .carriageReturn))
    (∀ p ∈ [(RunKind.center, key .center), (.flush, key .flushRight), (.center, key .carriageReturn), (.decimal, key .tab), (.decimal, point)],
        State.running (inRun (held p.1) p.2) (held p.1) p.2 ∧ State.running (bare p.1 p.2) { held p.1 with members := [] } p.2)
      ∧ idle.intake.decimal = 46
      ∧ ((bare .center (key .center)).engine.state ≠ .locked ∧ (bare .center (key .center)).text.feeding = []
          ∧ (bare .center (key .center)).text.work.entries = [] ∧ (bare .center (key .center)).text.work.Owned)
      -- the slots that the action needs once the run has ended are not free
      ∧ (full.slotsNeeded (key .carriageReturn) ≤ full.freeSlots
          ∧ full.freeSlots < (texts (fun t => { t with run := none }) full).slotsNeeded (key .carriageReturn))
      ∧ (let s := inRun (held .center) (key .center)
         (s.text.work.entries.map Entry.id).Nodup ∧ s.text.work.Owned ∧ (∀ e ∈ s.text.work.entries, 120 ≤ e.pos)
           ∧ ∃ e ∈ s.text.work.chars, ¬(2 < (s.text.work.chars.filter (fun y => decide (y.pos = e.pos))).length)) := by
  and_intros <;> decide

-- R25, R36: a FLUSH run of 'ab' ends at RM, in the bell zone, and asks for BELL.
theorem test_run_bell :
    let s := inRun (held .flush) (key .flushRight)
    (after .flushRight s).text.work.entries.map Entry.pos = [996, 1008] ∧ (after .flushRight s).text.bellGiven = true
      ∧ TxKind.sound .bell 2 ∈ (after .flushRight s).line.places.map TxFrame.kind := by decide

theorem witness_FeedsContinue :
    let feeding := texts (fun t => { t with waiting := some .runFeeding, feeding := [0, 1] }) (typed idle)
    let fed := texts (fun t => { t with print := t.print.map (fun p => { p with record := .empty }) }) (printing (inLine idle))
    let appended := texts (fun t => { t with print := t.print.map (fun p => { p with returnAppended := true }) }) fed
    let resumed (k : ActionKind) (st : ResumeStage) (s : State) : State :=
      texts (fun t => { t with resume := some { action := key k, stage := st } }) s
    idle.live ∧ idle.supply.phase = .running ∧ idle.engine.state ≠ .locked ∧ 1 ≤ idle.freeSlots
      ∧ (feeding.text.waiting = some .runFeeding ∧ feeding.text.feeding = 0 :: [1] ∧ feeding.text.find 0 = some (letter 0 120 97))
      ∧ ((printing idle).text.print.map (fun p => (p.record.entries.filter (fun y => decide (y.state = .pending))).length) = some 1)
      ∧ (fed.text.print.map (fun p => (p.record.entries.length, p.returnAppended)) = some (0, false))
      ∧ (appended.text.print.map PrintLine.returnAppended = some true)
      ∧ ((resumed .carriageReturn .dispatch (inLine (typed idle))).text.waiting = none
          ∧ (resumed .carriageReturn .dispatch (inLine (typed idle))).text.resume = some { action := key .carriageReturn, stage := .dispatch }
          ∧ (inLine (typed idle)).text.print = none)
      ∧ (resumed .space .dispatch (inLine idle)).text.resume = some { action := key .space, stage := .dispatch }
      ∧ ((resumed .mode .afresh (inLine idle)).text.settings.mode = .line ∧ (inLine idle).text.work.entries = [] ∧ idle.text.run = none)
      ∧ idle.text.resume = none := by decide

theorem witness_FeedsContinue_resumed :
    let resumed (k : ActionKind) (st : ResumeStage) (s : State) : State :=
      texts (fun t => { t with resume := some { action := key k, stage := st } }) s
    let marked := texts (fun t =>
      { t with work := { entries := [{ letter 0 120 97 with mark := .unknown }], counter := 1 } }) (inLine idle)
    let full := engines (fun e => { e with slots := List.replicate 64 (feedOp 1 .text) })
    (∀ s ∈ [marked, inLine (typed idle), printing (inLine (typed idle)), engines (fun e => { e with state := .locked }) (inLine idle)],
        (resumed .carriageReturn .verdicts s).text.resume = some { action := key .carriageReturn, stage := .verdicts }
          ∧ (resumed .carriageReturn .verdicts s).text.waiting = none ∧ s.live ∧ s.supply.phase = .running)
      ∧ (∃ e ∈ marked.text.work.entries, e.kind = .character ∧ e.mark = .unknown)
      ∧ (∀ e ∈ (inLine (typed idle)).text.work.entries, e.mark ≠ .unknown)
      ∧ (resumed .center .ownRun idle).text.resume = some { action := key .center, stage := .ownRun }
      ∧ (∀ k ∈ [ActionKind.index, .reverseIndex],
        (resumed k .afresh (inLine idle)).text.resume = some { action := key k, stage := .afresh })
      ∧ (inLine idle).text.print = none ∧ (printing (inLine idle)).text.print ≠ none
      ∧ 1 ≤ idle.freeSlots ∧ (full idle).freeSlots = 0 := by decide

theorem witness_FeedsContinue_waits :
    let waits (w : Waiting) (s : State) : State :=
      texts (fun t => { t with waiting := some w }) (engines (fun e => { e with state := .running }) s)
    let full := engines (fun e => { e with slots := List.replicate 64 (feedOp 1 .text) })
    let asks (st : WordState) : State := spells (fun sp => { sp with records := [word st] }) idle
    (∀ w ∈ [Waiting.queueRoom 1, .runFeeding, .printLineBusy, .verdicts, .correction],
        (waits w idle).still ∧ (waits w idle).text.waiting = some w)
      ∧ (1 ≤ (waits (.queueRoom 1) idle).freeSlots ∧ ¬(1 ≤ (waits (.queueRoom 1) (full idle)).freeSlots))
      ∧ (idle.text.feeding = [] ∧ (texts (fun t => { t with feeding := [0] }) idle).text.feeding ≠ [])
      ∧ (idle.text.print = none ∧ (printing idle).text.print ≠ none)
      ∧ ((∀ r ∈ (asks .known).spell.records, r.state = .known) ∧ ∃ r ∈ (asks .asking).spell.records, r.line = .working ∧ r.state = .asking) := by
  decide

-- R12, R25: with the run fed its own action's wait ends, and nothing is left to resume.
theorem test_ownRun_ends :
    let s := texts (fun t => { t with waiting := some .runFeeding, resume := some { action := key .center, stage := .ownRun } })
      (engines (fun e => { e with state := .running }) idle)
    (after .pwmPeriodStart s).text.waiting = none ∧ (after .pwmPeriodStart s).text.resume = none := by decide

theorem witness_FeedsContinue_wrap :
    let a := key .char 97
    let at_ (es : List Entry) : State :=
      inLine (texts (fun t =>
        { t with pp := 1009, work := { entries := es, counter := 3 }, resume := some { action := a, stage := .wrap } }) idle)
    let carried := at_ [letter 0 120 97, letter 1 985 97, letter 2 997 98]
    let whole := at_ [letter 1 985 97, letter 2 997 98]
    let index := key .index
    let after_ (n : Nat) : State :=
      engines (fun e => { e with slots := List.replicate n (feedOp 1 .text) })
        (texts (fun t => { t with resume := some { action := index, stage := .afterRun } }) idle)
    (carried.text.waiting = none ∧ carried.text.resume = some { action := a, stage := .wrap } ∧ carried.text.print = none
        ∧ onWheel carried.engine.wheel 97 = true ∧ carried.text.settings.underline = false ∧ 120 + widthAt .p10 (some 0) 97 ≤ 1020)
      ∧ onWheel (engines (fun e => { e with wheel := none }) carried).engine.wheel 97 = false
      ∧ (at_ [letter 0 120 97]).text.work.newestEndingAt 1009 = none
      ∧ (whole.text.work.newestEndingAt 1009 ≠ none ∧ ¬((whole.text.work.wordAt 1009).length < whole.text.work.chars.length))
      ∧ (carried.text.work.newestEndingAt 1009 ≠ none ∧ 120 < leastPos 120 (carried.text.work.wordAt 1009)
          ∧ (carried.text.work.wordAt 1009).length < carried.text.work.chars.length
          ∧ (1009 - leastPos 120 (carried.text.work.wordAt 1009)) + 12 ≤ 1020 - 120
          ∧ (carried.text.work.entries.filter (fun e => ((carried.text.work.wordAt 1009).map Entry.id).contains (ownerId e))).length
              + entryCount (widthAt .p10 carried.engine.wheel 97) false false ≤ 320)
      ∧ (sets (fun x => { x with mode := .line }) (texts (fun t => { t with print := none }) (after_ 63))).text.resume
        = some { action := index, stage := .afterRun }
      ∧ ((after_ 63).slotsNeeded index ≤ (after_ 63).freeSlots ∧ 1 ≤ (after_ 63).freeSlots) := by and_intros <;> decide

theorem witness_WordsRecorded :
    let s := typed idle
    let kept := spells (fun sp => { sp with records := [word .known] }) idle
    (s.text.settings.spell ≠ .off ∧ s.text.run = none ∧ s.text.work.tokenAt 144 ≠ []
        ∧ checkedWord (s.text.work.tokenAt 144) = some [letter 0 120 97, letter 1 132 98]
        ∧ s.spell.records.length < 8 ∧ (s.text.work.entries.map Entry.id).Nodup)
      ∧ (kept.spell.records.getLast? = some (word .known) ∧ (offer (key .addWord) kept).plain .addWord (key .addWord) []
          ∧ kept.spell.userList.contains (word .known).letters = false ∧ kept.spell.userList.length < 128
          ∧ wordsInOrder kept.spell.userList = true)
      ∧ ((spells (fun sp => { sp with userList := [[97, 98]] }) kept).spell.userList.contains (word .known).letters = true
          ∧ (offer (key .deleteWord) kept).plain .deleteWord (key .deleteWord) [])
      ∧ idle.spell.records = [] := by decide

-- The other cases of a word end: no token, a token of one letter, a word recorded already, and 8 records that name other entries.
theorem witness_WordsRecorded_ends :
    let s := typed idle
    let short := texts (fun t => { t with work := { entries := [letter 0 120 97], counter := 1 } }) idle
    let eight := spells (fun sp =>
      { sp with records := (List.range 8).map (fun i => { word .known with id := i, entries := [i + 10] }) }) s
    (∀ e ∈ s.text.work.chars, e.endPos = 132 → e.char = 97) ∧ (∀ e ∈ s.text.work.chars, e.endPos ≠ 143)
      ∧ (short.text.work.tokenAt 132 ≠ [] ∧ checkedWord (short.text.work.tokenAt 132) = none)
      ∧ ((word .known).line = .working ∧ (word .known).entries = [0, 1] ∧ (word .known).letters = [97, 98])
      ∧ (eight.spell.without (fun r => r.entries.any (fun i => [0, 1].contains i))).records.length = 8
      ∧ (∀ r ∈ eight.spell.records, 0 ∉ r.entries) := by decide

-- R119: the bounds of a word, 2 and 24 characters between its apostrophes; a digit and a shared position.
theorem witness_WordsRecorded_token :
    let at_ (i c : Nat) : Entry := letter i (120 + 12 * i) c
    let run (n : Nat) : List Entry := (List.range n).map (fun i => at_ (i + 1) 97)
    let quoted (w : List Entry) : List Entry := [at_ 0 39] ++ w ++ [at_ 40 39]
    (∀ n ∈ [2, 24], (∀ e, (run n).head? = some e → e.char ≠ 39) ∧ (∀ e, (run n).getLast? = some e → e.char ≠ 39)
        ∧ ((quoted (run n)).map Entry.pos).Nodup ∧ checkedWord (quoted (run n)) = some (run n))
      ∧ (∀ n ∈ [0, 1, 25], checkedWord (quoted (run n)) = none)
      ∧ checkedWord [at_ 0 97, at_ 1 49] = none ∧ checkedWord [at_ 0 97, letter 1 120 98] = none := by
  refine ⟨?_, by decide, by decide, by decide⟩
  intro n hn
  rcases List.mem_cons.mp hn with rfl | hn
  · refine ⟨by intro e h; cases h; decide, by intro e h; cases h; decide, by decide, by decide⟩
  · obtain rfl : n = 24 := by simpa using hn
    refine ⟨by intro e h; cases h; decide, by intro e h; cases h; decide, by decide, by decide⟩

-- R119, R120: a token of one letter has its mark set to NONE; a word with a record of its own stands.
theorem test_wordEnd_cases :
    let short := texts (fun t => { t with work := { entries := [{ letter 0 120 97 with mark := .unknown }], counter := 1 } }) idle
    let known := spells (fun sp => { sp with records := [word .known] }) (typed idle)
    (short.wordEnd 132).text.work.entries = [letter 0 120 97] ∧ known.wordEnd 144 = known := by decide

-- R121: the ninth record drops the oldest, and its query is an orphan.
theorem test_wordEnd_ninth :
    let s := spells (fun sp =>
      { sp with
        records := (List.range 8).map (fun i => { word .asking with id := i, entries := [i + 10] }), nextRecord := 8,
        outstanding := [{ tag := 5, record := some 0 }] }) (typed idle)
    ((s.wordEnd 144).spell.records.map WordRecord.id = [1, 2, 3, 4, 5, 6, 7, 8])
      ∧ (s.wordEnd 144).spell.outstanding = [{ tag := 5, record := none }] := by decide

theorem witness_WordsRecorded_full :
    let s := spells (fun sp => { sp with records := [word .known], userList := List.replicate 128 [97] }) idle
    s.spell.userList.contains (word .known).letters = false ∧ 128 ≤ s.spell.userList.length
      ∧ (offer (key .addWord) s).plain .addWord (key .addWord) [] := by
  refine ⟨?_, ?_, by decide⟩ <;> simp [spells, word]

theorem witness_CarriageDrives :
    let s := carries .drive move 120 idle
    let brake (n : Int) (twice : Bool) : State := carries (.brake .check) { move with overshot := twice } n idle
    s.live ∧ idle.drive.carriage.phase ≠ .drive
      ∧ (s.drive.carriage.phase = .drive ∧ s.drive.carriage.move = some move ∧ 0 ≤ s.drive.carriage.period ∧ 65535 ≤ 65535)
      ∧ ((brake 218 false).drive.carriage.phase = .brake .check ∧ (move.target - (brake 218 false).drive.carriage.count).natAbs = 2
          ∧ 2 < (move.target - (brake 217 false).drive.carriage.count).natAbs
          ∧ (brake 217 true).drive.carriage.move = some { move with overshot := true } ∧ (brake 217 true).engine.homing = none
          ∧ (move.target - (brake 220 false).drive.carriage.count).natAbs = 0 ∧ (brake 220 false).engine.head = none)
      ∧ (carries (.brake .check) { move with kind := .search, target := 0 } 0 idle).drive.carriage.count = 0
      ∧ (carries (.brake .silent) move 0 idle).drive.carriage.phase = .brake .silent
      ∧ (carries (.brake .stall) move 0 idle).drive.carriage.phase ≠ .drive
      ∧ ((carries .drive { move with kind := .search } 0 idle).drive.carriage.move = some { move with kind := .search }
          ∧ ({ move with kind := .search } : CarriageMove).leg = .profile)
      ∧ s.drive.carriage.move.any (fun m => decide (m.kind ≠ .search) || decide (m.leg ≠ .profile)) = true := by decide

-- R81 to R85: the speeds at the edges of the clause: the first unit, the last one of a move to the left, a search, and a trim.
theorem witness_CarriageDrives_speeds :
    (0 < min (min (move.cruise : Int) (300 + 40 * 1)) (300 + 40 * (220 - 121)))
      ∧ (let left : CarriageMove := { move with rightward := false, target := 20 }
         (0 : Int) < min (min (left.cruise : Int) (300 + 40 * (0 + 1))) (300 + 40 * ((21 - 1) - 20)))
      ∧ (0 : Int) < min (600 : Int) (300 + 40 * (0 - 1)) ∧ (Leg.trim ≠ .profile ∧ (0 : Int) < 300) := by decide

theorem witness_CarriageDrives_goesOn :
    let ended (o : Op) (st : Stage) : State := carries (.brake .check) move 220 (doing o st idle)
    (∀ st ∈ [Stage.moves true true, .moves true false, .carriageFirst],
        (ended strike st).drive.carriage.phase = .brake .check ∧ (ended strike st).drive.carriage.move = some move
          ∧ move.target = (ended strike st).drive.carriage.count ∧ move.kind ≠ .search ∧ (ended strike st).engine.homing = none
          ∧ (ended strike st).engine.head = some strike ∧ (ended strike st).engine.progress.map Progress.stage = some st)
      ∧ (strike.rise = idle.engine.paperRise ∧ ({ strike with rise := 1 } : Op).rise ≠ idle.engine.paperRise
          ∧ idle.drive.feed = .idle ∧ idle.drive.lift strike.medium = .released ∧ idle.drive.wheel = .idle)
      -- the wheel stands at petal 0, and the op's is 7
      ∧ (idle.engine.petal = some 0 ∧ (ended strike .carriageFirst).engine.progress.map Progress.petal = some 7
          ∧ (engines (fun e => { e with petal := some 7 }) (ended strike .carriageFirst)).engine.petal = some 7
          ∧ (ended strike .carriageFirst).engine.progress.map Progress.level = some 2)
      ∧ (∀ st ∈ [Stage.returning true true, .returning true false, .returnCarriageFirst], ∀ f ∈ [(0 : Int), 2],
          (ended (returnOp 220 f) st).engine.head = some (returnOp 220 f) ∧ (returnOp 220 f).kind = .carriageReturn
            ∧ (ended (returnOp 220 f) st).engine.state = .running)
      -- the print line's RETURN op is the last, or an earlier one completes before it
      ∧ (∀ l ∈ [[], [returnOp 120 2]],
          (engines (fun e => { e with slots := l })
            (texts (fun t => { t with print := t.print.map (fun p => { p with returnAppended := true }) })
              (printing (ended (returnOp 220 2) (.returning true false))))).text.print.map PrintLine.returnAppended = some true)
      ∧ (let h : Homing := { kind := .start, phase := .clearing }
         (carries (.brake .check) { move with kind := .signed, target := 30 } 30
           (engines (fun e => { e with homing := some h }) idle)).engine.homing = some h) := by and_intros <;> decide

-- R65: at level 2 the feed of a RETURN follows its carriage move; R68: the search follows the 30-unit move.
theorem test_carriageBrakeEnd_next :
    (after .carriageBrakeEnd (carries (.brake .check) move 220 (doing (returnOp 220 2) .returnCarriageFirst idle))).drive.feed
        = .feeding true 24 1
      ∧ (let s := after .carriageBrakeEnd (carries (.brake .check) { move with kind := .signed, target := 30 } 30
            (engines (fun e => { e with state := .homing, homing := some { kind := .start, phase := .clearing } }) idle))
         s.drive.carriage.move.map CarriageMove.kind = some .search ∧ s.engine.homing.map Homing.phase = some .searching) := by decide

-- R68, R93: a trip ends the search at count 0 and stops the homing deadline.
theorem test_homeSensorTrip_deadline :
    (after .homeSensorTrip
      (carries .drive { move with kind := .search, rightward := false } (-55)
        (drives (fun d => { d with homingDeadline := some 3000 }) idle))).drive.homingDeadline = none := by decide

theorem witness_FaultsHalt :
    let s := carries (.brake .stall) move 120 (drives (fun d => { d with wheelDeadline := some 200, wheel := .searching 768 [true] }) idle)
    let homing (k : HomingKind) : State := engines (fun e => { e with homing := some { kind := k, phase := .searching } }) s
    let returning (st : Stage) : State := doing (returnOp 120 2) st s
    s.live ∧ s.engine.head = none ∧ s.engine.progress = none ∧ s.drive.carriage.phase = .brake .stall
      ∧ (let far := carries (.brake .check) { move with overshot := true } 217 idle
         far.drive.carriage.phase = .brake .check ∧ far.drive.carriage.move = some { move with overshot := true }
           ∧ 2 < (move.target - far.drive.carriage.count).natAbs)
      ∧ s.drive.deadline .wheel ≠ none
      ∧ (s.drive.wheel = .searching 768 [true] ∧ [true].length < 4) ∧ s.drive.hammer.isPulse = false ∧ s.engine.homing = none
      ∧ (homing .start).engine.homing = some { kind := .start, phase := .searching }
      ∧ (homing .clear).engine.homing = some { kind := .clear, phase := .searching }
      -- an op in progress: a RETURN whose feed has ended, and one whose feed goes on
      ∧ (∀ st ∈ [Stage.returning true false, .returning true true], (returning st).engine.head = some (returnOp 120 2)
          ∧ (returning st).engine.progress.map Progress.stage = some st) := by decide

-- R75, Table 1-2: at LOCKED the QUEUED entry of an op goes with its companion, the LIFTING one is PRINTED, and the others stand.
theorem test_locked_entries :
    let es := [{ letter 0 120 97 with state := .queued }, { letter 1 120 97 with kind := .bold, owner := some 0, state := .pending },
      { letter 2 132 98 with state := .lifting }, letter 3 144 99]
    let op (n : Nat) : Op := { strike with ref := some n }
    let s := engines (fun e =>
        { e with state := .homing, homing := some { kind := .clear, phase := .searching }, slots := [op 0, op 2] })
      (carries (.brake .stall) move 120 (texts (fun t => { t with work := { entries := es, counter := 4 } }) idle))
    (s.text.allEntries.map Entry.id).Nodup ∧ s.text.work.Owned
      ∧ (after .carriageBrakeEnd s).text.work.entries = [{ letter 2 132 98 with state := .printed }, letter 3 144 99] := by decide

-- R59, R72: the fault asks for a STATE and for ALARM.
theorem test_stallReport_alarm :
    (after .carriageBrakeEnd (carries (.brake .stall) move 120 idle)).line.places.map TxFrame.kind = [.state, .sound .alarm 2] := by decide

-- R25, R75: LOCKED refuses the action whose run was feeding, with a CLICK for a keyboard action.
theorem test_stallReport_feeding :
    let s := texts (fun t =>
        { t with waiting := some .runFeeding, resume := some { action := key .carriageReturn, stage := .afterRun } })
      (engines (fun e => { e with state := .homing, homing := some { kind := .clear, phase := .searching } })
        (carries (.brake .stall) move 120 idle))
    (after .carriageBrakeEnd s).engine.state = .locked
      ∧ (after .carriageBrakeEnd s).line.places.map TxFrame.kind = [.state, .sound .alarm 2, .sound .click 2] := by decide

-- R75: the RETURN whose feed has ended stays in the head place with a feed of 0, the other as it is.
theorem test_stallReport_head :
    let s (st : Stage) : State := carries (.brake .stall) move 120 (doing (returnOp 120 2) st idle)
    (after .carriageBrakeEnd (s (.returning true false))).engine.head = some (returnOp 120 0)
      ∧ (after .carriageBrakeEnd (s (.returning true true))).engine.head = some (returnOp 120 2)
      ∧ (after .carriageBrakeEnd (s (.returning true true))).engine.lateFeed = true := by decide

theorem witness_PacersReport :
    let wheel (w : WheelPacer) : State := drives (fun d => { d with wheel := w }) idle
    let feed (f : FeedPacer) : State := drives (fun d => { d with feed := f }) idle
    let ribbon (r : RibbonPacer) : State := drives (fun d => { d with ribbon := r }) idle
    let queued := texts (fun t => { t with work := { entries := [{ letter 0 120 97 with state := .queued }], counter := 1 } })
    let lifting := texts (fun t => { t with work := { entries := [{ letter 0 120 97 with state := .lifting }], counter := 1 } })
    idle.live ∧ ((wheel (.moving true 7 360 27)).drive.wheel = .moving true 7 360 27 ∧ 27 < 4 * 7)
      ∧ ((wheel (.searching 767 [true])).drive.wheel = .searching 767 [true] ∧ 767 < 768)
      ∧ ((feed (.feeding true 12 11)).drive.feed = .feeding true 12 11 ∧ (ribbon (.advancing .tape 3 2)).drive.ribbon = .advancing .tape 3 2)
      ∧ ((doing strike (.moves true true) (wheel (.moving true 7 360 28))).drive.wheel = .moving true 7 360 (4 * 7)
          ∧ (doing strike (.moves true true) (wheel (.moving true 7 360 28))).engine.head = some strike)
      ∧ (strike.rise = idle.engine.paperRise ∧ (∀ m ∈ [Lift.ribbon, .tape], idle.drive.lift m = .released)
          ∧ ({ strike with rise := 1 } : Op).rise ≠ idle.engine.paperRise ∧ idle.drive.feed = .idle)
      ∧ (wheel (.searching 9 [true, false, true, true])).drive.wheel = .searching 9 [true, false, true, true]
      ∧ (let s := doing (feedOp (-1) .text) .feeding (feed (.feeding false 12 12))
         s.drive.feed = .feeding false 12 12 ∧ s.engine.head = some (feedOp (-1) .text) ∧ s.engine.lateFeed = false
           ∧ s.engine.state = .running ∧ (feedOp (-1) .text).origin = .text)
      ∧ ((doing (returnOp 120 2) (.returning false true) (feed (.feeding true 24 24))).engine.head = some (returnOp 120 2)
          ∧ (printing idle).text.print ≠ none ∧ idle.text.print = none)
      ∧ (engines (fun e => { e with lateFeed := true }) (feed (.feeding true 24 24))).engine.lateFeed = true
      ∧ (let s := doing strike .advance (queued (ribbon (.advancing .ribbon 6 6)))
         s.drive.ribbon = .advancing .ribbon 6 6 ∧ s.engine.head = some strike ∧ strike.ref = some 0
           ∧ s.text.find 0 = some { letter 0 120 97 with state := .queued } ∧ strike.origin = .text)
      ∧ (let o : Op := { strike with origin := .correction, medium := .tape }
         let s := doing o .advance (lifting (ribbon (.advancing .tape 3 3)))
         s.drive.ribbon = .advancing .tape 3 3 ∧ s.engine.head = some o ∧ s.text.find 0 = some { letter 0 120 97 with state := .lifting }
           ∧ ({ s with corr := { s.corr with lifting := true } } : State).corr.lifting = true) := by decide

theorem witness_PacersReport_feeds :
    let feed : State := drives (fun d => { d with feed := .feeding true 12 12 }) idle
    let closing (n : Nat) : State :=
      { doing (feedOp 1 .correction) .feeding feed with
        corr := { State.reset.corr with lifting := true, tapeMark := true, closingMark := true, closingFeeds := n } }
    let rise := doing { strike with rise := 1 } .rise feed
    (∀ n ∈ [1, 2], (closing n).drive.feed = .feeding true 12 12 ∧ (closing n).engine.head = some (feedOp 1 .correction)
        ∧ (closing n).engine.progress.map Progress.stage = some .feeding ∧ (closing n).engine.lateFeed = false
        ∧ (closing n).engine.state = .running ∧ (closing n).corr.closingMark = true ∧ (closing n).corr.closingFeeds = n)
      ∧ (rise.drive.feed = .feeding true 12 12 ∧ rise.engine.head = some { strike with rise := 1 }
          ∧ rise.engine.progress.map Progress.stage = some .rise ∧ rise.drive.lift strike.medium = .released)
      ∧ (doing (returnOp 120 2) (.returning true true) feed).engine.progress.map Progress.stage = some (.returning true true) := by
  and_intros <;> decide

theorem witness_PacersReport_tape :
    let bold : Entry := { letter 1 120 97 with kind := .bold, owner := some 0, state := .lifting }
    let o : Op := { strike with origin := .correction, medium := .tape, ref := some 1 }
    let s := doing o .advance (drives (fun d => { d with ribbon := .advancing .tape 3 3 })
      (texts (fun t => { t with work := { entries := [{ letter 0 120 97 with state := .lifting }, bold], counter := 2 } }) idle))
    let bare : Op := { strike with ref := none }
    (s.drive.ribbon = .advancing .tape 3 3 ∧ s.engine.head = some o ∧ o.ref = some 1 ∧ s.text.find 1 = some bold
        ∧ bold.state = .lifting ∧ bold.kind ≠ .character ∧ s.engine.state = .running)
      ∧ ((doing bare .advance (drives (fun d => { d with ribbon := .advancing .ribbon 6 6 }) idle)).engine.head = some bare
          ∧ bare.ref = none ∧ bare.kind = .strike) := by decide

-- R62, R109: the rise feed leads to the lift; the last restoring feed ends the correction.
theorem test_feedEnded_next :
    let feed : State := drives (fun d => { d with feed := .feeding true 12 12 }) idle
    let s := after .feedEnded (doing { strike with rise := 1 } .rise feed)
    (s.engine.paperRise = 1 ∧ s.drive.ribbonLift = .pulling)
      ∧ (after .feedEnded
          { doing (feedOp 1 .correction) .feeding feed with
            corr := { State.reset.corr with lifting := true, tapeMark := true, closingMark := true, closingFeeds := 1 } }).corr
        = State.reset.corr := by decide

-- R107, R113: an owner's tape strike moves pp, but not once the correction has been abandoned.
theorem test_advanceEnded_tape :
    let o : Op := { strike with origin := .correction, medium := .tape }
    let s (l : Bool) : State :=
      doing o .advance (drives (fun d => { d with ribbon := .advancing .tape 3 3 })
        { texts (fun t => { t with work := { entries := [{ letter 0 120 97 with state := .lifting }], counter := 1 }, pp := 200 }) idle with
          corr := { State.reset.corr with lifting := l, tapeMark := l } })
    (after .advanceEnded (s true)).text.pp = 120 ∧ (after .advanceEnded (s false)).text.pp = 200 := by decide

-- R91: full drive in the pull-in, 1/3 or 1/2 duty at 100 µs once drawn, and no drive once the settle has ended.
theorem test_liftOutput :
    let lifts (st : LiftState) : State := drives (fun d => { d with ribbonLift := st, tapeLift := st }) idle
    ((lifts .pulling).drive.liftOutput .ribbon = .full 12 ∧ (lifts .pulling).drive.liftOutput .tape = .full 12)
      ∧ (after (.liftDrawn .ribbon 0) (lifts .pulling)).drive.liftOutput .ribbon = .hold 3 100
      ∧ (after (.liftDrawn .tape 0) (lifts .pulling)).drive.liftOutput .tape = .hold 2 100
      ∧ (after .settleEnd
          (drives (fun d => { d with hammer := .settle }) (doing strike .settle (lifts .drawn)))).drive.liftOutput .ribbon = .off := by
  decide

theorem witness_HammerStrikes :
    let pulling := drives (fun d => { d with ribbonLift := .pulling }) (engines (fun e => { e with lastPulse := some 1000 }) idle)
    let drawn := drives (fun d => { d with ribbonLift := .drawn }) idle
    let pulse := drives (fun d => { d with hammer := .pulse 550 }) idle
    pulling.live ∧ pulling.drive.lift .ribbon = .pulling ∧ pulling.engine.progress = none
      ∧ ((doing strike .lift pulling).engine.head = some strike ∧ strike.medium = .ribbon
          ∧ max pulling.clock 100999 < 1000 + 1000 * 100 ∧ 1000 + 1000 * 100 ≤ max pulling.clock 101000)
      ∧ (drawn.drive.hammer = .idle ∧ drawn.drive.carriage.phase = .idle ∧ drawn.drive.wheel = .idle ∧ drawn.drive.ribbonLift = .drawn
          ∧ drawn.drive.tapeLift ≠ .drawn)
      ∧ ((drives (fun d => { d with tapeLift := .drawn }) drawn).drive.tapeLift = .drawn ∧ idle.engine.homing = none)
      ∧ ((doing strike .interval drawn).engine.progress.map Progress.stage = some .interval)
      ∧ ((doing strike .pulse pulse).drive.hammer = .pulse 550 ∧ pulse.supply.phase = .running ∧ pulse.drive.releaseDue = false)
      ∧ (let s := supplies (fun u => { u with phase := .saving })
            (engines (fun e => { e with state := .down }) (drives (fun d => { d with releaseDue := true }) (doing strike .pulse pulse)))
         s.supply.phase = .saving ∧ s.engine.state = .down ∧ s.drive.releaseDue = true ∧ s.supply.saveBegun = false
           ∧ s.spell.writing = none)
      ∧ ((drives (fun d => { d with hammer := .settle }) (doing strike .settle drawn)).drive.hammer = .settle
          ∧ drawn.drive.ribbon = .idle) := by decide

theorem witness_SensorsHold :
    idle.live ∧ idle.pins.coverOpen = true ∧ ({ idle with pins := { idle.pins with coverOpen := false } } : State).pins.coverOpen = false
      ∧ idle.engine.homing = none
      ∧ (engines (fun e => { e with homing := some { kind := .wheelOnly, phase := .wheelSearch } }) idle).engine.homing
        = some { kind := .wheelOnly, phase := .wheelSearch }
      ∧ (let m : Homing := { kind := .start, phase := .carriageDue, interrupted := true }
         m.interrupted = true ∧ (engines (fun e => { e with homing := some m }) idle).engine.homing = some m) := by decide

-- R57, R71: the closing that ends the wait of R68 sets the re-home mark, and one after an opening in the homing leaves it clear.
theorem test_coverClosed_homing :
    let waits (b : Bool) : State := engines (fun e =>
      { e with state := .homing, holds := { e.holds with cover := true },
               homing := some { kind := .start, phase := .carriageDue, interrupted := b } }) idle
    (after .coverClosed (waits false)).engine.rehome = true ∧ (after .coverClosed (waits true)).engine.rehome = false
      ∧ (after .coverClosed (waits true)).engine.homing.map Homing.phase = some .searching := by decide

-- R1, R28: a RETURN op left from direct mode completes before that of the print line, which stands until its own.
theorem test_return_earlier :
    let s (l : List Op) : State :=
      engines (fun e => { e with slots := l })
        (texts (fun t => { t with print := t.print.map (fun p => { p with returnAppended := true }) })
          (printing (carries (.brake .check) move 220 (doing (returnOp 220 2) (.returning true false) idle))))
    (after .carriageBrakeEnd (s [returnOp 120 2])).text.print.isSome = true
      ∧ (after .carriageBrakeEnd (s [])).text.print = none := by decide

-- R59: a STATE is asked for where a hold reason changes, and not where it stands already.
theorem test_ribbonSpent_state :
    (after .ribbonSpent idle).line.places.map TxFrame.kind = [.state]
      ∧ (after .ribbonSpent (engines (fun e => { e with holds := { e.holds with ribbon := true } }) idle)).line.places = [] := by decide

end Sys2Proof.Tests
end

section
/-! SUPPORT. What a frame of the intake unit does (R159, R178) and what an action does that meets the joining tests (R165 to R167,
R170), one lemma for each case; then KEY_FRAME, which is CLEAR or brings an action to those tests. -/

namespace Sys2Proof.Machine

/-! ## Frames for the intake unit (R159, R178) -/

@[simp] theorem State.frameEnd_intake (s : State) : s.frameEnd.intake = s.intake := rfl

/-- An OPEN intake unit reads a frame from the rostered station of its class, after the frame end. -/
theorem State.intakeFrame_opened {s : State} {c : StationClass} (hr : s.line.rostered c = true)
    (ho : s.intake.state = .opened) (f : State → State) : s.intakeFrame c f = f s.frameEnd := by
  simp [State.intakeFrame, hr, ho]

/-- An intake unit that is not OPEN discards the frame, whose end the receiver takes. -/
theorem State.intakeFrame_discarded {s : State} {c : StationClass} (hr : s.line.rostered c = true)
    (ho : s.intake.state ≠ .opened) (f : State → State) : s.intakeFrame c f = s.frameEnd := by
  simp [State.intakeFrame, hr, ho]

/-- A frame whose reading changes nothing leaves the frame end alone, whatever the intake unit's state. -/
theorem State.intakeFrame_of_reads_nothing {s : State} {c : StationClass} (hr : s.line.rostered c = true)
    {f : State → State} (hf : f s.frameEnd = s.frameEnd) : s.intakeFrame c f = s.frameEnd := by
  by_cases ho : s.intake.state = .opened
  · rw [State.intakeFrame_opened hr ho, hf]
  · exact State.intakeFrame_discarded hr ho f

/-! ## The joining tests (R165 to R167, R170) -/

/-- The kinds whose repeats are dropped at any count (R166). -/
theorem neverRepeats_iff (k : ActionKind) :
    neverRepeats k = true ↔ k ∈ [ActionKind.correct, .wordCorrect, .lineCorrect, .carriageReturn, .mode] := by
  cases k <;> decide

/-- The throttle drops a repeat that finds 4 actions in the queue, and one of these kinds always (R166). -/
theorem throttled_iff (a : Action) (n : Nat) :
    throttled a n = true ↔
      a.repeated = true ∧ (4 ≤ n ∨ a.kind ∈ [ActionKind.correct, .wordCorrect, .lineCorrect, .carriageReturn, .mode]) := by
  rw [throttled, Bool.and_eq_true, Bool.or_eq_true, neverRepeats_iff, decide_eq_true_iff, or_comm (a := 4 ≤ n)]

/-- A throttled action changes nothing (R166). -/
theorem State.join_throttled {s : State} {a : Action} (h : throttled a s.intake.queue.length = true) : s.join a = s :=
  if_pos h

/-- An action that passes the throttle and finds 32 actions meets the full queue (R167). -/
theorem State.join_full {s : State} {a : Action} (h : ¬throttled a s.intake.queue.length = true)
    (hn : 32 ≤ s.intake.queue.length) : s.join a = s.dropFull a := by
  rw [State.join, if_neg h, if_pos hn]

/-- An action that passes the throttle and finds fewer than 32 actions is accepted (R165). -/
theorem State.join_room {s : State} {a : Action} (h : ¬throttled a s.intake.queue.length = true)
    (hn : s.intake.queue.length < 32) : s.join a = s.accept a := by
  rw [State.join, if_neg h, if_neg (by omega)]

/-- In a drop run that has sounded, a drop changes nothing (R167). -/
theorem State.dropFull_sounded {s : State} (a : Action) (h : s.intake.dropSounded = true) : s.dropFull a = s := by
  simp [State.dropFull, h]

/-- The first keyboard drop of a drop run asks for CLICK (R167). -/
theorem State.dropFull_first {s : State} {a : Action} (ha : a.source = .keyboard) (h : s.intake.dropSounded = false) :
    s.dropFull a =
      { s with intake := { s.intake with dropSounded := true }, line := s.line.sound .click } :=
  if_pos ⟨ha, h⟩

/-- An accepted action joins the tail; the count of 24 sets the hold state, with HOLD where it was clear (R165, R170). -/
theorem State.accept_eq (s : State) (a : Action) :
    s.accept a =
      { s with
        intake :=
          { s.intake with
            queue := s.intake.queue ++ [a], dropSounded := false,
            hold := s.intake.hold || decide (s.intake.queue.length + 1 = 24) },
        line := if s.intake.queue.length + 1 = 24 ∧ s.intake.hold = false then s.line.flowFrame .hold else s.line } := by
  by_cases hn : s.intake.queue.length + 1 = 24
  · cases hh : s.intake.hold <;> simp [State.accept, State.flowFrame, hn, hh]
  · simp [State.accept, hn]

/-! ## The action of a KEY (R162) -/

/-- Every action of a KEY comes from the keyboard and bears the frame's repeat mark. -/
theorem keyAction_source_repeated {v : Nat} {rep : Bool} {a : Action} (h : keyAction v rep = some a) :
    a.source = .keyboard ∧ a.repeated = rep := by
  have plain (k : ActionKind) (code : Nat) (hk : plainAction k code .keyboard rep = a) :
      a.source = .keyboard ∧ a.repeated = rep := hk ▸ ⟨rfl, rfl⟩
  unfold keyAction at h
  split at h
  · obtain ⟨k, -, hk⟩ := Option.map_eq_some_iff.mp h
    exact plain k 0 hk
  · split at h
    · exact plain .char v (Option.some.inj h)
    · split at h
      · exact plain .space 0 (Option.some.inj h)
      · cases h

/-! ## KEY_FRAME (R162, R168) -/

/-- KEY_FRAME in a live controller. -/
theorem exec_keyFrame {s : State} (h : s.live) (value flags : Byte) :
    exec (.keyFrame value flags) s = .next ((s.keyFrame value flags).finish s) :=
  congrArg Host.Outcome.next (State.event_live h (fun t => t.keyFrame value flags))

/-- A KEY of value 0 with the repeat mark clear is CLEAR (R168). -/
theorem State.keyFrame_clear {s : State} {value flags : Byte} (hv : value = 0) (hf : flags.getLsbD 0 = false) :
    s.keyFrame value flags = s.clear :=
  if_pos ⟨hv, hf⟩

/-- Any other KEY is a frame for the intake unit whose action, if it makes one, meets the joining tests (R162). -/
theorem State.keyFrame_joins {s : State} {value flags : Byte} (h : value ≠ 0 ∨ flags.getLsbD 0 = true) :
    s.keyFrame value flags =
      s.intakeFrame .keyboard (fun t => t.joinSome (keyAction value.toNat (flags.getLsbD 0))) := by
  refine if_neg ?_
  rintro ⟨hv, hf⟩
  rcases h with h | h
  · exact h hv
  · exact Bool.false_ne_true (hf.symm.trans h)

/-- A KEY that makes no action leaves the frame end alone (R162). -/
theorem State.keyFrame_no_action {s : State} {value flags : Byte} (hr : s.line.rostered .keyboard = true)
    (h : value ≠ 0 ∨ flags.getLsbD 0 = true) (hk : keyAction value.toNat (flags.getLsbD 0) = none) :
    s.keyFrame value flags = s.frameEnd := by
  rw [State.keyFrame_joins h]
  exact State.intakeFrame_of_reads_nothing hr (by rw [hk]; rfl)

/-- With the intake unit OPEN the action of a KEY meets the joining tests (R165). -/
theorem State.keyFrame_opened {s : State} {value flags : Byte} {a : Action} (hr : s.line.rostered .keyboard = true)
    (ho : s.intake.state = .opened) (hv : value ≠ 0) (hk : keyAction value.toNat (flags.getLsbD 0) = some a) :
    s.keyFrame value flags = s.frameEnd.join a := by
  rw [State.keyFrame_joins (.inl hv), State.intakeFrame_opened hr ho, hk]
  rfl

end Sys2Proof.Machine

open Sys2Proof Sys2Proof.Machine

/-- Settles O28: a frame of value 0 is CLEAR by the row of that command, and an action meets the joining tests one by one. The state
`heard` is the frame end of `s`. -/
theorem keyJoins : Obligations.KeyJoins := by
  intro s value flags hlive hr heard
  rw [exec_keyFrame hlive]
  refine ⟨fun hk h => ?noAction, fun hv hf => ?clear, fun a hv hk => ?action⟩
  case noAction => exact next_finish_congr (State.keyFrame_no_action hr h hk)
  case clear =>
    rw [State.keyFrame_clear hv hf]
    refine ⟨congrArg _ (State.event_live hlive State.clear).symm, fun ho => ?_, fun ho => ?_⟩
    · exact next_finish_congr (State.intakeFrame_opened hr ho _)
    · exact next_finish_congr (State.intakeFrame_discarded hr ho _)
  case action =>
    intro n dropped
    obtain ⟨source, repeated⟩ := keyAction_source_repeated hk
    have throttle : throttled a s.frameEnd.intake.queue.length = true ↔ dropped := by
      simp only [throttled_iff, repeated, State.frameEnd_intake, n, dropped]
    refine ⟨fun ho => next_finish_congr ?closed, fun ho hd => next_finish_congr ?throttled,
      fun ho hd hn hs => next_finish_congr ?sounded, fun ho hd hn hs => next_finish_congr ?click,
      fun ho hd hn => next_finish_congr ?accepted⟩
    case closed => exact (State.keyFrame_joins (.inl hv)).trans (State.intakeFrame_discarded hr ho _)
    all_goals rw [State.keyFrame_opened hr ho hv hk]
    case throttled => exact State.join_throttled (throttle.mpr hd)
    case sounded =>
      rw [State.join_full (mt throttle.mp hd) hn]
      exact State.dropFull_sounded a hs
    case click =>
      rw [State.join_full (mt throttle.mp hd) hn]
      exact State.dropFull_first source hs
    case accepted =>
      rw [State.join_room (mt throttle.mp hd) hn]
      exact State.accept_eq s.frameEnd a
end

section
/-! SUPPORT. What the ends of the sag timer, of the power silence timer and of the decay timer do (R192, R196, R198, R199), and that
entering DOWN stops the sag timer (R202): the completion of an op on the way leaves the supply figures alone. -/

namespace Sys2Proof.Machine

/-! ## The sag timer (R196, R198) -/

/-- The running sag timer raises a ceiling below the source limit, and runs on while it is then still below it (R196). -/
theorem State.sagExpiry_running {s : State} (h : s.supply.sagRunning = true) :
    ∃ l, s.sagExpiry =
      { s with
        supply :=
          { s.supply with
            ceiling := if s.supply.ceiling < s.supply.limit then s.supply.ceiling + 1 else s.supply.ceiling,
            sagRunning := decide (s.supply.ceiling + 1 < s.supply.limit) },
        line := l } := by
  simp only [State.sagExpiry, if_pos h]
  by_cases below : s.supply.ceiling < s.supply.limit
  · simp only [if_pos below]
    exact ⟨_, rfl⟩
  · have stops : decide (s.supply.ceiling < s.supply.limit) = decide (s.supply.ceiling + 1 < s.supply.limit) := by
      rw [decide_eq_false below, decide_eq_false (by omega)]
    simp only [if_neg below, ← stops]
    exact ⟨_, rfl⟩

/-- A stopped sag timer does not expire. -/
theorem State.sagExpiry_stopped {s : State} (h : s.supply.sagRunning = false) : s.sagExpiry = s := by
  simp [State.sagExpiry, h]

/-- Without a power station the sag timer is stopped (R198). -/
@[simp] theorem State.loseSupply_sagRunning (s : State) : s.loseSupply.supply.sagRunning = false := rfl

/-- So it is when the power station falls SILENT (R192). -/
theorem State.silenceExpiry_sagRunning {s : State} (h : s.line.silenceRunning = true) :
    s.silenceExpiry.supply.sagRunning = false := by
  rw [State.silenceExpiry, if_pos h, State.loseSupply_sagRunning]

/-! ## What removals and completions leave of the supply figures -/

@[simp] theorem State.takeOut_supply (s : State) (ids : List Nat) : (s.takeOut ids).supply = s.supply := rfl

@[simp] theorem State.completeItem_supply (s : State) (e : Entry) : (s.completeItem e).supply = s.supply := by
  unfold State.completeItem; split <;> rfl

@[simp] theorem State.removeOwner_supply (s : State) (e : Entry) : (s.removeOwner e).supply = s.supply :=
  State.completeItem_supply _ e

@[simp] theorem State.removeEntry_supply (s : State) (e : Entry) : (s.removeEntry e).supply = s.supply := by
  unfold State.removeEntry
  split
  · exact s.removeOwner_supply e
  · rfl

@[simp] theorem State.discardPrint_supply (s : State) : s.discardPrint.supply = s.supply := by
  unfold State.discardPrint; split <;> rfl

@[simp] theorem State.strikeDone_supply (s : State) (o : Op) : (s.strikeDone o).supply = s.supply := by
  unfold State.strikeDone
  split
  · rfl
  · split
    · rfl
    · split
      · split <;> rfl
      · split
        · simp only [apply_ite State.supply, State.removeEntry_supply, ite_self]
        · rfl

@[simp] theorem State.returnDone_supply (s : State) : s.returnDone.supply = s.supply := by
  unfold State.returnDone
  split
  · split
    · exact s.discardPrint_supply
    · rfl
  · rfl

@[simp] theorem State.closingFeedDone_supply (s : State) : s.closingFeedDone.supply = s.supply := by
  unfold State.closingFeedDone; split <;> rfl

/-- A completion leaves the supply figures, whichever unit it is reported to (R66). -/
@[simp] theorem State.completeOp_supply (s : State) : s.completeOp.supply = s.supply := by
  cases ho : s.engine.head with
  | none => simp [State.completeOp, ho]
  | some o =>
    obtain ⟨l, e⟩ := s.completeOp_eq o ho
    rw [e]
    simp only [apply_ite State.supply, State.setEngine_supply, ite_self]
    cases o.kind with
    | strike => exact State.strikeDone_supply _ o
    | carriageReturn => exact State.returnDone_supply _
    | feed =>
      cases o.origin with
      | text => rfl
      | correction => exact State.closingFeedDone_supply _

/-! ## Entering DOWN (R202) -/

/-- The beginning of the save leaves the sag timer. -/
@[simp] theorem State.beginSave_sagRunning (s : State) : s.beginSave.supply.sagRunning = s.supply.sagRunning := by
  unfold State.beginSave; split <;> rfl

/-- Entering DOWN stops the sag timer. -/
@[simp] theorem State.enterDown_sagRunning (s : State) (time : Nat) : (s.enterDown time).supply.sagRunning = false := by
  simp only [State.enterDown, State.beginSave_sagRunning, apply_ite State.supply, State.completeOp_supply,
    State.setEngine_supply, ite_self]

@[simp] theorem State.frameEnd_supply (s : State) : s.frameEnd.supply = s.supply := rfl

/-- A mark in the roster leaves the supply figures. -/
@[simp] theorem State.markPresent_supply (s : State) (c : StationClass) : (s.markPresent c).supply = s.supply := by
  unfold State.markPresent
  split
  · split <;> rfl
  · rfl

/-- A POWER_FAILING taken while RUNNING stops the sag timer. -/
theorem State.powerFailing_sagRunning {s : State} (hr : s.line.rostered .power = true) (hp : s.supply.phase = .running)
    (time : Nat) : (s.powerFailing time).supply.sagRunning = false := by
  have up : (((s.frameEnd).atTime time).markPresent .power).isDown = false := by simp [State.isDown, hp]
  simp [State.powerFailing, hr, State.takeFailing, up]

/-! ## The heat estimate (R199, R200) -/

/-- The region of an estimate, with the two bounds of HOT (R200). -/
theorem regionFor_eq (r : Region) (h : Nat) :
    regionFor r h =
      (if r = .hot then (if 2000 ≤ h then .hot else .warm)
       else if 2400 ≤ h then .hot else if 1200 ≤ h then .warm else .cool) := by
  cases r <;> rfl

/-- A hold reason is set or cleared among the holds. -/
@[simp] theorem State.setHold_holds (s : State) (r : HoldReason) (b : Bool) :
    (s.setHold r b).engine.holds = s.engine.holds.set r b := by
  obtain ⟨l, e⟩ := s.setHold_eq r b
  rw [e]

@[simp] theorem State.setHeat_supply (s : State) (h : Nat) :
    (s.setHeat h).supply = { s.supply with heat := h, region := regionFor s.supply.region h } := by
  obtain ⟨hot, e, d, l, eq⟩ := s.setHeat_eq h
  rw [eq]

/-- Entering HOT sets HEAT and posts COOL (R200). -/
theorem State.setHeat_enters_hot {s : State} {h : Nat} (old : s.supply.region ≠ .hot)
    (new : regionFor s.supply.region h = .hot) :
    (s.setHeat h).engine.holds.heat = true ∧ (s.setHeat h).display = s.display.post .cool := by
  simp [State.setHeat, old, new, Holds.set]

/-- Leaving HOT clears HEAT and removes COOL (R200). -/
theorem State.setHeat_leaves_hot {s : State} {h : Nat} (old : s.supply.region = .hot)
    (new : regionFor s.supply.region h ≠ .hot) :
    (s.setHeat h).engine.holds.heat = false ∧ (s.setHeat h).display = s.display.unpost .cool := by
  rw [old] at new
  simp [State.setHeat, old, new, Holds.set]

/-- An estimate that neither enters nor leaves HOT leaves the engine and the message list. -/
theorem State.setHeat_keeps_hot {s : State} {h : Nat}
    (same : s.supply.region = .hot ↔ regionFor s.supply.region h = .hot) :
    (s.setHeat h).engine = s.engine ∧ (s.setHeat h).display = s.display := by
  have enters : ¬(regionFor s.supply.region h = .hot ∧ s.supply.region ≠ .hot) := fun ⟨new, old⟩ => old (same.mpr new)
  have leaves : ¬(regionFor s.supply.region h ≠ .hot ∧ s.supply.region = .hot) := fun ⟨new, old⟩ => new (same.mp old)
  simp only [State.setHeat, if_neg enters, if_neg leaves, and_self]

/-! ## The commands (R192, R196, R199, R202) -/

/-- SAG_TIMER_EXPIRY in a live controller. -/
theorem exec_sagTimerExpiry {s : State} (h : s.live) : exec .sagTimerExpiry s = .next (s.sagExpiry.finish s) :=
  congrArg Host.Outcome.next (State.event_live h State.sagExpiry)

/-- POWER_SILENCE_EXPIRY in a live controller. -/
theorem exec_powerSilenceExpiry {s : State} (h : s.live) :
    exec .powerSilenceExpiry s = .next (s.silenceExpiry.finish s) :=
  congrArg Host.Outcome.next (State.event_live h State.silenceExpiry)

/-- POWER_FAILING in a live controller. -/
theorem exec_powerFailing {s : State} (h : s.live) (time : Nat) :
    exec (.powerFailing time) s = .next ((s.powerFailing time).finish s) :=
  congrArg Host.Outcome.next (State.event_live h (fun t => t.powerFailing time))

/-- DECAY_TIMER_EXPIRY in a live controller: the estimate falls by a 50th, rounded up. -/
theorem exec_decayTimerExpiry {s : State} (h : s.live) :
    exec .decayTimerExpiry s = .next ((s.setHeat (s.supply.heat - (s.supply.heat + 49) / 50)).finish s) :=
  congrArg Host.Outcome.next (State.event_live h State.decay)

end Sys2Proof.Machine

open Sys2Proof Sys2Proof.Machine

/-- Settles O23: each command's effect is the operation that the lemmas above describe. -/
theorem supplyTimersExpire : Obligations.SupplyTimersExpire := by
  intro s hlive
  refine ⟨fun hrun => ?sag, fun hstop => ?stopped, fun hsilent => ?silent, fun time hr hp => ?down, ?decay⟩
  case sag =>
    obtain ⟨l, e⟩ := State.sagExpiry_running hrun
    exact ⟨s.sagExpiry, exec_sagTimerExpiry hlive, by rw [e], by rw [e]⟩
  case stopped => rw [exec_sagTimerExpiry hlive, State.sagExpiry_stopped hstop]
  case silent => exact ⟨_, exec_powerSilenceExpiry hlive, State.silenceExpiry_sagRunning hsilent⟩
  case down => exact ⟨_, exec_powerFailing hlive time, State.powerFailing_sagRunning hr hp time⟩
  case decay =>
    refine ⟨_, exec_decayTimerExpiry hlive, ?heat, ?region, fun old new => ?leaves, fun old new => ?enters,
      fun same => ?keeps, ?frame⟩
    case heat => rw [State.setHeat_supply]
    case region =>
      rw [State.setHeat_supply]
      exact regionFor_eq _ _
    case leaves =>
      rw [State.setHeat_supply] at new
      exact State.setHeat_leaves_hot old new
    case enters =>
      rw [State.setHeat_supply] at new
      exact State.setHeat_enters_hot old new
    case keeps =>
      rw [State.setHeat_supply] at same
      exact State.setHeat_keeps_hot same
    case frame =>
      obtain ⟨hot, e, d, l, eq⟩ := s.setHeat_eq (s.supply.heat - (s.supply.heat + 49) / 50)
      rw [eq]
end

section
/-! SUPPORT. What follows a command in its event (R12, R55, R97, R147): one relation that holds from the state before to the state after
each of its parts, so that what the follow-up leaves, and the bounds that it keeps, are read off once. -/

-- One proof after another: the whole text compiles in one process, whose threads are few.
set_option Elab.async false

namespace Sys2Proof.Machine

/-! ## What the follow-up may do -/

/-- The bounds of the message list and of the frame count, of a display unit alone. -/
abbrev Display.Ok (d : Display) : Prop :=
  d.messages.length ≤ 4 ∧ d.frameCount < 16
    ∧ d.messages = d.messages.filter Message.isFault ++ d.messages.filter (fun m => !m.isFault)
    ∧ d.standing.Nodup ∧ ∀ m ∈ d.standing, m.isFault = true

/-- A set dirty mark stands until a composition begins, and the composer changes by that alone (R146, R147). -/
structure Display.Grows (d e : Display) : Prop where
  dirty : d.dirty = true → e.dirty = true ∨ d.composer = .idle ∧ ∃ image, e.composer = .composing image := by exact .inl
  composer : e.composer = d.composer ∨ d.composer = .idle ∧ ∃ image, e.composer = .composing image := by exact .inl rfl

@[refl] theorem Display.Grows.refl (d : Display) : d.Grows d := {}

theorem Display.Grows.trans {a b c : Display} (h : a.Grows b) (k : b.Grows c) : a.Grows c := by
  have idle (e : b.composer = .idle) : a.composer = .idle := h.composer.elim (fun same => same ▸ e) And.left
  have composing (begun : a.composer = .idle ∧ ∃ image, b.composer = .composing image) :
      a.composer = .idle ∧ ∃ image, c.composer = .composing image := by
    obtain ⟨first, image, e⟩ := begun
    refine ⟨first, ?_⟩
    rcases k.composer with same | ⟨none, -⟩
    · exact ⟨image, same.trans e⟩
    · rw [e] at none
      cases none
  refine ⟨fun dirty => ?_, ?_⟩
  · exact (h.dirty dirty).elim (fun marked => (k.dirty marked).imp_right (fun begun => ⟨idle begun.1, begun.2⟩))
      (fun begun => .inr (composing begun))
  · exact h.composer.elim (fun same => k.composer.imp (fun e => e.trans same) (fun begun => ⟨idle begun.1, begun.2⟩))
      (fun begun => .inr (composing begun))

theorem Display.setMessages_grows (d : Display) (l : List Message) (replaced : Option Message) :
    d.Grows (d.setMessages l replaced) := by
  obtain ⟨p, n, due, empty, e⟩ := d.setMessages_eq l replaced
  rw [e]
  exact {}

theorem Display.post_grows (d : Display) (m : Message) : d.Grows (d.post m) := by
  unfold Display.post
  split
  · split
    · exact .refl d
    · exact Display.Grows.trans (b := { d with standing := m :: d.standing }) {} (Display.setMessages_grows _ _ _)
  · split
    · exact Display.Grows.trans (b := { d with dirty := true }) { dirty := fun _ => .inl rfl } (Display.setMessages_grows _ _ _)
    · exact d.setMessages_grows _ _

theorem Display.unpost_grows (d : Display) (m : Message) : d.Grows (d.unpost m) := by
  unfold Display.unpost
  split
  · dsimp only
    split
    · exact Display.Grows.trans (b := { d with standing := d.standing.erase m }) {} (Display.setMessages_grows _ _ _)
    · exact {}
  · exact .refl d

/-- What any part of a follow-up leaves as it was, and the bounds that it keeps. -/
structure State.Follows (s t : State) : Prop where
  pending : t.pending = s.pending := by rfl
  pins : t.pins = s.pins := by rfl
  intake : t.intake = s.intake := by rfl
  retained : t.retained = s.retained := by rfl
  figures : t.supply = { s.supply with heat := t.supply.heat, region := t.supply.region } := by rfl
  supplyOk : s.SupplyOk → t.SupplyOk := by exact fun h => h
  settings : t.text.settings = s.text.settings := by rfl
  userList : t.spell.userList = s.spell.userList := by rfl
  roster : t.line.roster = s.line.roster := by rfl
  display : s.display.Ok → t.display.Ok := by exact fun h => h
  glass : s.display.Grows t.display := by exact .refl _

@[refl] theorem State.Follows.refl (s : State) : s.Follows s := {}

theorem State.Follows.trans {a b c : State} (h : a.Follows b) (k : b.Follows c) : a.Follows c where
  pending := k.pending.trans h.pending
  pins := k.pins.trans h.pins
  intake := k.intake.trans h.intake
  retained := k.retained.trans h.retained
  figures := by rw [k.figures, h.figures]
  supplyOk := fun p => k.supplyOk (h.supplyOk p)
  settings := k.settings.trans h.settings
  userList := k.userList.trans h.userList
  roster := k.roster.trans h.roster
  display := fun p => k.display (h.display p)
  glass := h.glass.trans k.glass

/-- What each part of a loop follows, the loop follows. -/
theorem State.Follows.foldl {α : Type} {f : State → α → State} (hf : ∀ (s : State) (a : α), s.Follows (f s a)) :
    ∀ (l : List α) (s : State), s.Follows (l.foldl f s)
  | [], s => .refl s
  | a :: l, s => (hf s a).trans (State.Follows.foldl hf l _)

/-- Of two branches, either. -/
theorem State.Follows.ite {c : Prop} [Decidable c] {s t u : State} (h : c → s.Follows t) (k : ¬c → s.Follows u) :
    s.Follows (if c then t else u) := by
  split
  · next hc => exact h hc
  · next hc => exact k hc

/-! ## The transmit queue and the message list -/

theorem State.askState_follows (s : State) : s.Follows s.askState := { roster := s.line.askState_roster }

theorem State.sound_follows (s : State) (p : Sound) : s.Follows (s.sound p) := { roster := s.line.sound_roster p }

theorem State.refuse_follows (s : State) (a : Action) : s.Follows (s.refuse a) := by
  unfold State.refuse
  split
  · exact s.sound_follows .click
  · exact .refl s

/-- A list that parts into its faults and then its transients has a fault behind faults alone. -/
theorem faultsFirst_iff (l : List Message) :
    l = l.filter Message.isFault ++ l.filter (fun m => !m.isFault)
      ↔ l.Pairwise (fun a b => b.isFault = true → a.isFault = true) := by
  constructor
  · intro h
    rw [h, List.pairwise_append]
    refine ⟨?_, ?_, fun a ha b _ _ => (List.mem_filter.mp ha).2⟩
    · exact List.pairwise_of_forall_mem_list fun a ha b _ _ => (List.mem_filter.mp ha).2
    · refine List.pairwise_of_forall_mem_list fun a _ b hb hf => ?_
      have := (List.mem_filter.mp hb).2
      simp [hf] at this
  · intro h
    induction l with
    | nil => rfl
    | cons m l ih =>
      obtain ⟨hm, hl⟩ := List.pairwise_cons.mp h
      cases hf : m.isFault with
      | true => simpa [hf] using ih hl
      | false =>
        have none : l.filter Message.isFault = [] :=
          List.filter_eq_nil_iff.mpr fun x hx hx' => by simp [hm x hx hx'] at hf
        have all : l.filter (fun m => !m.isFault) = l :=
          List.filter_eq_self.mpr fun x hx => by
            have := List.filter_eq_nil_iff.mp none x hx
            simpa using this
        simp [hf, none, all]

/-- The bounds of a display unit, with the order of its list said pair by pair. -/
theorem Display.ok_iff (d : Display) :
    d.Ok ↔ d.messages.length ≤ 4 ∧ d.frameCount < 16
      ∧ d.messages.Pairwise (fun a b => b.isFault = true → a.isFault = true)
      ∧ d.standing.Nodup ∧ ∀ m ∈ d.standing, m.isFault = true := by
  rw [Display.Ok, faultsFirst_iff]

/-- A new fault stands before the list. -/
theorem withFault_pairwise {l : List Message} {m : Message} (hm : m.isFault = true)
    (h : l.Pairwise (fun a b => b.isFault = true → a.isFault = true)) :
    (withFault l m).Pairwise (fun a b => b.isFault = true → a.isFault = true) := by
  unfold withFault
  split
  · exact List.pairwise_cons.mpr ⟨fun _ _ _ => hm, h⟩
  · split
    · exact List.pairwise_cons.mpr ⟨fun _ _ _ => hm, h.sublist l.dropLast_sublist⟩
    · exact h

/-- Faults and then transients are in order. -/
theorem pairwise_faults_transients {a b : List Message} (ha : ∀ m ∈ a, m.isFault = true)
    (hb : ∀ m ∈ b, m.isFault = false) : (a ++ b).Pairwise (fun a b => b.isFault = true → a.isFault = true) := by
  rw [List.pairwise_append]
  refine ⟨List.pairwise_of_forall_mem_list fun x hx _ _ _ => ha x hx, ?_, fun x hx _ _ _ => ha x hx⟩
  exact List.pairwise_of_forall_mem_list fun x _ y hy hf => by simp [hb y hy] at hf

theorem mem_faults {l : List Message} : ∀ m ∈ l.filter Message.isFault, m.isFault = true :=
  fun _ hm => (List.mem_filter.mp hm).2

theorem mem_transients {l : List Message} : ∀ m ∈ l.filter (fun m => !m.isFault), m.isFault = false :=
  fun _ hm => by simpa using (List.mem_filter.mp hm).2

/-- The faults and the transients of a list make up its length. -/
theorem length_faults_transients (l : List Message) :
    (l.filter Message.isFault).length + (l.filter (fun m => !m.isFault)).length = l.length := by
  rw [← List.countP_eq_length_filter, ← List.countP_eq_length_filter, l.length_eq_countP_add_countP Message.isFault]
  simp

/-- A transient joins behind the faults. -/
theorem withTransient_pairwise {l : List Message} {m : Message} (hm : m.isFault = false)
    (h : l.Pairwise (fun a b => b.isFault = true → a.isFault = true)) :
    (withTransient l m).Pairwise (fun a b => b.isFault = true → a.isFault = true) := by
  unfold withTransient
  simp only
  split
  · exact pairwise_faults_transients mem_faults (by simp [hm])
  · split
    · exact h.sublist List.erase_sublist
    · refine pairwise_faults_transients mem_faults fun x hx => ?_
      rcases List.mem_cons.mp hx with rfl | hx
      · exact hm
      · exact mem_transients x ((List.dropLast_sublist _).mem hx)

theorem withTransient_length_le (l : List Message) (m : Message) (h : l.length ≤ 4) : (withTransient l m).length ≤ 4 := by
  have split4 := length_faults_transients (l.erase m)
  have le : (l.erase m).length ≤ l.length := List.erase_sublist.length_le
  unfold withTransient
  simp only
  split
  · simp only [List.length_append, List.length_cons]; omega
  · split
    · omega
    · next hne =>
      have pos : 0 < ((l.erase m).filter (fun m => !m.isFault)).length := List.length_pos_iff.mpr (by simpa using hne)
      simp only [List.length_append, List.length_cons, List.length_dropLast]; omega

/-- The list after a listed fault has gone holds faults before transients. -/
theorem withoutFault_pairwise {st l : List Message} {m : Message} (hs : ∀ x ∈ st, x.isFault = true)
    (h : l.Pairwise (fun a b => b.isFault = true → a.isFault = true)) :
    (withoutFault st l m).Pairwise (fun a b => b.isFault = true → a.isFault = true) := by
  unfold withoutFault
  simp only
  split
  · exact pairwise_faults_transients (fun x hx => hs x (List.mem_filter.mp hx).1) mem_transients
  · exact h.sublist List.erase_sublist

/-- The fault that joins takes the place of the one that has gone, so that the list does not grow. -/
theorem withoutFault_length_le {st l : List Message} {m : Message} (hn : st.Nodup) (hs : ∀ x ∈ st, x.isFault = true)
    (hm : m ∈ l) : (withoutFault st l m).length ≤ l.length := by
  have less : (l.erase m).length = l.length - 1 := List.length_erase_of_mem hm
  have pos : 0 < l.length := List.length_pos_of_mem hm
  unfold withoutFault
  simp only
  split
  · next f _ =>
    have sub : st.filter (fun x => (l.erase m).contains x || decide (x = f)) ⊆ f :: (l.erase m).filter Message.isFault := by
      intro x hx
      obtain ⟨hst, hx⟩ := List.mem_filter.mp hx
      simp only [Bool.or_eq_true, decide_eq_true_eq, List.contains_iff_mem] at hx
      rcases hx with hx | rfl
      · exact List.mem_cons_of_mem _ (List.mem_filter.mpr ⟨hx, hs x hst⟩)
      · exact List.mem_cons_self
    have le := ((hn.filter _).subperm sub).length_le
    have parts := length_faults_transients (l.erase m)
    simp only [List.length_append, List.length_cons] at le ⊢
    omega
  · omega

/-- A post keeps the bounds of the message list (R152, R153). -/
theorem Display.post_ok {d : Display} (m : Message) (h : d.Ok) : (d.post m).Ok := by
  rw [Display.ok_iff] at *
  obtain ⟨len, frame, order, nodup, faults⟩ := h
  unfold Display.post
  split
  · next hm =>
    split
    · exact ⟨len, frame, order, nodup, faults⟩
    · next hc =>
      simp only [Display.setMessages_messages, Display.setMessages_standing, Display.setMessages_frameCount]
      refine ⟨withFault_length_le _ m len, frame, withFault_pairwise hm order, ?_, ?_⟩
      · exact List.nodup_cons.mpr ⟨by simpa using hc, nodup⟩
      · simpa [hm] using faults
  · next hm =>
    have hm : m.isFault = false := by simpa using hm
    split <;>
    · simp only [Display.setMessages_messages, Display.setMessages_standing, Display.setMessages_frameCount]
      exact ⟨withTransient_length_le _ m len, frame, withTransient_pairwise hm order, nodup, faults⟩

/-- The removal of a fault keeps the bounds of the message list (R153). -/
theorem Display.unpost_ok {d : Display} (m : Message) (h : d.Ok) : (d.unpost m).Ok := by
  rw [Display.ok_iff] at *
  obtain ⟨len, frame, order, nodup, faults⟩ := h
  have nodup' : (d.standing.erase m).Nodup := nodup.erase m
  have faults' : ∀ x ∈ d.standing.erase m, x.isFault = true := fun x hx => faults x (List.mem_of_mem_erase hx)
  unfold Display.unpost
  split
  · simp only
    split
    · next hc =>
      simp only [Display.setMessages_messages, Display.setMessages_standing, Display.setMessages_frameCount]
      have hm : m ∈ d.messages := by simpa using hc
      exact ⟨(withoutFault_length_le nodup' faults' hm).trans len, frame, withoutFault_pairwise faults' order, nodup',
        faults'⟩
    · exact ⟨len, frame, order, nodup', faults'⟩
  · exact ⟨len, frame, order, nodup, faults⟩

theorem State.post_follows (s : State) (m : Message) : s.Follows (s.post m) := 
  { display := Display.post_ok m, glass := s.display.post_grows m }

theorem State.unpost_follows (s : State) (m : Message) : s.Follows (s.unpost m) := 
  { display := Display.unpost_ok m, glass := s.display.unpost_grows m }

end Sys2Proof.Machine
end

section
/-! SUPPORT. The parts of a follow-up, function by function: the strike queue, the holds, removals, completions, drops and faults
(Chapter 3, Chapter 5). -/

-- One proof after another: the whole text compiles in one process, whose threads are few.
set_option Elab.async false

namespace Sys2Proof.Machine

/-! ## The strike queue and the engine's state -/

/-- A STATE that is asked for under a condition leaves the roster. -/
theorem LineInterface.roster_ite (c : Prop) [Decidable c] (l : LineInterface) :
    (if c then l else l.askState).roster = l.roster := by
  split
  · rfl
  · exact l.askState_roster

theorem State.setQueue_follows (s : State) (slots : List Op) (head : Option Op) : s.Follows (s.setQueue slots head) :=
  { roster := s.line.roster_ite _ }

theorem State.setEngine_follows (s : State) (e : EngineState) : s.Follows (s.setEngine e) :=
  { roster := s.line.roster_ite _ }

theorem State.setFault_follows (s : State) (f : FaultCode) : s.Follows (s.setFault f) :=
  { roster := s.line.roster_ite _ }

/-- A hold reason other than HEAT and LOW has no part in the supply figures. -/
theorem State.supplyOk_of_set {s t : State} {r : HoldReason} {b : Bool} (hs : t.supply = s.supply)
    (hh : t.engine.holds = s.engine.holds.set r b) (hr : r ≠ .heat ∧ r ≠ .low) (ok : s.SupplyOk) : t.SupplyOk := by
  rw [State.SupplyOk, hs, hh]
  cases r with
  | heat => exact absurd rfl hr.1
  | low => exact absurd rfl hr.2
  | cover => exact ok
  | ribbon => exact ok
  | wheel => exact ok

theorem State.setHold_follows (s : State) {r : HoldReason} (b : Bool) (hr : r ≠ .heat ∧ r ≠ .low) :
    s.Follows (s.setHold r b) := by
  unfold State.setHold
  simp only
  have first : s.Follows
      { s with
        engine := { s.engine with holds := s.engine.holds.set r b },
        line := if s.engine.holds = s.engine.holds.set r b then s.line else s.line.askState } :=
    { supplyOk := State.supplyOk_of_set rfl rfl hr, roster := s.line.roster_ite _ }
  exact .ite (fun _ => first.trans (State.setEngine_follows _ _)) (fun _ => first)

/-- A hold reason that is set or cleared asks for a STATE at most. -/
theorem State.setHold_roster (s : State) (r : HoldReason) (b : Bool) : (s.setHold r b).line.roster = s.line.roster := by
  have first := s.line.roster_ite (s.engine.holds = s.engine.holds.set r b)
  unfold State.setHold
  simp only
  split
  · exact (LineInterface.roster_ite _ _).trans first
  · exact first

/-! ## Heat (R199, R200) -/

/-- The hold reason HEAT stands exactly in HOT once an estimate has been taken. -/
theorem State.setHeat_supplyOk {s : State} {h : Nat} (hh : h ≤ 4095) (ok : s.SupplyOk) : (s.setHeat h).SupplyOk := by
  obtain ⟨low1, low2, low3, -, none2, heat, low⟩ := ok
  have held : (s.setHeat h).engine.holds.heat = true ↔ (s.setHeat h).supply.region = .hot := by
    rw [State.setHeat_supply]
    by_cases old : s.supply.region = .hot <;> by_cases new : regionFor s.supply.region h = .hot
    · rw [(State.setHeat_keeps_hot (iff_of_true old new)).1]
      exact iff_of_true (heat.mpr old) new
    · exact iff_of_false (by simp [(State.setHeat_leaves_hot old new).1]) new
    · exact iff_of_true (State.setHeat_enters_hot old new).1 new
    · rw [(State.setHeat_keeps_hot (iff_of_false old new)).1]
      exact iff_of_false (fun x => old (heat.mp x)) new
  refine ⟨?_, ?_, ?_, ?_, ?_, held, ?_⟩
  · simpa using low1
  · simpa using low2
  · simpa using low3
  · simpa using hh
  · simpa using none2
  · obtain ⟨_, _, _, _, eq⟩ := s.setHeat_eq h
    rw [eq]
    exact low

/-- A new estimate posts or removes COOL at most. -/
theorem State.setHeat_glass (s : State) (h : Nat) (ok : s.display.Ok) : (s.setHeat h).display.Ok := by
  unfold State.setHeat
  simp only
  split
  · simpa using Display.post_ok .cool ok
  · split
    · simpa using Display.unpost_ok .cool ok
    · exact ok

theorem State.setHeat_grows (s : State) (h : Nat) : s.display.Grows (s.setHeat h).display := by
  unfold State.setHeat
  simp only
  split
  · simpa using s.display.post_grows .cool
  · split
    · simpa using s.display.unpost_grows .cool
    · exact .refl _

theorem State.setHeat_follows {s : State} {h : Nat} (hh : h ≤ 4095) : s.Follows (s.setHeat h) := by
  have glass := s.setHeat_glass h
  have grows := s.setHeat_grows h
  have roster : (s.setHeat h).line.roster = s.line.roster := by
    unfold State.setHeat
    extract_lets r _ s1
    have first : s1.line.roster = s.line.roster := s.line.roster_ite _
    split
    · exact (s1.setHold_roster .heat true).trans first
    · split
      · exact (s1.setHold_roster .heat false).trans first
      · exact first
  obtain ⟨hot, e, d, l, eq⟩ := s.setHeat_eq h
  have ok := State.setHeat_supplyOk (s := s) hh
  rw [eq] at glass grows roster ok ⊢
  exact { supplyOk := ok, display := glass, glass := grows, roster := roster }

theorem State.addHeat_follows (s : State) (inc : Nat) : s.Follows (s.addHeat inc) :=
  State.setHeat_follows (Nat.min_le_left _ _)

/-! ## Removals (R3, R4, R107, R117) -/

theorem State.setEntryState_follows (s : State) (id : Nat) (st : EntryState) : s.Follows (s.setEntryState id st) := {}

theorem State.clearRefs_follows (s : State) (ids : List Nat) : s.Follows (s.clearRefs ids) := {}

theorem State.takeOut_follows (s : State) (ids : List Nat) : s.Follows (s.takeOut ids) := {}

theorem State.completeItem_follows (s : State) (e : Entry) : s.Follows (s.completeItem e) := by
  unfold State.completeItem
  refine .ite (fun _ => ?_) (fun _ => .refl s)
  exact { settings := by split <;> rfl }

theorem State.removeOwner_follows (s : State) (e : Entry) : s.Follows (s.removeOwner e) := by
  unfold State.removeOwner
  extract_lets run s1 s2
  have out : s.Follows s1 := s.takeOut_follows _
  have marked : s1.Follows s2 := {}
  exact (out.trans marked).trans (s2.completeItem_follows e)

theorem State.removeCompanion_follows (s : State) (e : Entry) : s.Follows (s.removeCompanion e) := s.takeOut_follows _

theorem State.removeEntry_follows (s : State) (e : Entry) : s.Follows (s.removeEntry e) :=
  .ite (fun _ => s.removeOwner_follows e) (fun _ => s.removeCompanion_follows e)

theorem State.removeOwners_follows (s : State) (es : List Entry) : s.Follows (s.removeOwners es) :=
  .foldl State.removeOwner_follows es s

theorem State.emptyWork_follows (s : State) : s.Follows s.emptyWork := {}

theorem State.discardPrint_follows (s : State) : s.Follows s.discardPrint := by
  unfold State.discardPrint
  split
  · exact .refl s
  · exact {}

theorem State.removeOps_follows (s : State) (f : Op → Bool) : s.Follows (s.removeOps f) :=
  s.setQueue_follows _ _

theorem State.lockEntry_follows (s : State) (o : Op) : s.Follows (s.lockEntry o) := by
  unfold State.lockEntry
  split
  · exact .refl s
  · split
    · exact .refl s
    · split
      · exact s.removeEntry_follows _
      · exact s.setEntryState_follows _ _
      · exact .refl s

theorem State.abandonCorrection_follows (s : State) (tapeEnd : Bool) : s.Follows (s.abandonCorrection tapeEnd) := by
  unfold State.abandonCorrection
  refine .ite (fun _ => .refl s) (fun _ => ?_)
  extract_lets put gone s1 s2 _ s3
  have withdrawn : s.Follows s1 := s.removeOps_follows Op.isTapeStrike
  have returned : s1.Follows s2 := .foldl (fun t id => t.setEntryState_follows id .printed) gone s1
  have emptied : s2.Follows s3 := {}
  have all := (withdrawn.trans returned).trans emptied
  exact .ite (fun _ => all.trans (s3.post_follows .tape)) (fun _ => all)

theorem State.setPp_follows (s : State) (p : Nat) : s.Follows (s.setPp p) := {}

/-! ## Completions and drops (R55, R61, R66) -/

theorem State.strikeDone_follows (s : State) (o : Op) : s.Follows (s.strikeDone o) := by
  unfold State.strikeDone
  split
  · exact .refl s
  · split
    · exact .refl s
    · split
      · exact .ite (fun _ => {}) (fun _ => .refl s)
      · refine .ite (fun _ => ?_) (fun _ => .refl s)
        exact .ite (fun _ => (s.removeEntry_follows _).trans (State.setPp_follows _ _)) (fun _ => s.removeEntry_follows _)

theorem State.returnDone_follows (s : State) : s.Follows s.returnDone := by
  unfold State.returnDone
  split
  · exact .ite (fun _ => s.discardPrint_follows) (fun _ => .refl s)
  · exact .refl s

theorem State.closingFeedDone_follows (s : State) : s.Follows s.closingFeedDone := by
  unfold State.closingFeedDone
  exact .ite (fun _ => {}) (fun _ => .refl s)

theorem State.completeOp_follows (s : State) : s.Follows s.completeOp := by
  unfold State.completeOp
  split
  · exact .refl s
  · next o _ =>
    extract_lets s1 _ s2 s3
    have left : s.Follows s1 := s.setQueue_follows _ none
    have ended : s1.Follows s2 := {}
    have reported : s2.Follows s3 := by
      unfold s3
      split
      · exact s2.strikeDone_follows _
      · exact s2.returnDone_follows
      · split
        · exact s2.closingFeedDone_follows
        · exact .refl s2
    have all := (left.trans ended).trans reported
    exact .ite (fun _ => all) (fun _ => all.trans (s3.setEngine_follows _))

theorem State.dropOp_follows (s : State) (o : Op) (tapeEnd : Bool) : s.Follows (s.dropOp o tapeEnd) := by
  unfold State.dropOp
  extract_lets s1 _ s2 found s3 s4 s5
  have left : s.Follows s1 := s.setQueue_follows _ none
  have ended : s1.Follows s2 := {}
  have entry : s2.Follows s3 := by
    unfold s3
    clear_value found
    split
    · exact .refl s2
    · exact .ite (fun _ => s2.removeEntry_follows _)
        (fun _ => .ite (fun _ => s2.setEntryState_follows _ _) (fun _ => .refl s2))
  have posted : s3.Follows s4 := .ite (fun _ => .refl s3) (fun _ => s3.post_follows .char)
  have abandoned : s4.Follows s5 := by
    unfold s5
    split
    · exact s4.abandonCorrection_follows tapeEnd
    · exact .refl s4
  exact ((((left.trans ended).trans entry).trans posted).trans abandoned).trans (s5.setEngine_follows _)

/-! ## LOCKED and faults (R72, R75) -/

theorem State.endFeedingLocked_follows (s : State) : s.Follows s.endFeedingLocked := by
  unfold State.endFeedingLocked
  split
  · extract_lets s1 _ s2
    have removed : s.Follows s1 := by
      refine .foldl (fun t id => ?_) _ s
      split
      · exact t.removeEntry_follows _
      · exact .refl t
    have ended : s1.Follows s2 := {}
    split
    · exact (removed.trans ended).trans (s2.refuse_follows _)
    · exact removed.trans ended
  · exact .refl s

theorem State.enterLocked_follows (s : State) (code : FaultCode) : s.Follows (s.enterLocked code) := by
  unfold State.enterLocked
  extract_lets ops s1 _ s2 s3
  have idle : s.Follows { s with corr := .idle } := {}
  have emptied : s.Follows s1 := idle.trans (State.setQueue_follows _ _ none)
  have ended : s1.Follows s2 := {}
  have entries : s2.Follows s3 :=
    ((State.Follows.foldl State.lockEntry_follows ops s2).trans (State.discardPrint_follows _)).trans
      (State.endFeedingLocked_follows _)
  have shown : s3.Follows (((s3.post code.message).post .locked).sound .alarm) :=
    ((s3.post_follows _).trans (State.post_follows _ _)).trans (State.sound_follows _ _)
  exact (((emptied.trans ended).trans entries).trans shown).trans (State.setEngine_follows _ _)

@[simp] theorem Engine.putBackHead_holds (e : Engine) : e.putBackHead.holds = e.holds := by
  unfold Engine.putBackHead; split <;> rfl

/-- The supply figures and the holds decide the bounds of the supply. -/
theorem State.supplyOk_congr {s t : State} (hs : t.supply = s.supply) (hh : t.engine.holds = s.engine.holds)
    (ok : s.SupplyOk) : t.SupplyOk := by
  rw [State.SupplyOk, hs, hh]
  exact ok

theorem State.raiseFault_follows (s : State) (code : FaultCode) : s.Follows (s.raiseFault code) := by
  unfold State.raiseFault
  extract_lets e _ d s1 s2
  have stopped : s.Follows s1 :=
    { supplyOk := State.supplyOk_congr rfl s.engine.putBackHead_holds }
  have posted : s1.Follows s2 :=
    ((s1.setFault_follows code).trans (State.post_follows _ _)).trans (State.sound_follows _ _)
  have all := stopped.trans posted
  split
  · exact .ite (fun _ => all.trans (s2.enterLocked_follows code)) (fun _ => all.trans (s2.setEngine_follows _))
  · exact all.trans (s2.setEngine_follows _)

end Sys2Proof.Machine
end

section
/-! SUPPORT. The parts of a follow-up, function by function, to the whole of it: the steps of the ops, homing, the idle engine, the
correction unit's disposals, the end of a wait and the beginning of a composition (R55, R62 to R71, R97, R147). -/

-- One proof after another: the whole text compiles in one process, whose threads are few.
set_option Elab.async false

namespace Sys2Proof.Machine

/-! ## Requests to the channels and the steps of the ops (R60 to R65) -/

theorem State.requestCarriage_follows (s : State) (target level : Nat) : s.Follows (s.requestCarriage target level) := by
  unfold State.requestCarriage
  split
  · exact .refl s
  · exact {}

theorem State.requestWheel_follows (s : State) (path : Bool × Nat) (level : Nat) :
    s.Follows (s.requestWheel path level) := {}

theorem State.requestFeed_follows (s : State) (n : Int) : s.Follows (s.requestFeed n) := {}

theorem State.setStage_follows (s : State) (st : Stage) : s.Follows (s.setStage st) := {}

theorem State.setPaperRise_follows (s : State) (r : Int) : s.Follows (s.setPaperRise r) := {}

theorem State.fire_follows (s : State) (p : Progress) : s.Follows (s.fire p) := by
  unfold State.fire
  refine .ite (fun _ => ?_) (fun _ => s.raiseFault_follows .carriageStall)
  have begun : s.Follows { s with
      drive := { s.drive with hammer := .pulse p.width },
      engine := { s.engine with lastPulse := some s.clock, progress := some { p with stage := .pulse } } } := {}
  exact begun.trans (State.addHeat_follows _ _)

theorem State.strikeInterval_follows (s : State) (p : Progress) : s.Follows (s.strikeInterval p) :=
  .ite (fun _ => s.setStage_follows .interval) (fun _ => s.fire_follows p)

theorem State.strikeLift_follows (s : State) (o : Op) (p : Progress) : s.Follows (s.strikeLift o p) := by
  unfold State.strikeLift
  extract_lets s1
  have drawn : s.Follows s1 := {}
  exact .ite (fun _ => drawn.trans (s1.strikeInterval_follows p)) (fun _ => drawn)

theorem State.strikeRise_follows (s : State) (o : Op) (p : Progress) : s.Follows (s.strikeRise o p) :=
  .ite (fun _ => s.strikeLift_follows o p) (fun _ => {})

theorem State.strikeMoves_follows (s : State) (o : Op) (p : Progress) : s.Follows (s.strikeMoves o p) := by
  unfold State.strikeMoves
  extract_lets carriage path wheel s1 s2
  refine .ite (fun _ => .ite (fun _ => s.strikeRise_follows o p) (fun _ => ?_)) (fun _ => .ite (fun _ => ?_)
    (fun _ => .ite (fun _ => {}) (fun _ => s.strikeRise_follows o p)))
  · have moved : s.Follows s1 := .ite (fun _ => s.requestCarriage_follows _ _) (fun _ => .refl s)
    have turned : s1.Follows s2 := .ite (fun _ => s1.requestWheel_follows _ _) (fun _ => .refl s1)
    exact (moved.trans turned).trans (s2.setStage_follows _)
  · exact (s.requestCarriage_follows _ _).trans (State.setStage_follows _ _)

theorem State.strikeAdvance_follows (s : State) (o : Op) : s.Follows (s.strikeAdvance o) := {}

theorem State.returnFeed_follows (s : State) (o : Op) : s.Follows (s.returnFeed o) :=
  .ite (fun _ => (s.setPaperRise_follows 0).trans (State.completeOp_follows _)) (fun _ => {})

theorem State.startReturn_follows (s : State) (o : Op) (p : Progress) : s.Follows (s.startReturn o p) := by
  unfold State.startReturn
  extract_lets carriage s1
  refine .ite (fun _ => ?_) (fun _ => s.returnFeed_follows o)
  have moved : s.Follows s1 := s.requestCarriage_follows _ _
  exact .ite (fun _ => .ite (fun _ => moved.trans {}) (fun _ => moved.trans {})) (fun _ => moved.trans {})

theorem State.startFeed_follows (s : State) (o : Op) : s.Follows (s.startFeed o) :=
  .ite (fun _ => s.completeOp_follows) (fun _ => {})

theorem State.feedRise_follows (s : State) (n : Int) : s.Follows (s.feedRise n) :=
  .ite (fun _ => s.setPaperRise_follows _) (fun _ => .refl s)

theorem State.startStrike_follows (s : State) (o : Op) (p : Progress) : s.Follows (s.startStrike o p) := by
  unfold State.startStrike
  split
  · exact s.dropOp_follows o false
  · next petal _ =>
    refine .ite (fun _ => s.dropOp_follows o true) (fun _ => ?_)
    extract_lets p'
    have fixed : s.Follows { s with engine := { s.engine with progress := some p' } } := {}
    exact fixed.trans (State.strikeMoves_follows _ o p')

/-! ## Taking ops (R55) -/

theorem State.takeOp_follows (s : State) (o : Op) (slots : List Op) : s.Follows (s.takeOp o slots) := by
  unfold State.takeOp
  extract_lets p s1 _ s2
  have headed : s.Follows s1 := s.setQueue_follows slots (some o)
  have paced : s1.Follows { s1 with engine := { s1.engine with progress := some p } } := {}
  have running : s.Follows s2 := (headed.trans paced).trans (State.setEngine_follows _ .running)
  split
  · exact running.trans (s2.startStrike_follows o p)
  · exact running.trans (s2.startFeed_follows o)
  · exact running.trans (s2.startReturn_follows o p)

theorem State.takeOps_follows : ∀ (n : Nat) (s : State), s.Follows (s.takeOps n)
  | 0, s => .refl s
  | n + 1, s => by
    unfold State.takeOps
    refine .ite (fun _ => ?_) (fun _ => .refl s)
    split
    · exact (s.takeOp_follows _ _).trans (State.takeOps_follows n _)
    · exact .refl s

/-! ## Homing and the idle engine (R67, R68, R71) -/

theorem State.startHoming_follows (s : State) (k : HomingKind) : s.Follows (s.startHoming k) := by
  have due : s.Follows { s with
      drive := s.drive.releaseLifts,
      engine :=
        { s.engine with
          homing := some { kind := k, phase := if k = .wheelOnly then .wheelDue else .carriageDue } } } := {}
  exact due.trans (State.setEngine_follows _ .homing)

theorem State.beginCarriagePhase_follows (s : State) : s.Follows s.beginCarriagePhase :=
  .ite (fun _ => {}) (fun _ => {})

theorem State.beginWheelPhase_follows (s : State) : s.Follows s.beginWheelPhase := {}

theorem State.advanceHoming_follows (s : State) : s.Follows s.advanceHoming := by
  unfold State.advanceHoming
  refine .ite (fun _ => ?_) (fun _ => .refl s)
  split
  · split
    · exact .ite (fun _ => s.beginCarriagePhase_follows) (fun _ => .refl s)
    · exact .ite (fun _ => s.beginWheelPhase_follows) (fun _ => .refl s)
    · exact .refl s
  · exact .refl s

theorem State.idleEngine_follows (s : State) : s.Follows s.idleEngine := by
  unfold State.idleEngine
  refine .ite (fun _ => .ite (fun _ => s.startHoming_follows .wheelOnly) (fun _ => .ite (fun _ => ?_)
    (fun _ => .refl s))) (fun _ => .refl s)
  exact (s.requestCarriage_follows _ _).trans {}

theorem State.engineActs_follows (s : State) : s.Follows s.engineActs := by
  unfold State.engineActs
  extract_lets s1
  have taken : s.Follows s1 := s.advanceHoming_follows.trans (State.takeOps_follows _ _)
  exact (taken.trans s1.idleEngine_follows).trans (State.advanceHoming_follows _)

/-! ## The correction unit (R97, R103 to R105, R109, R110) -/

theorem State.stopCorrection_follows (s : State) : s.Follows s.stopCorrection := by
  have stopped : s.Follows { s with
      corr := { s.corr with items := s.corr.items.filter (fun i => decide (i.status = .inQueue)) } } := {}
  exact stopped.trans (State.sound_follows _ .click)

theorem State.cancelItem_follows (s : State) (owner : Entry) (unbegun : List Nat) :
    s.Follows (s.cancelItem owner unbegun) :=
  (s.removeOps_follows _).trans (State.removeOwner_follows _ owner)

theorem State.awaitItem_follows (s : State) (i : Item) (unbegun : List Entry) : s.Follows (s.awaitItem i unbegun) := by
  unfold State.awaitItem
  extract_lets s1 s2 left
  have removed : s.Follows s2 := (s.removeOps_follows _).trans (.foldl State.removeCompanion_follows unbegun s1)
  have status (st : ItemStatus) : s2.Follows { s2 with corr := s2.corr.setStatus i.owner st } := {}
  exact .ite (fun _ => removed.trans (status .awaitStrike))
    (fun _ => .ite (fun _ => removed.trans (status .appending)) (fun _ => removed.trans s2.stopCorrection_follows))

theorem State.disposeItem_follows (s : State) (i : Item) : s.Follows (s.disposeItem i) := by
  unfold State.disposeItem
  extract_lets ms unbegun
  split
  · exact {}
  · exact .ite (fun _ => s.cancelItem_follows _ _) (fun _ => s.awaitItem_follows _ _)

theorem State.disposeItems_follows : ∀ (n : Nat) (s : State), s.Follows (s.disposeItems n)
  | 0, s => .refl s
  | n + 1, s => by
    unfold State.disposeItems
    split
    · exact .refl s
    · exact .ite (fun _ => .refl s) (fun _ => (s.disposeItem_follows _).trans (State.disposeItems_follows n _))

theorem State.closeUntaped_follows (s : State) : s.Follows s.closeUntaped :=
  .ite (fun _ => {}) (fun _ => .refl s)

theorem State.correctionActs_follows (s : State) : s.Follows s.correctionActs :=
  .ite (fun _ => (State.disposeItems_follows _ s).trans (State.closeUntaped_follows _)) (fun _ => .refl s)

/-! ## The event as a whole (R12, R146, R147) -/

theorem State.markDirty_follows (s old : State) : s.Follows (s.markDirty old) :=
  { glass := { dirty := fun h => .inl (Bool.or_eq_true_iff.mpr (.inl h)) } }

theorem State.marking_follows {s : State} {f : State → State} (h : s.Follows (f s)) : s.Follows (s.marking f) :=
  h.trans ((f s).markDirty_follows s)

theorem State.blocksAct_follows (s : State) : s.Follows s.blocksAct :=
  ((State.marking_follows s.correctionActs_follows).trans (State.marking_follows (State.engineActs_follows _))).trans
    (State.marking_follows (State.correctionActs_follows _))

theorem State.endWait_follows (s : State) : s.Follows s.endWait := by
  unfold State.endWait
  split
  · exact .refl s
  · exact .ite (fun _ => {}) (fun _ => .refl s)

theorem State.beginComposition_follows (s : State) (frameStart : Bool) : s.Follows (s.beginComposition frameStart) :=
  .ite (fun h => { glass := { dirty := fun _ => .inr ⟨h.2.1, _, rfl⟩, composer := .inr ⟨h.2.1, _, rfl⟩ } }) (fun _ => .refl s)

/-- Whatever follows a command's own effect in its event. -/
theorem State.finishIn_follows (s old : State) (frameStart : Bool) : s.Follows (s.finishIn old frameStart) :=
  (((s.markDirty_follows old).trans (State.blocksAct_follows _)).trans (State.marking_follows (State.endWait_follows _))).trans
    (State.beginComposition_follows _ frameStart)

theorem State.finish_follows (s old : State) : s.Follows (s.finish old) := s.finishIn_follows old false

end Sys2Proof.Machine

open Sys2Proof Sys2Proof.Machine

/-- Settles O5: it is part of what every part of a follow-up leaves as it was. -/
theorem followUpKeeps : Obligations.FollowUpKeeps := by
  intro s old frame
  obtain ⟨pending, pins, intake, retained, figures, -, settings, userList, roster, -⟩ := s.finishIn_follows old frame
  exact ⟨settings, intake, userList, roster, retained, pins, by rw [figures], by rw [figures], pending⟩
end

section
/-! SUPPORT. What any operation of a block leaves and keeps: the queue of commands, the settings record and the saved line stand, and
the bounds of the supply figures and of the message list hold on (R152, R194, R201). The spelling unit, the intake unit and the text
unit, function by function. -/

-- One proof after another: the whole text compiles in one process, whose threads are few.
set_option Elab.async false

namespace Sys2Proof.Machine

/-! ## The relation -/

/-- The queue of commands, the settings record and the saved line stand; the bounds of the supply and of the glass hold on. -/
structure State.Keeps (s t : State) : Prop where
  pending : t.pending = s.pending := by rfl
  settingsRecord : t.retained.settings = s.retained.settings := by rfl
  savedLine : t.retained.savedLine = s.retained.savedLine := by rfl
  supply : s.SupplyOk → t.SupplyOk := by exact fun h => h
  glass : s.display.Ok → t.display.Ok := by exact fun h => h

@[refl] theorem State.Keeps.refl (s : State) : s.Keeps s := {}

theorem State.Keeps.trans {a b c : State} (h : a.Keeps b) (k : b.Keeps c) : a.Keeps c where
  pending := k.pending.trans h.pending
  settingsRecord := k.settingsRecord.trans h.settingsRecord
  savedLine := k.savedLine.trans h.savedLine
  supply := fun p => k.supply (h.supply p)
  glass := fun p => k.glass (h.glass p)

theorem State.Keeps.foldl {α : Type} {f : State → α → State} (hf : ∀ (s : State) (a : α), s.Keeps (f s a)) :
    ∀ (l : List α) (s : State), s.Keeps (l.foldl f s)
  | [], s => .refl s
  | a :: l, s => (hf s a).trans (State.Keeps.foldl hf l _)

theorem State.Keeps.ite {c : Prop} [Decidable c] {s t u : State} (h : c → s.Keeps t) (k : ¬c → s.Keeps u) :
    s.Keeps (if c then t else u) := by
  split
  · next hc => exact h hc
  · next hc => exact k hc

/-- Each part of a follow-up is such an operation. -/
theorem State.Follows.keeps {s t : State} (h : s.Follows t) : s.Keeps t where
  pending := h.pending
  settingsRecord := by rw [h.retained]
  savedLine := by rw [h.retained]
  supply := h.supplyOk
  glass := h.display

/-! ## The spelling unit (Chapter 6) -/

theorem State.applyVerdict_keeps (s : State) (r : WordRecord) (v : WordState) : s.Keeps (s.applyVerdict r v) := {}

theorem State.ask_keeps (s : State) (r : WordRecord) : s.Keeps (s.ask r) := {}

theorem State.askOrWait_keeps (s : State) (r : WordRecord) : s.Keeps (s.askOrWait r) :=
  .ite (fun _ => s.ask_keeps r) (fun _ => .ite (fun _ => {}) (fun _ => s.applyVerdict_keeps r _))

theorem State.serveWait_keeps (s : State) : s.Keeps s.serveWait := by
  unfold State.serveWait
  split
  · exact .refl s
  · split
    · exact .refl s
    · exact .ite (fun _ => {}) (fun _ => .refl s)

theorem State.giveUpWaiting_keeps (s : State) (id : Nat) : s.Keeps (s.giveUpWaiting id) := by
  unfold State.giveUpWaiting
  split <;> exact {}

theorem State.silenceCartridge_keeps (s : State) : s.Keeps s.silenceCartridge := by
  unfold State.silenceCartridge
  refine .ite (fun _ => .refl s) (fun _ => ?_)
  have marked : s.Keeps { s with line := s.line.setStatus .cartridge .silent } := {}
  exact marked.trans (.foldl State.giveUpWaiting_keeps _ _)

theorem State.countTimeout_keeps (s : State) : s.Keeps s.countTimeout := by
  unfold State.countTimeout
  refine .ite (fun _ => ?_) (fun _ => {})
  have zero : s.Keeps { s with spell := { s.spell with timeoutRun := 0 } } := {}
  exact zero.trans (State.silenceCartridge_keeps _)

theorem State.settleAsking_keeps (s : State) (q : Query) (v : WordState) : s.Keeps (s.settleAsking q v) := by
  unfold State.settleAsking
  split
  · exact .refl s
  · split
    · exact .refl s
    · exact .ite (fun _ => s.applyVerdict_keeps _ _) (fun _ => .refl s)

theorem State.takeQuery_keeps (s : State) (q : Query) : s.Keeps (s.takeQuery q) := {}

theorem State.queryTimeout_keeps (s : State) (tag : Nat) : s.Keeps (s.queryTimeout tag) := by
  unfold State.queryTimeout
  split
  · exact .refl s
  · exact (((s.takeQuery_keeps _).trans (State.settleAsking_keeps _ _ _)).trans (State.countTimeout_keeps _)).trans
      (State.serveWait_keeps _)

theorem State.waitListTimeout_keeps (s : State) : s.Keeps s.waitListTimeout := by
  unfold State.waitListTimeout
  split
  · exact .refl s
  · exact s.giveUpWaiting_keeps _

theorem State.makeWord_keeps (s : State) (entries letters : List Nat) : s.Keeps (s.makeWord entries letters) := {}

theorem State.recordToken_keeps (s : State) (token : List Entry) : s.Keeps (s.recordToken token) := by
  unfold State.recordToken
  extract_lets ids dropped
  have drop : s.Keeps dropped := {}
  split
  · exact drop.trans {}
  · exact .ite (fun _ => .refl s) (fun _ => drop.trans (dropped.makeWord_keeps _ _))

theorem State.wordEnd_keeps (s : State) (p : Nat) : s.Keeps (s.wordEnd p) :=
  .ite (fun _ => .refl s) (fun _ => .ite (fun _ => .refl s) (fun _ => s.recordToken_keeps _))

theorem State.endWord_keeps (s : State) (p : Nat) (ends : Bool) : s.Keeps (s.endWord p ends) :=
  .ite (fun _ => s.wordEnd_keeps p) (fun _ => .refl s)

theorem State.moveWords_keeps (s : State) (carried : List Nat) : s.Keeps (s.moveWords carried) := by
  unfold State.moveWords
  extract_lets names redo sp s1
  have moved : s.Keeps s1 := {}
  exact moved.trans (.foldl (fun t r => t.makeWord_keeps r.entries r.letters) redo s1)

theorem State.cartridgeRule_keeps (s : State) (r : WordRecord) : s.Keeps (s.cartridgeRule r) :=
  .ite (fun _ => s.applyVerdict_keeps r _) (fun _ => .ite (fun _ => s.applyVerdict_keeps r _)
    (fun _ => .ite (fun _ => s.applyVerdict_keeps r _) (fun _ => s.askOrWait_keeps r)))

theorem State.lookupResult_keeps (s : State) (r : WordRecord) (listed : Bool) : s.Keeps (s.lookupResult r listed) :=
  .ite (fun _ => s.applyVerdict_keeps r _) (fun _ => s.cartridgeRule_keeps r)

theorem State.endLookup_keeps (s : State) : s.Keeps s.endLookup := by
  unfold State.endLookup
  split
  · exact .refl s
  · extract_lets _ s1 s2
    have ended : s.Keeps s1 := {}
    have settled : s1.Keeps s2 := by
      unfold s2
      split
      · exact .refl s1
      · split
        · exact .refl s1
        · exact s1.lookupResult_keeps _ _
    exact (ended.trans settled).trans {}

theorem State.addWord_keeps (s : State) (a : Action) : s.Keeps (s.addWord a) := by
  unfold State.addWord
  split
  · exact (s.refuse_follows a).keeps
  · exact .ite (fun _ => .refl s)
      (fun _ => .ite (fun _ => ((s.refuse_follows a).trans (State.post_follows _ _)).keeps) (fun _ => {}))

theorem State.deleteWord_keeps (s : State) (a : Action) : s.Keeps (s.deleteWord a) := by
  unfold State.deleteWord
  split
  · exact (s.refuse_follows a).keeps
  · exact .ite (fun _ => {}) (fun _ => .refl s)

/-! ## The intake unit (Chapter 8) -/

theorem State.dropFull_keeps (s : State) (a : Action) : s.Keeps (s.dropFull a) :=
  .ite (fun _ => {}) (fun _ => .refl s)

theorem State.accept_keeps (s : State) (a : Action) : s.Keeps (s.accept a) :=
  .ite (fun _ => {}) (fun _ => {})

theorem State.join_keeps (s : State) (a : Action) : s.Keeps (s.join a) :=
  .ite (fun _ => .refl s) (fun _ => .ite (fun _ => s.dropFull_keeps a) (fun _ => s.accept_keeps a))

theorem State.joinSome_keeps (s : State) (a : Option Action) : s.Keeps (s.joinSome a) := by
  cases a with
  | none => exact .refl s
  | some a => exact s.join_keeps a

theorem State.clearText_keeps (s : State) : s.Keeps s.clearText := by
  unfold State.clearText
  extract_lets s1
  have edited : s.Keeps s1 := {}
  split
  · exact edited
  · exact (edited.trans (s1.removeOwners_follows _).keeps).trans {}

theorem State.clearEngine_follows (s : State) : s.Follows s.clearEngine := by
  unfold State.clearEngine
  split
  · extract_lets s1 s2
    have removed : s.Follows s1 := .ite (fun _ => .refl s) (fun _ => s.unpost_follows _)
    have cleared : s1.Follows s2 := s1.setFault_follows .clear
    have unmarked : s2.Follows { s2 with engine := { s2.engine with rehome := false } } := {}
    exact ((removed.trans cleared).trans unmarked).trans (State.startHoming_follows _ .clear)
  · exact s.sound_follows .click
  · exact .refl s

theorem Display.clearTransients_ok {d : Display} (h : d.Ok) : d.clearTransients.Ok := by
  rw [Display.ok_iff] at *
  obtain ⟨len, frame, order, nodup, faults⟩ := h
  unfold Display.clearTransients
  simp only [Display.setMessages_messages, Display.setMessages_standing, Display.setMessages_frameCount]
  exact ⟨(List.length_filter_le _ _).trans len, frame, order.sublist List.filter_sublist, nodup, faults⟩

theorem State.clearDisplay_follows (s : State) : s.Follows s.clearDisplay :=
  { display := Display.clearTransients_ok, glass := s.display.setMessages_grows _ _ }

theorem State.intakeOpens_keeps (s : State) : s.Keeps s.intakeOpens := by
  unfold State.intakeOpens
  split <;> exact {}

theorem State.intakeFrame_keeps {f : State → State} (hf : ∀ s : State, s.Keeps (f s)) (s : State) (c : StationClass) :
    s.Keeps (s.intakeFrame c f) := by
  have ended : s.Keeps s.frameEnd := {}
  exact .ite (fun _ => .ite (fun _ => ended.trans (hf _)) (fun _ => ended)) (fun _ => .refl s)

theorem State.clear_keeps (s : State) : s.Keeps s.clear :=
  State.intakeFrame_keeps (fun t => (t.clearText_keeps.trans (State.clearEngine_follows _).keeps).trans
    (State.clearDisplay_follows _).keeps) s .keyboard

theorem State.keyFrame_keeps (s : State) (value flags : Byte) : s.Keeps (s.keyFrame value flags) :=
  .ite (fun _ => s.clear_keeps) (fun _ => State.intakeFrame_keeps (fun t => t.joinSome_keeps _) s _)

theorem State.textFrame_keeps (s : State) (codes : List Byte) : s.Keeps (s.textFrame codes) :=
  State.intakeFrame_keeps (fun t => .foldl (fun u (c : Byte) => u.joinSome_keeps (textAction c.toNat)) codes t) s _

theorem State.settingFrame_keeps (s : State) (item : Byte) (value : Byte × Byte) : s.Keeps (s.settingFrame item value) :=
  State.intakeFrame_keeps (fun t => t.joinSome_keeps _) s _

/-! ## The text unit: shared operations -/

theorem State.lockEntry_keeps (s : State) (o : Op) : s.Keeps (s.lockEntry o) := (s.lockEntry_follows o).keeps

theorem State.appendOp_follows (s : State) (o : Op) : s.Follows (s.appendOp o) :=
  .ite (fun _ => s.lockEntry_follows o) (fun _ => s.setQueue_follows _ _)

theorem State.refuse_keeps (s : State) (a : Action) : s.Keeps (s.refuse a) := (s.refuse_follows a).keeps

theorem State.bell_keeps (s : State) (p w : Nat) : s.Keeps (s.bell p w) := .ite (fun _ => {}) (fun _ => .refl s)

theorem State.lineEdit_keeps (s : State) : s.Keeps s.lineEdit := .ite (fun _ => {}) (fun _ => .refl s)

theorem State.placeDirect_keeps (s : State) (a : Action) (ends : Bool) : s.Keeps (s.placeDirect a ends) := by
  unfold State.placeDirect
  extract_lets p es s1
  have added : s.Keeps (s.addEntries p .queued) := {}
  have appended : s.Keeps s1 := added.trans (State.Follows.foldl State.appendOp_follows _ _).keeps
  have moved : s1.Keeps (s1.setPp (p.pos + p.width)) := {}
  exact ((appended.trans moved).trans (State.bell_keeps _ _ _)).trans (State.endWord_keeps _ _ _)

theorem State.charDirect_keeps (s : State) (a : Action) (ends : Bool) : s.Keeps (s.charDirect a ends) :=
  .ite (fun _ => s.refuse_keeps a) (fun _ => s.placeDirect_keeps a ends)

theorem State.placePending_keeps (s : State) (c : Nat) : s.Keeps (s.placePending c) := by
  unfold State.placePending
  extract_lets p
  have placed : s.Keeps ((s.addEntries p .pending).setPp (p.pos + p.width)).edited := {}
  exact placed.trans (State.bell_keeps _ _ _)

theorem State.dispatch_keeps (s : State) (wrapped : Bool) (word : List Entry) : s.Keeps (s.dispatch wrapped word) := by
  unfold State.dispatch
  extract_lets x ids carried rest moved ws line _ s1 s2
  have moved : s.Keeps s1 := {}
  have posted : s1.Keeps s2 := .ite (fun _ => (s1.post_follows .justLimit).keeps) (fun _ => .refl s1)
  exact (moved.trans posted).trans (s2.moveWords_keeps ids)

theorem State.returnDispatch_keeps (s : State) (a : Action) : s.Keeps (s.returnDispatch a) :=
  .ite (fun _ => {}) (fun _ => .ite (fun _ => s.refuse_keeps a) (fun _ => s.dispatch_keeps false []))

theorem State.spaceDispatch_keeps (s : State) (a : Action) (ends : Bool) : s.Keeps (s.spaceDispatch a ends) :=
  .ite (fun _ => {}) (fun _ => .ite (fun _ => s.refuse_keeps a)
    (fun _ => (s.endWord_keeps _ ends).trans (State.dispatch_keeps _ true [])))

theorem State.wrapChar_keeps (s : State) (a : Action) (word : List Entry) : s.Keeps (s.wrapChar a word) :=
  .ite (fun _ => {}) (fun _ => .ite (fun _ => s.refuse_keeps a)
    (fun _ => ((s.endWord_keeps _ _).trans (State.dispatch_keeps _ true word)).trans (State.placePending_keeps _ _)))

theorem State.charWrap_keeps (s : State) (a : Action) : s.Keeps (s.charWrap a) := by
  unfold State.charWrap
  extract_lets x w word ws
  have refused := s.refuse_keeps a
  exact .ite (fun _ => refused) (fun _ => .ite (fun _ => s.wrapChar_keeps a []) (fun _ => .ite (fun _ => refused)
    (fun _ => .ite (fun _ => refused) (fun _ => .ite (fun _ => refused) (fun _ => s.wrapChar_keeps a word)))))

theorem State.charLine_keeps (s : State) (a : Action) (ends : Bool) : s.Keeps (s.charLine a ends) :=
  .ite (fun _ => s.charWrap_keeps a) (fun _ => .ite (fun _ => s.refuse_keeps a)
    (fun _ => (s.placePending_keeps a.code).trans (State.endWord_keeps _ _ _)))

theorem State.charPlain_keeps (s : State) (a : Action) (ends : Bool) : s.Keeps (s.charPlain a ends) := by
  unfold State.charPlain
  split
  · exact s.charDirect_keeps a ends
  · exact s.charLine_keeps a ends

theorem State.spacePlain_keeps (s : State) (a : Action) (ends : Bool) : s.Keeps (s.spacePlain a ends) := by
  unfold State.spacePlain
  extract_lets p
  refine .ite (fun _ => ?_) (fun _ => .ite (fun _ => s.refuse_keeps a) (fun _ => ?_))
  · split
    · exact s.refuse_keeps a
    · exact s.spaceDispatch_keeps a ends
  · have moved : s.Keeps (s.setPp p) := {}
    exact (moved.trans (State.lineEdit_keeps _)).trans (State.endWord_keeps _ _ _)

theorem State.backDirect_keeps (s : State) (a : Action) : s.Keeps (s.backDirect a) :=
  .ite (fun _ => s.refuse_keeps a) (fun _ => {})

theorem State.backLine_keeps (s : State) (a : Action) : s.Keeps (s.backLine a) := by
  unfold State.backLine
  split
  · exact (s.removeOwner_follows _).keeps.trans {}
  · exact .ite (fun _ => s.refuse_keeps a) (fun _ => {})

theorem State.tabPlain_keeps (s : State) (a : Action) (ends : Bool) : s.Keeps (s.tabPlain a ends) := by
  unfold State.tabPlain
  split
  · exact s.refuse_keeps a
  · next p _ =>
    have moved : s.Keeps (s.setPp p) := {}
    exact (moved.trans (State.lineEdit_keeps _)).trans (State.endWord_keeps _ _ _)

theorem State.returnDirect_keeps (s : State) (a : Action) : s.Keeps (s.returnDirect a) := by
  unfold State.returnDirect
  refine .ite (fun _ => s.refuse_keeps a) (fun _ => ?_)
  extract_lets x s1
  have appended : s.Keeps s1 := ((s.appendOp_follows _).trans (State.emptyWork_follows _)).keeps
  exact appended.trans {}

theorem State.verdictsIn_keeps (s : State) (a : Action) : s.Keeps (s.verdictsIn a) := by
  unfold State.verdictsIn
  refine .ite (fun _ => ?_) (fun _ => s.returnDispatch_keeps a)
  have armed : s.Keeps { s with text := { s.text with armed := true } } := {}
  exact (armed.trans (State.post_follows _ _).keeps).trans (State.refuse_keeps _ a)

theorem State.returnLine_keeps (s : State) (a : Action) : s.Keeps (s.returnLine a) := by
  unfold State.returnLine
  extract_lets s1 stops
  have ended : s.Keeps s1 := s.wordEnd_keeps _
  exact .ite (fun _ => ended.trans {}) (fun _ => .ite (fun _ => ended.trans (s1.verdictsIn_keeps a))
    (fun _ => .ite (fun _ => s.refuse_keeps a) (fun _ => ended.trans (s1.returnDispatch_keeps a))))

theorem State.returnPlain_keeps (s : State) (a : Action) : s.Keeps (s.returnPlain a) := by
  unfold State.returnPlain
  split
  · exact s.returnDirect_keeps a
  · exact s.returnLine_keeps a

theorem State.indexPlain_keeps (s : State) (a : Action) (n : Int) : s.Keeps (s.indexPlain a n) :=
  .ite (fun _ => s.refuse_keeps a) (fun _ => .ite (fun _ => {}) (fun _ => .ite (fun _ => {})
    (fun _ => (s.appendOp_follows _).keeps)))

theorem State.halfPlain_keeps (s : State) (a : Action) (d : Int) : s.Keeps (s.halfPlain a d) := by
  unfold State.halfPlain
  extract_lets r
  refine .ite (fun _ => s.refuse_keeps a) (fun _ => ?_)
  split
  · exact {}
  · exact .ite (fun _ => s.refuse_keeps a) (fun _ => (s.appendOp_follows _).keeps.trans {})

/-! ## The text unit: corrections, runs and settings -/

theorem State.startCorrection_keeps (s : State) (es : List Entry) : s.Keeps (s.startCorrection es) :=
  .ite (fun _ => .refl s) (fun _ => {})

theorem State.correctDirect_keeps (s : State) (a : Action) : s.Keeps (s.correctDirect a) := by
  have moved : s.Keeps (s.setPp s.backTarget) := {}
  exact .ite (fun _ => s.refuse_keeps a) (fun _ => moved.trans (State.startCorrection_keeps _ _))

theorem State.wordCorrectDirect_keeps (s : State) (a : Action) : s.Keeps (s.wordCorrectDirect a) := by
  unfold State.wordCorrectDirect
  refine .ite (fun _ => s.refuse_keeps a) (fun _ => ?_)
  split
  · exact s.refuse_keeps a
  · next p _ =>
    have moved : s.Keeps (s.setPp p) := {}
    exact moved.trans (State.startCorrection_keeps _ _)

theorem State.lineCorrectDirect_keeps (s : State) (a : Action) : s.Keeps (s.lineCorrectDirect a) :=
  .ite (fun _ => s.refuse_keeps a) (fun _ => s.startCorrection_keeps _)

theorem State.wordCorrectLine_keeps (s : State) (a : Action) : s.Keeps (s.wordCorrectLine a) := by
  unfold State.wordCorrectLine
  split
  · exact s.refuse_keeps a
  · exact (s.removeOwners_follows _).keeps.trans {}

theorem State.lineCorrectLine_keeps (s : State) (a : Action) : s.Keeps (s.lineCorrectLine a) :=
  .ite (fun _ => s.refuse_keeps a) (fun _ => {})

theorem State.relocatePlain_keeps (s : State) : s.Keeps s.relocatePlain := by
  unfold State.relocatePlain
  split <;> exact {}

theorem State.openRun_keeps (s : State) (a : Action) (k : RunKind) : s.Keeps (s.openRun a k) := by
  unfold State.openRun
  split
  · exact s.refuse_keeps a
  · split
    · split
      · exact s.refuse_keeps a
      · exact {}
    · exact {}

theorem State.runChar_keeps (s : State) (h : HeldRun) (a : Action) : s.Keeps (s.runChar h a) :=
  .ite (fun _ => s.refuse_keeps a) (fun _ => {})

theorem State.runSpace_keeps (s : State) (h : HeldRun) (a : Action) : s.Keeps (s.runSpace h a) :=
  .ite (fun _ => s.refuse_keeps a) (fun _ => {})

theorem State.runDelete_keeps (s : State) (h : HeldRun) (a : Action) : s.Keeps (s.runDelete h a) := by
  unfold State.runDelete
  refine .ite (fun _ => s.refuse_keeps a) (fun _ => ?_)
  split
  · exact (s.removeOwner_follows _).keeps.trans {}
  · exact {}

theorem State.settleRun_keeps (s : State) (h : HeldRun) (a : Action) : s.Keeps (s.settleRun h a) := by
  unfold State.settleRun
  extract_lets x len final shift _ s1 thirds s2 _ s3 s4
  have moved : s.Keeps s1 := {}
  have removed : s1.Keeps s2 := (s1.removeOwners_follows thirds).keeps
  have ended : s2.Keeps s3 := {}
  have clicked : s3.Keeps s4 := .ite (fun _ => .refl s3) (fun _ => s3.refuse_keeps a)
  exact (((moved.trans removed).trans ended).trans clicked).trans
    (.foldl (fun t e => t.bell_keeps e.pos e.width) (s3.runChars h) s4)

theorem State.feedRun_keeps (s : State) (ids : List Nat) (a : Action) (st : ResumeStage) :
    s.Keeps (s.feedRun ids a st) := {}

theorem State.heldRunFeed_keeps (s : State) : s.Keeps s.heldRunFeed := by
  unfold State.heldRunFeed
  refine .ite (fun _ => ?_) (fun _ => .refl s)
  split
  · exact .refl s
  · extract_lets _ s1
    have fed : s.Keeps s1 := {}
    split
    · exact fed
    · exact fed.trans ((s1.appendOp_follows _).trans (State.setEntryState_follows _ _ _)).keeps

theorem State.printLineFeed_follows (s : State) : s.Follows s.printLineFeed := by
  unfold State.printLineFeed
  refine .ite (fun _ => ?_) (fun _ => .refl s)
  split
  · exact .refl s
  · next p _ =>
    split
    · exact (s.appendOp_follows _).trans (State.setEntryState_follows _ _ _)
    · refine .ite (fun _ => .refl s) (fun _ => ?_)
      have marked : s.Follows { s with text := { s.text with print := some { p with returnAppended := true } } } := {}
      exact marked.trans (State.appendOp_follows _ _)

theorem State.setTab_keeps (s : State) (a : Action) (p : Nat) : s.Keeps (s.setTab a p) :=
  .ite (fun _ => .refl s) (fun _ => .ite (fun _ => s.refuse_keeps a) (fun _ => {}))

theorem State.tabSet_keeps (s : State) (a : Action) : s.Keeps (s.tabSet a) := by
  unfold State.tabSet
  split
  · exact s.setTab_keeps a _
  · exact .ite (fun _ => s.refuse_keeps a) (fun _ => s.setTab_keeps a _)

theorem State.lmSet_keeps (s : State) (a : Action) : s.Keeps (s.lmSet a) := by
  unfold State.lmSet
  split
  · exact .ite (fun _ => {}) (fun _ => .refl s)
  · exact .ite (fun _ => {}) (fun _ => s.refuse_keeps a)

theorem State.rmSet_keeps (s : State) (a : Action) : s.Keeps (s.rmSet a) := by
  unfold State.rmSet
  split
  · exact .ite (fun _ => {}) (fun _ => .refl s)
  · exact .ite (fun _ => {}) (fun _ => s.refuse_keeps a)

theorem State.setPitch_keeps (s : State) (a : Action) : s.Keeps (s.setPitch a) := by
  unfold State.setPitch
  extract_lets prop
  split
  · exact {}
  · split <;> exact {}

theorem State.setSpacing_keeps (s : State) (a : Action) : s.Keeps (s.setSpacing a) := by
  unfold State.setSpacing
  split <;> exact {}

theorem State.setImpression_keeps (s : State) (a : Action) : s.Keeps (s.setImpression a) := by
  unfold State.setImpression
  split
  · exact {}
  · split <;> exact {}

theorem State.setJustify_keeps (s : State) (a : Action) : s.Keeps (s.setJustify a) := by
  unfold State.setJustify
  split <;> exact {}

theorem State.setSpell_keeps (s : State) (a : Action) : s.Keeps (s.setSpell a) := by
  unfold State.setSpell
  split
  · exact {}
  · split <;> exact {}

theorem State.changeMode_keeps (s : State) (a : Action) : s.Keeps (s.changeMode a) :=
  .ite (fun _ => s.refuse_keeps a) (fun _ => .ite (fun _ => {}) (fun _ => {}))

theorem State.setMode_keeps (s : State) (a : Action) : s.Keeps (s.setMode a) := by
  unfold State.setMode
  split
  · exact s.changeMode_keeps a
  · exact .ite (fun _ => s.changeMode_keeps a) (fun _ => .refl s)

/-! ## Taking and continuing (R11, R12) -/

theorem State.performPlain_keeps (s : State) (a : Action) (ends : Bool) : s.Keeps (s.performPlain a ends) := by
  unfold State.performPlain
  cases a.kind with
  | char => exact s.charPlain_keeps a ends
  | space => exact s.spacePlain_keeps a ends
  | backspace => simp only; split; exacts [s.backDirect_keeps a, s.backLine_keeps a]
  | carriageReturn => exact s.returnPlain_keeps a
  | tab => exact s.tabPlain_keeps a ends
  | index => exact s.indexPlain_keeps a _
  | reverseIndex => exact s.indexPlain_keeps a _
  | halfUp => exact s.halfPlain_keeps a _
  | halfDown => exact s.halfPlain_keeps a _
  | correct => simp only; split; exacts [s.correctDirect_keeps a, s.backLine_keeps a]
  | wordCorrect => simp only; split; exacts [s.wordCorrectDirect_keeps a, s.wordCorrectLine_keeps a]
  | lineCorrect => simp only; split; exacts [s.lineCorrectDirect_keeps a, s.lineCorrectLine_keeps a]
  | relocate => exact s.relocatePlain_keeps
  | tabSet => exact s.tabSet_keeps a
  | lmSet => exact s.lmSet_keeps a
  | rmSet => exact s.rmSet_keeps a
  | pitch => exact s.setPitch_keeps a
  | spacing => exact s.setSpacing_keeps a
  | impression => exact s.setImpression_keeps a
  | mode => exact s.setMode_keeps a
  | center => exact s.openRun_keeps a _
  | flushRight => exact s.openRun_keeps a _
  | decimalTab => exact s.openRun_keeps a _
  | justify => exact s.setJustify_keeps a
  | spell => exact s.setSpell_keeps a
  | addWord => exact s.addWord_keeps a
  | deleteWord => exact s.deleteWord_keeps a
  | tabClear | tabClearAll | marginRelease | underline | bold => exact {}

theorem State.afterRun_keeps (s : State) (a : Action) : s.Keeps (s.afterRun a) :=
  .ite (fun _ => {}) (fun _ => s.performPlain_keeps a false)

theorem State.endRun_keeps (s : State) (h : HeldRun) (a : Action) : s.Keeps (s.endRun h a) := by
  unfold State.endRun
  refine .ite (fun _ => s.refuse_keeps a) (fun _ => ?_)
  extract_lets s1 ids
  have settled : s.Keeps s1 := s.settleRun_keeps h a
  exact .ite (fun _ => .ite (fun _ => settled) (fun _ => settled.trans {}))
    (fun _ => .ite (fun _ => settled.trans (s1.afterRun_keeps a)) (fun _ => settled.trans {}))

theorem State.performDecimal_keeps (s : State) (h : HeldRun) (a : Action) : s.Keeps (s.performDecimal h a) := by
  unfold State.performDecimal
  split
  · exact .ite (fun _ => s.endRun_keeps h a) (fun _ => s.runChar_keeps h a)
  · exact s.runDelete_keeps h a
  · exact s.runDelete_keeps h a
  · exact s.endRun_keeps h a

theorem State.performCentred_keeps (s : State) (h : HeldRun) (a : Action) : s.Keeps (s.performCentred h a) := by
  unfold State.performCentred
  split
  · exact s.runChar_keeps h a
  · exact s.runSpace_keeps h a
  · exact s.runDelete_keeps h a
  · exact s.runDelete_keeps h a
  · exact {}
  · exact {}
  · exact s.setImpression_keeps a
  · exact s.endRun_keeps h a
  · exact .ite (fun _ => s.endRun_keeps h a) (fun _ => s.refuse_keeps a)

theorem State.perform_keeps (s : State) (a : Action) : s.Keeps (s.perform a) := by
  unfold State.perform
  split
  · exact s.performPlain_keeps a true
  · split
    · exact s.performDecimal_keeps _ a
    · exact s.performCentred_keeps _ a

theorem State.taken_keeps (s : State) (rest : List Action) : s.Keeps (s.taken rest) :=
  .ite (fun _ => {}) (fun _ => {})

theorem State.takeAction_keeps (s : State) (k : ActionKind) : s.Keeps (s.takeAction k) := by
  unfold State.takeAction
  split
  · exact .refl s
  · exact .ite (fun _ => .ite (fun _ => {}) (fun _ => (s.taken_keeps _).trans (State.perform_keeps _ _)))
      (fun _ => .refl s)

theorem State.continueAt_keeps (s : State) (r : Resume) : s.Keeps (s.continueAt r) := by
  unfold State.continueAt
  split
  · exact s.performPlain_keeps _ true
  · exact s.charWrap_keeps _
  · exact s.afterRun_keeps _
  · exact .refl s
  · split
    · exact s.spaceDispatch_keeps _ true
    · exact s.returnDispatch_keeps _
  · exact s.verdictsIn_keeps _

theorem State.actionResume_keeps (s : State) : s.Keeps s.actionResume := by
  unfold State.actionResume
  split
  · next r _ _ =>
    refine .ite (fun _ => .refl s) (fun _ => ?_)
    have taken : s.Keeps { s with text := { s.text with resume := none } } := {}
    exact taken.trans (State.continueAt_keeps _ r)
  · exact .refl s

/-! ## The correction unit's own events (R106, R109) -/

theorem State.tapeAppend_follows (s : State) : s.Follows s.tapeAppend := by
  unfold State.tapeAppend
  refine .ite (fun _ => ?_) (fun _ => .refl s)
  split
  · refine .ite (fun _ => ?_) (fun _ => .refl s)
    split
    · exact ((s.appendOp_follows _).trans (State.setEntryState_follows _ _ _)).trans {}
    · exact .refl s
  · exact .refl s

theorem State.correctionClosing_follows (s : State) : s.Follows s.correctionClosing := by
  unfold State.correctionClosing
  refine .ite (fun _ => ?_) (fun _ => .refl s)
  extract_lets d s1
  refine .ite (fun _ => {}) (fun _ => ?_)
  have appended : s.Follows s1 := .foldl State.appendOp_follows _ s
  exact appended.trans {}

end Sys2Proof.Machine
end

section
/-! SUPPORT. The reports of the drive channels and the sensors, the module line and the supply, function by function (Chapters 4, 9 and
10), and with them every command: what it leaves and the bounds that it keeps. -/

-- One proof after another: the whole text compiles in one process, whose threads are few.
set_option Elab.async false

namespace Sys2Proof.Machine

/-! ## The drive channels (Chapter 4) -/

theorem State.atRest_follows (s : State) : s.Follows s.atRest := by
  unfold State.atRest
  extract_lets _ s1
  have stopped : s.Follows s1 := {}
  split
  · exact .ite (fun _ => {}) (fun _ => stopped)
  · split
    · split
      · exact stopped.trans {}
      · exact stopped.trans (s1.strikeRise_follows _ _)
      · extract_lets path
        exact .ite (fun _ => stopped.trans {}) (fun _ => stopped.trans (s1.strikeRise_follows _ _))
      · exact stopped.trans {}
      · exact stopped.trans s1.completeOp_follows
      · exact stopped.trans (s1.returnFeed_follows _)
      · exact stopped
    · exact stopped.trans {}

theorem State.carriageBrakeEnd_follows (s : State) : s.Follows s.carriageBrakeEnd := by
  unfold State.carriageBrakeEnd
  extract_lets r s1
  have released : s.Follows s1 := {}
  split
  · exact released.trans {}
  · exact released.trans s1.atRest_follows
  · exact released.trans (s1.raiseFault_follows _)
  · exact released.trans (s1.raiseFault_follows _)
  · exact released
  · exact released

theorem State.encoderEdge_keeps (s : State) (rightward : Bool) (interval : Nat) :
    s.Keeps (s.encoderEdge rightward interval) := {}

theorem State.carriageStall_follows (s : State) : s.Follows s.carriageStall := .ite (fun _ => {}) (fun _ => .refl s)

theorem State.wheelEnded_follows (s : State) : s.Follows s.wheelEnded := by
  unfold State.wheelEnded
  extract_lets _ s1
  have stopped : s.Follows s1 := {}
  split
  · extract_lets s2
    have placed : s1.Follows s2 := {}
    split
    · exact (stopped.trans placed).trans {}
    · exact (stopped.trans placed).trans (s2.strikeRise_follows _ _)
    · exact stopped.trans placed
  · exact stopped

theorem State.wheelMoveEnded_follows (s : State) : s.Follows s.wheelMoveEnded := by
  unfold State.wheelMoveEnded
  split
  · exact .ite (fun _ => s.wheelEnded_follows) (fun _ => .refl s)
  · exact .refl s

theorem State.wheelHomed_keeps (s : State) (code : Nat) : s.Keeps (s.wheelHomed code) := by
  unfold State.wheelHomed
  extract_lets _ _ s1 s2 s3 _ s4
  have mounted : s.Keeps s1 := {}
  have held : s1.Keeps s2 := (s1.setHold_follows (r := .wheel) _ ⟨nofun, nofun⟩).keeps
  have shown : s2.Keeps s3 := .ite (fun _ => .ite (fun _ => .refl s2) (fun _ => (s2.unpost_follows .wheel).keeps))
    (fun _ => (s2.post_follows .wheel).keeps)
  have ended : s3.Keeps s4 := {}
  exact (((mounted.trans held).trans shown).trans ended).trans (s4.setEngine_follows _).keeps

theorem State.wheelHomeFound_keeps (s : State) : s.Keeps s.wheelHomeFound := by
  unfold State.wheelHomeFound
  split
  · exact .ite (fun _ => s.wheelHomed_keeps _) (fun _ => .refl s)
  · exact .refl s

theorem State.flagNotFound_follows (s : State) : s.Follows s.flagNotFound := by
  unfold State.flagNotFound
  split
  · exact .ite (fun _ => s.raiseFault_follows _) (fun _ => .refl s)
  · exact .refl s

theorem State.feedEnded_follows (s : State) : s.Follows s.feedEnded := by
  unfold State.feedEnded
  extract_lets _ s1
  have stopped : s.Follows s1 := {}
  refine .ite (fun _ => stopped.trans {}) (fun _ => ?_)
  split
  · split
    · exact (stopped.trans (s1.setPaperRise_follows _)).trans (State.strikeLift_follows _ _ _)
    · exact (stopped.trans (s1.feedRise_follows _)).trans (State.completeOp_follows _)
    · exact stopped.trans {}
    · exact (stopped.trans (s1.setPaperRise_follows _)).trans (State.completeOp_follows _)
    · exact stopped
  · exact stopped

theorem State.feedEndReport_follows (s : State) : s.Follows s.feedEndReport := by
  unfold State.feedEndReport
  split
  · exact .ite (fun _ => s.feedEnded_follows) (fun _ => .refl s)
  · exact .refl s

theorem State.advanceEnded_follows (s : State) : s.Follows s.advanceEnded := by
  unfold State.advanceEnded
  split
  · refine .ite (fun _ => ?_) (fun _ => .refl s)
    extract_lets _ s1
    have stopped : s.Follows s1 := {}
    split
    · exact .ite (fun _ => stopped.trans s1.completeOp_follows) (fun _ => stopped)
    · exact stopped
  · exact .refl s

theorem State.stepIntervalEnd_follows (s : State) (p : Pacer) (flag codeBit : Bool) :
    s.Follows (s.stepIntervalEnd p flag codeBit) := by
  cases p <;> exact {}

theorem State.liftDrawn_follows (s : State) (l : Lift) (time : Nat) : s.Follows (s.liftDrawn l time) := by
  unfold State.liftDrawn
  refine .ite (fun _ => ?_) (fun _ => .refl s)
  extract_lets s1
  have drawn : s.Follows s1 := {}
  split
  · exact .ite (fun _ => drawn.trans (s1.strikeInterval_follows _)) (fun _ => drawn)
  · exact drawn

theorem State.strikeIntervalEnd_follows (s : State) : s.Follows s.strikeIntervalEnd := by
  unfold State.strikeIntervalEnd
  split
  · next p _ =>
    have timed : s.Follows (s.atTime (s.engine.intervalEnd p)) := {}
    exact timed.trans (State.fire_follows _ _)
  · exact .refl s

theorem State.beginSave_keeps (s : State) : s.Keeps s.beginSave := .ite (fun _ => {}) (fun _ => .refl s)

theorem State.pulseEnd_keeps (s : State) : s.Keeps s.pulseEnd := by
  unfold State.pulseEnd
  refine .ite (fun _ => .ite (fun _ => ?_) (fun _ => {})) (fun _ => .refl s)
  have ended : s.Follows { s with drive := ({ s.drive with hammer := .idle } : Drive).releaseWaiting } := {}
  exact (ended.trans (State.completeOp_follows _)).keeps.trans (State.beginSave_keeps _)

theorem State.settleEnd_follows (s : State) : s.Follows s.settleEnd := by
  unfold State.settleEnd
  refine .ite (fun _ => ?_) (fun _ => .refl s)
  extract_lets _ s1
  have ended : s.Follows s1 := {}
  split
  · exact ended.trans (s1.strikeAdvance_follows _)
  · exact ended

theorem State.deadlineExpiry_follows (s : State) (t : Deadline) : s.Follows (s.deadlineExpiry t) := by
  unfold State.deadlineExpiry
  split
  · exact s.raiseFault_follows _
  · exact .refl s

/-! ## The sensors (R57, R58, R71) -/

theorem State.suspendHoming_follows (s : State) : s.Follows s.suspendHoming := by
  unfold State.suspendHoming
  split <;> exact {}

theorem State.coverOpens_keeps (s : State) : s.Keeps s.coverOpens := by
  unfold State.coverOpens
  refine .ite (fun _ => .refl s) (fun _ => ?_)
  extract_lets _ s1
  have pinned : s.Keeps s1 := {}
  exact pinned.trans (((s1.setHold_follows (r := .cover) true ⟨nofun, nofun⟩).trans (State.post_follows _ _)).trans
    (State.suspendHoming_follows _)).keeps

/-- The closing of the cover leaves the holds to the hold reason alone. -/
@[simp] theorem Engine.closeCover_holds (e : Engine) : e.closeCover.holds = e.holds := by
  unfold Engine.closeCover
  split
  · split <;> rfl
  · rfl

theorem State.coverCloses_keeps (s : State) : s.Keeps s.coverCloses := by
  unfold State.coverCloses
  refine .ite (fun _ => ?_) (fun _ => .refl s)
  extract_lets _ s1 s2
  have pinned : s.Keeps s1 := {}
  have cleared : s1.Keeps s2 := ((s1.setHold_follows (r := .cover) false ⟨nofun, nofun⟩).trans (State.unpost_follows _ _)).keeps
  exact (pinned.trans cleared).trans { supply := State.supplyOk_congr rfl (Engine.closeCover_holds _) }

theorem State.ribbonReport_keeps (s : State) (spent : Bool) : s.Keeps (s.ribbonReport spent) := by
  unfold State.ribbonReport
  extract_lets _ s1
  have pinned : s.Keeps { s with pins := { s.pins with ribbonSpent := spent } } := {}
  have held : s.Keeps s1 := pinned.trans (State.setHold_follows (r := .ribbon) _ _ ⟨nofun, nofun⟩).keeps
  exact .ite (fun _ => held.trans (s1.post_follows _).keeps) (fun _ => held.trans (s1.unpost_follows _).keeps)

theorem State.tapeReport_keeps (s : State) (spent : Bool) : s.Keeps (s.tapeReport spent) := {}

/-! ## Heat and the glass (R140, R147, R199) -/

theorem State.decay_keeps (s : State) : s.Keeps s.decay := by
  have ok : s.SupplyOk → s.decay.SupplyOk := fun ok => State.setHeat_supplyOk (by have := ok.2.2.2.1; omega) ok
  have glass : s.display.Ok → s.decay.display.Ok := s.setHeat_glass _
  obtain ⟨hot, e, d, l, eq⟩ := s.setHeat_eq (s.supply.heat - ceilDiv s.supply.heat 50)
  have eq : s.decay = _ := eq
  rw [eq] at ok glass ⊢
  exact { supply := ok, glass := glass }

theorem Display.swap_ok {d : Display} (h : d.Ok) : d.swap.Ok := by
  unfold Display.swap
  split <;> exact h

theorem Display.advanceFrame_ok {d : Display} (h : d.Ok) : d.advanceFrame.Ok := by
  obtain ⟨len, -, order⟩ := h
  exact ⟨len, Nat.mod_lt _ (by decide), order⟩

theorem Display.endMessage_ok {d : Display} (m : Message) (h : d.Ok) : (d.endMessage m).Ok := by
  rw [Display.ok_iff] at *
  obtain ⟨len, frame, order, nodup, faults⟩ := h
  unfold Display.endMessage
  extract_lets l
  have sub : l.Sublist d.messages := by
    unfold l
    split
    · exact .refl _
    · exact List.erase_sublist
  exact ⟨sub.length_le.trans len, frame, order.sublist sub, nodup, faults⟩

theorem Display.advanceCycle_ok {d : Display} (h : d.Ok) : d.advanceCycle.Ok := by
  unfold Display.advanceCycle
  extract_lets d'
  have counted : d'.Ok := h
  split
  · split
    · exact Display.endMessage_ok _ counted
    · exact counted
  · split
    · split <;> exact counted
    · exact counted

theorem State.frameStart_keeps (s : State) : s.Keeps s.frameStart :=
  .ite (fun _ => .refl s)
    (fun _ => { glass := fun ok => Display.advanceCycle_ok (Display.advanceFrame_ok (Display.swap_ok ok)) })

theorem Display.compositionEnd_ok {d : Display} (h : d.Ok) : d.compositionEnd.Ok := by
  unfold Display.compositionEnd
  split
  · split <;> exact h
  · exact h

theorem State.compositionEnd_keeps (s : State) : s.Keeps s.compositionEnd := { glass := Display.compositionEnd_ok }

/-! ## The supply (R195 to R198) -/

theorem sourceLimit_range (src : PowerSource) (level : Nat) : 1 ≤ sourceLimit src level ∧ sourceLimit src level ≤ 4 := by
  unfold sourceLimit
  split
  · decide
  · split
    · decide
    · split <;> decide

/-- A new source limit leaves the ceiling between 1 and it (R195). -/
theorem Supply.newCeiling_range {u : Supply} {src : PowerSource} {limit : Nat} (low : 1 ≤ u.ceiling)
    (le : u.ceiling ≤ u.limit) (pos : 1 ≤ limit) :
    1 ≤ (u.newCeiling src limit).1 ∧ (u.newCeiling src limit).1 ≤ limit := by
  unfold Supply.newCeiling
  split
  · exact ⟨pos, Nat.le_refl _⟩
  · split
    · exact ⟨Nat.le_min.mpr ⟨low, pos⟩, Nat.min_le_right _ _⟩
    · exact ⟨low, by simp only; omega⟩

theorem State.setLow_keeps (s : State) (on : Bool) : s.Keeps (s.setLow on) := by
  unfold State.setLow
  refine .ite (fun _ => .refl s) (fun _ => ?_)
  extract_lets _ s1
  have held : s.Keeps s1 := by
    obtain ⟨l, e⟩ := State.setHold_eq { s with supply := { s.supply with low := on } } .low on
    have e : s1 = _ := e
    rw [e]
    exact { supply := fun ⟨pos, le, lim, heat, none2, hot, _⟩ => ⟨pos, le, lim, heat, none2, hot, rfl⟩ }
  exact .ite (fun _ => held.trans (s1.post_follows .low).keeps) (fun _ => held.trans (s1.unpost_follows .low).keeps)

/-- A supply report keeps the ceiling between 1 and the new limit (R195). -/
theorem State.takeReport_keeps (s : State) (src : PowerSource) (level : Nat) (sag : Bool) :
    s.Keeps (s.takeReport src level sag) := by
  unfold State.takeReport
  extract_lets limit nc s1 _ s2 s3
  have reported : s.Keeps s3 := by
    have same : s3.pending = s.pending ∧ s3.retained = s.retained ∧ s3.display.Ok = s.display.Ok := by
      unfold s3
      split <;> exact ⟨rfl, rfl, rfl⟩
    refine { pending := same.1, settingsRecord := by rw [same.2.1], savedLine := by rw [same.2.1],
             supply := ?_, glass := fun ok => same.2.2.mpr ok }
    rintro ⟨pos, le, lim, heat, -, hot, low⟩
    obtain ⟨lpos, l4⟩ := sourceLimit_range src level
    have range : 1 ≤ nc.1 ∧ nc.1 ≤ limit := Supply.newCeiling_range pos le lpos
    obtain ⟨cpos, cle⟩ := range
    unfold s3
    split
    · refine ⟨?_, ?_, l4, heat, nofun, hot, low⟩
      · show 1 ≤ if nc.1 ≤ 1 then nc.1 else nc.1 - 1
        split <;> omega
      · show (if nc.1 ≤ 1 then nc.1 else nc.1 - 1) ≤ limit
        split <;> omega
    · exact ⟨cpos, cle, l4, heat, nofun, hot, low⟩
  exact reported.trans (s3.setLow_keeps _)

theorem State.loseSupply_keeps (s : State) : s.Keeps s.loseSupply :=
  { supply := fun ⟨_, _, _, heat, _, hot, low⟩ => ⟨Nat.le_succ 1, Nat.le_refl 2, show 2 ≤ 4 by decide, heat, fun _ => rfl, hot, low⟩ }

theorem State.sagExpiry_keeps (s : State) : s.Keeps s.sagExpiry := by
  cases h : s.supply.sagRunning with
  | false =>
    rw [State.sagExpiry_stopped h]
  | true =>
    obtain ⟨l, e⟩ := State.sagExpiry_running h
    rw [e]
    refine { supply := ?_ }
    rintro ⟨pos, le, lim, heat, none2, hot, low⟩
    refine ⟨?_, ?_, lim, heat, none2, hot, low⟩
    · show 1 ≤ if s.supply.ceiling < s.supply.limit then s.supply.ceiling + 1 else s.supply.ceiling
      split <;> omega
    · show (if s.supply.ceiling < s.supply.limit then s.supply.ceiling + 1 else s.supply.ceiling) ≤ s.supply.limit
      split <;> omega

/-! ## Entering DOWN and the list write (R138, R202) -/

theorem State.listWriteEnd_keeps (s : State) : s.Keeps s.listWriteEnd := by
  unfold State.listWriteEnd
  split
  · exact .refl s
  · next bytes _ =>
    extract_lets again
    have written : s.Keeps { s with
        retained := { s.retained with words := bytes },
        spell :=
          { s.spell with
            writing := if again then some (encodeWords s.spell.userList) else none,
            writePending := s.spell.writePending && !again } } := {}
    exact written.trans (State.beginSave_keeps _)

@[simp] theorem Engine.down_holds (e : Engine) : e.down.holds = e.holds := by
  unfold Engine.down
  extract_lets keeps e1
  show e1.holds = e.holds
  unfold e1
  split
  · rfl
  · exact e.putBackHead_holds

theorem State.enterDown_keeps (s : State) (time : Nat) : s.Keeps (s.enterDown time) := by
  unfold State.enterDown
  extract_lets struck _ _ s1 s2
  have entered : s.Keeps s1 :=
    { supply := fun ⟨pos, le, lim, heat, none2, hot, low⟩ =>
        ⟨pos, le, lim, heat, none2, (congrArg Holds.heat s.engine.down_holds) ▸ hot,
          (congrArg Holds.low s.engine.down_holds).trans low⟩ }
  have down : s1.Keeps s2 := .ite (fun _ => .refl s1) (fun _ => (s1.setEngine_follows .down).keeps)
  have completed : s2.Keeps (if struck then s2.completeOp else s2) :=
    .ite (fun _ => s2.completeOp_follows.keeps) (fun _ => .refl s2)
  exact ((entered.trans down).trans completed).trans (State.beginSave_keeps _)

theorem State.takeFailing_keeps (s : State) (time : Nat) : s.Keeps (s.takeFailing time) :=
  .ite (fun _ => {}) (fun _ => s.enterDown_keeps time)

/-! ## The start sequence (R205) -/

/-- The start values lie within the bounds. -/
theorem State.startValues_keeps (s : State) : s.Keeps s.startValues :=
  { supply := fun _ => show State.reset.SupplyOk by decide, glass := fun _ => show State.reset.display.Ok by decide }

theorem State.readPins_keeps (s : State) : s.Keeps s.readPins := by
  unfold State.readPins
  extract_lets _ _ _ s1 s2 s3
  have read : s.Keeps s1 := {}
  have started : s1.Keeps s2 := (s1.post_follows .start).keeps
  have covered : s2.Keeps s3 := .ite (fun _ => (s2.post_follows .cover).keeps) (fun _ => .refl s2)
  have all := (read.trans started).trans covered
  exact .ite (fun _ => all.trans (s3.post_follows .ribbon).keeps) (fun _ => all)

theorem State.checkSettings_keeps (s : State) : s.Keeps s.checkSettings := by
  unfold State.checkSettings
  split <;> exact {}

theorem State.checkWords_keeps (s : State) : s.Keeps s.checkWords := by
  unfold State.checkWords
  split
  · exact {}
  · have cleared : s.Keeps { s with retained := { s.retained with words := encodeWords [] } } := {}
    exact cleared.trans (State.post_follows _ .listLost).keeps

theorem State.checkLine_keeps (s : State) : s.Keeps s.checkLine := by
  unfold State.checkLine
  extract_lets _ cleared
  have clear : s.Keeps cleared := {}
  split
  · extract_lets es
    exact { glass := Display.post_ok .restored }
  · exact clear

theorem State.start_keeps (s : State) : s.Keeps s.start := by
  unfold State.start
  extract_lets s1 s2
  have checked : s.Keeps s1 :=
    (((s.startValues_keeps.trans (State.readPins_keeps _)).trans (State.checkSettings_keeps _)).trans
      (State.checkWords_keeps _)).trans (State.checkLine_keeps _)
  have called (u : State) : u.Keeps { u with line := u.line.rollCall } := {}
  exact (checked.trans (called s1)).trans (s2.startHoming_follows .start).keeps

/-! ## The module line (Chapter 9) -/

theorem State.startCell_follows (s : State) : s.Follows s.startCell := .ite (fun _ => {}) (fun _ => .refl s)

theorem State.huntFrameEnd_follows (s : State) : s.Follows s.huntFrameEnd := .ite (fun _ => {}) (fun _ => .refl s)

theorem State.codingError_follows (s : State) (heard : List Nat) : s.Follows (s.codingError heard) := by
  unfold State.codingError
  refine .ite (fun _ => ?_) (fun _ => .refl s)
  split <;> exact {}

theorem State.lineStuck_follows (s : State) : s.Follows s.lineStuck :=
  { display := Display.post_ok .line, glass := s.display.post_grows .line }

theorem State.lineReleased_follows (s : State) : s.Follows s.lineReleased :=
  .ite (fun _ => { display := Display.unpost_ok .line, glass := s.display.unpost_grows .line }) (fun _ => .refl s)

theorem State.payState_keeps (s : State) : s.Keeps s.payState := .ite (fun _ => {}) (fun _ => .refl s)

theorem State.roomReport_keeps (s : State) (stateFirst : Bool) : s.Keeps (s.roomReport stateFirst) :=
  .ite (fun _ => s.payState_keeps.trans (State.serveWait_keeps _)) (fun _ => s.serveWait_keeps.trans (State.payState_keeps _))

theorem State.freePlace_keeps (s : State) (stamp : Nat) (stateFirst : Bool) : s.Keeps (s.freePlace stamp stateFirst) := by
  unfold State.freePlace
  extract_lets s1
  have removed : s.Keeps s1 := {}
  exact .ite (fun _ => removed.trans (s1.roomReport_keeps stateFirst)) (fun _ => removed)

theorem State.beginTransmission_follows (s : State) (quiet : Nat) : s.Follows (s.beginTransmission quiet) := by
  unfold State.beginTransmission
  refine .ite (fun _ => ?_) (fun _ => .refl s)
  split
  · exact .refl s
  · exact .ite (fun _ => {}) (fun _ => .refl s)

theorem State.frameSent_keeps (s : State) (stateFirst : Bool) : s.Keeps (s.frameSent stateFirst) := by
  unfold State.frameSent
  split
  · exact .refl s
  · extract_lets _ s1 _ s2
    have ended : s.Keeps s1 := {}
    have called : s1.Keeps s2 := .ite (fun _ => {}) (fun _ => .refl s1)
    exact (ended.trans called).trans (s2.freePlace_keeps _ stateFirst)

theorem State.discarded_keeps (s : State) (k : TxKind) : s.Keeps (s.discarded k) := by
  unfold State.discarded
  split
  · exact s.queryTimeout_keeps _
  · exact {}
  · exact .refl s

theorem State.arbitrationLoss_keeps (s : State) (stateFirst : Bool) : s.Keeps (s.arbitrationLoss stateFirst) := by
  unfold State.arbitrationLoss
  split
  · exact .refl s
  · extract_lets f _ s1 _ s2
    have stopped : s.Keeps s1 := {}
    have owed : s1.Keeps s2 := .ite (fun _ => {}) (fun _ => .refl s1)
    exact .ite (fun _ => stopped) (fun _ => .ite (fun _ => stopped.trans (s1.freePlace_keeps _ stateFirst))
      (fun _ => .ite (fun _ => ((stopped.trans owed).trans (s2.freePlace_keeps _ stateFirst)).trans (State.discarded_keeps _ _))
        (fun _ => stopped.trans {})))

theorem State.lineIdClash_follows (s : State) : s.Follows s.lineIdClash :=
  { display := Display.post_ok .lineId, glass := s.display.post_grows .lineId }

theorem State.rosterCloses_keeps (s : State) : s.Keeps s.rosterCloses := by
  unfold State.rosterCloses
  extract_lets _ s1 s2 s3
  have closed : s.Keeps { s with line := { s.line with rosterOpen := false } } := {}
  have opened : s.Keeps s1 := (closed.trans (State.intakeOpens_keeps _)).trans (State.unpost_follows _ .start).keeps
  have posted : s1.Keeps s2 := .ite (fun _ => .refl s1) (fun _ => (s1.post_follows .noKeyboard).keeps)
  have supplied : s2.Keeps s3 := .ite (fun _ => .refl s2) (fun _ => s2.loseSupply_keeps)
  exact ((opened.trans posted).trans supplied).trans s3.askState_follows.keeps

theorem State.windowEnd_keeps (s : State) : s.Keeps s.windowEnd := by
  unfold State.windowEnd
  refine .ite (fun _ => ?_) (fun _ => .refl s)
  extract_lets _ s1
  have ended : s.Keeps s1 := {}
  exact .ite (fun _ => ended) (fun _ => .ite (fun _ => ended.trans s1.rosterCloses_keeps) (fun _ => ended.trans {}))

theorem State.nextRollCall_keeps (s : State) : s.Keeps s.nextRollCall := .ite (fun _ => {}) (fun _ => .refl s)

theorem State.takeHere_keeps (s : State) (n : Nat) (cls variant : Byte) : s.Keeps (s.takeHere n cls variant) := by
  unfold State.takeHere
  refine .ite (fun _ => ?_) (fun _ => .refl s)
  split
  · exact .refl s
  · exact .ite (fun _ => .refl s) (fun _ => {})

theorem State.markPresent_keeps (s : State) (c : StationClass) : s.Keeps (s.markPresent c) := by
  unfold State.markPresent
  split
  · exact .ite (fun _ => {}) (fun _ => .refl s)
  · exact .refl s

theorem State.heardFrom_keeps (s : State) (n : Nat) : s.Keeps (s.heardFrom n) := by
  unfold State.heardFrom
  extract_lets mark
  have marked (acc : State) (c : StationClass) : acc.Keeps (mark acc c) := by
    unfold mark
    split
    · exact .ite (fun _ => acc.markPresent_keeps c) (fun _ => .refl acc)
    · exact .refl acc
  exact (marked s .power).trans (marked _ .cartridge)

theorem State.silenceExpiry_keeps (s : State) : s.Keeps s.silenceExpiry := by
  unfold State.silenceExpiry
  refine .ite (fun _ => ?_) (fun _ => .refl s)
  have silent : s.Keeps { s with line := { s.line.setStatus .power .silent with silenceRunning := false } } := {}
  exact silent.trans (State.loseSupply_keeps _)

theorem State.frameEnd_keeps (s : State) : s.Keeps s.frameEnd := {}

theorem State.frameDropped_keeps (s : State) (bytes : List Byte) : s.Keeps (s.frameDropped bytes) := by
  unfold State.frameDropped
  split
  · exact .refl s
  · exact .refl s
  · exact .ite (fun _ => s.frameEnd_keeps.trans (State.heardFrom_keeps _ _)) (fun _ => s.frameEnd_keeps)

theorem State.atTime_keeps (s : State) (time : Nat) : s.Keeps (s.atTime time) := {}

theorem State.takeSupply_keeps (s : State) (report : Byte) (time : Nat) : s.Keeps (s.takeSupply report time) := by
  unfold State.takeSupply
  refine .ite (fun _ => ?_) (fun _ => .refl s)
  extract_lets s1 _ s2
  have heard : s.Keeps s1 := (s.frameEnd_keeps.trans (State.atTime_keeps _ time)).trans (State.markPresent_keeps _ _)
  have watched : s1.Keeps s2 := {}
  exact .ite (fun _ => .ite (fun _ => heard.trans s1.start_keeps) (fun _ => heard))
    (fun _ => (heard.trans watched).trans (s2.takeReport_keeps _ _ _))

theorem State.powerFailing_keeps (s : State) (time : Nat) : s.Keeps (s.powerFailing time) :=
  .ite (fun _ => ((s.frameEnd_keeps.trans (State.atTime_keeps _ time)).trans (State.markPresent_keeps _ _)).trans
    (State.takeFailing_keeps _ time)) (fun _ => .refl s)

theorem State.answer_keeps (s : State) (tag verdict : Byte) : s.Keeps (s.answer tag verdict) := by
  unfold State.answer
  refine .ite (fun _ => .refl s) (fun _ => ?_)
  extract_lets _ s1
  have zero : s.Keeps s1 := {}
  split
  · exact ((zero.trans (s1.takeQuery_keeps _)).trans (State.settleAsking_keeps _ _ _)).trans (State.serveWait_keeps _)
  · exact zero

theorem State.wordAnswer_keeps (s : State) (tag verdict : Byte) : s.Keeps (s.wordAnswer tag verdict) :=
  .ite (fun _ => (s.frameEnd_keeps.trans (State.markPresent_keeps _ _)).trans (State.answer_keeps _ tag verdict))
    (fun _ => .refl s)

theorem State.hereFrame_keeps (s : State) (n : Nat) (cls variant : Byte) : s.Keeps (s.hereFrame n cls variant) :=
  .ite (fun _ => (s.frameEnd_keeps.trans (State.heardFrom_keeps _ n)).trans (State.takeHere_keeps _ n cls variant))
    (fun _ => .refl s)

/-! ## The event of a command and every command -/

theorem State.event_keeps {f : State → State} (hf : ∀ s : State, s.Keeps (f s)) (s : State) : s.Keeps (s.event f) :=
  .ite (fun _ => (hf s).trans ((f s).finish_follows s).keeps) (fun _ => .refl s)

theorem State.sensed_keeps {f : State → State} (hf : ∀ s : State, s.Keeps (f s)) (s : State) : s.Keeps (s.sensed f) :=
  .ite (fun _ => (hf s).trans ((f s).finish_follows s).keeps) (fun _ => {})

theorem State.powerOn_keeps (s : State) : s.Keeps s.powerOn :=
  .ite (fun _ => s.startValues_keeps.trans {}) (fun _ => s.start_keeps.trans (s.start.finish_follows s).keeps)

theorem State.restartRelease_keeps (s : State) : s.Keeps s.restartRelease :=
  .ite (fun _ => .ite (fun _ => s.start_keeps.trans (s.start.finish_follows s).keeps) (fun _ => {})) (fun _ => .refl s)

/-- The commands that write the settings record or the saved line, or cut their writing short (R201, R203, R204). -/
def writesRecords (c : Instr) : Bool :=
  match c with
  | .saveComplete | .powerLoss _ | .restartAssert _ => true
  | _ => false

/-- Every other command leaves the two records, and all keep the bounds. -/
theorem exec_keeps {c : Instr} {s t : State} (hc : writesRecords c = false) (h : exec c s = .next t) : s.Keeps t := by
  cases c <;> cases h
  case powerOn => exact s.powerOn_keeps
  case restartRelease => exact s.restartRelease_keeps
  case saveComplete => cases hc
  case powerLoss => cases hc
  case restartAssert => cases hc
  case keyFrame value flags => exact State.event_keeps (fun t => t.keyFrame_keeps value flags) s
  case clear => exact State.event_keeps (fun t => t.clear_keeps) s
  case textFrame codes => exact State.event_keeps (fun t => t.textFrame_keeps codes) s
  case settingFrame item value => exact State.event_keeps (fun t => t.settingFrame_keeps item value) s
  case here n cls variant => exact State.event_keeps (fun t => t.hereFrame_keeps n cls variant) s
  case supply report time => exact State.event_keeps (fun t => t.takeSupply_keeps report time) s
  case powerFailing time => exact State.event_keeps (fun t => t.powerFailing_keeps time) s
  case wordAnswer tag verdict => exact State.event_keeps (fun t => t.wordAnswer_keeps tag verdict) s
  case frameSent first => exact State.event_keeps (fun t => t.frameSent_keeps first) s
  case lineIdClash => exact State.event_keeps (fun t => t.lineIdClash_follows.keeps) s
  case frameDropped bytes => exact State.event_keeps (fun t => t.frameDropped_keeps bytes) s
  case codingError heard => exact State.event_keeps (fun t => (t.codingError_follows heard).keeps) s
  case lineStuck => exact State.event_keeps (fun t => t.lineStuck_follows.keeps) s
  case lineReleased => exact State.event_keeps (fun t => t.lineReleased_follows.keeps) s
  case beginTransmission quiet => exact State.event_keeps (fun t => (t.beginTransmission_follows quiet).keeps) s
  case arbitrationLoss first => exact State.event_keeps (fun t => t.arbitrationLoss_keeps first) s
  case collectionWindowEnd => exact State.event_keeps (fun t => t.windowEnd_keeps) s
  case nextRollCall => exact State.event_keeps (fun t => t.nextRollCall_keeps) s
  case powerSilenceExpiry => exact State.event_keeps (fun t => t.silenceExpiry_keeps) s
  case actionResume => exact State.event_keeps (fun t => t.actionResume_keeps) s
  case heldRunFeed => exact State.event_keeps (fun t => t.heldRunFeed_keeps) s
  case printLineFeed => exact State.event_keeps (fun t => t.printLineFeed_follows.keeps) s
  case lookupEnd => exact State.event_keeps (fun t => t.endLookup_keeps) s
  case queryTimeout tag => exact State.event_keeps (fun t => t.queryTimeout_keeps tag) s
  case waitListTimeout => exact State.event_keeps (fun t => t.waitListTimeout_keeps) s
  case listWriteEnd => exact State.event_keeps (fun t => t.listWriteEnd_keeps) s
  case tapeAppend => exact State.event_keeps (fun t => t.tapeAppend_follows.keeps) s
  case correctionClosing => exact State.event_keeps (fun t => t.correctionClosing_follows.keeps) s
  case carriageBrakeEnd => exact State.event_keeps (fun t => t.carriageBrakeEnd_follows.keeps) s
  case encoderEdge r i => exact State.sensed_keeps (fun t => t.encoderEdge_keeps r i) s
  case pwmPeriodStart => exact State.event_keeps (fun _ => {}) s
  case pwmOnPhaseEnd => exact State.event_keeps (fun _ => {}) s
  case carriageStall => exact State.event_keeps (fun t => t.carriageStall_follows.keeps) s
  case homeSensorTrip => exact State.sensed_keeps (fun _ => {}) s
  case wheelMoveEnded => exact State.event_keeps (fun t => t.wheelMoveEnded_follows.keeps) s
  case wheelHomeFound => exact State.event_keeps (fun t => t.wheelHomeFound_keeps) s
  case flagNotFound => exact State.event_keeps (fun t => t.flagNotFound_follows.keeps) s
  case feedEnded => exact State.event_keeps (fun t => t.feedEndReport_follows.keeps) s
  case advanceEnded => exact State.event_keeps (fun t => t.advanceEnded_follows.keeps) s
  case liftDrawn l time => exact State.event_keeps (fun t => (t.liftDrawn_follows l time).keeps) s
  case strikeIntervalEnd => exact State.event_keeps (fun t => t.strikeIntervalEnd_follows.keeps) s
  case pulseEnd => exact State.event_keeps (fun t => t.pulseEnd_keeps) s
  case settleEnd => exact State.event_keeps (fun t => t.settleEnd_follows.keeps) s
  case deadlineExpiry d => exact State.event_keeps (fun t => (t.deadlineExpiry_follows d).keeps) s
  case coverOpen => exact State.sensed_keeps (fun t => t.coverOpens_keeps) s
  case coverClosed => exact State.sensed_keeps (fun t => t.coverCloses_keeps) s
  case ribbonSpent => exact State.sensed_keeps (fun t => t.ribbonReport_keeps true) s
  case ribbonPresent => exact State.sensed_keeps (fun t => t.ribbonReport_keeps false) s
  case tapeEndReport spent => exact State.sensed_keeps (fun t => t.tapeReport_keeps spent) s
  case sagTimerExpiry => exact State.event_keeps (fun t => t.sagExpiry_keeps) s
  case decayTimerExpiry => exact State.event_keeps (fun t => t.decay_keeps) s
  case frameStart =>
    exact .ite (fun _ => s.frameStart_keeps.trans (s.frameStart.finishIn_follows s true).keeps) (fun _ => .refl s)
  case compositionEnd => exact State.event_keeps (fun t => t.compositionEnd_keeps) s
  case startCell => exact State.event_keeps (fun t => t.startCell_follows.keeps) s
  case huntFrameEnd => exact State.event_keeps (fun t => t.huntFrameEnd_follows.keeps) s
  case stepIntervalEnd p flag bit => exact State.event_keeps (fun t => (t.stepIntervalEnd_follows p flag bit).keeps) s
  all_goals exact State.event_keeps (fun t => t.takeAction_keeps _) s

/-- The save changes retained memory; but for that it is such an operation too. -/
theorem State.saveComplete_keeps (s : State) : ∃ r, ({ s with retained := r } : State).Keeps s.saveComplete := by
  unfold State.saveComplete
  split
  · exact ⟨s.savedRetained, {}⟩
  · exact ⟨s.retained, .refl s⟩

/-- Every command keeps the queue of commands and the bounds, also one that writes retained memory. -/
theorem exec_keeps_from {c : Instr} {s t : State} (h : exec c s = .next t) :
    ∃ r, ({ s with retained := r } : State).Keeps t := by
  cases hc : writesRecords c with
  | false => exact ⟨s.retained, exec_keeps hc h⟩
  | true =>
    cases c <;> cases hc
    case restartAssert.refl point =>
      cases h
      exact ⟨_, (State.startValues_keeps { s with retained := s.cutRetained point }).trans {}⟩
    case powerLoss.refl point =>
      cases h
      unfold State.powerLoss
      split
      · exact ⟨_, (State.startValues_keeps { s with retained := s.cutRetained point }).trans {}⟩
      · exact ⟨s.retained, .refl s⟩
    case saveComplete.refl =>
      cases h
      unfold State.event
      split
      · obtain ⟨r, k⟩ := s.saveComplete_keeps
        exact ⟨r, k.trans (s.saveComplete.finish_follows s).keeps⟩
      · exact ⟨s.retained, .refl s⟩

/-- So does every step. -/
theorem step_keeps_from {s t : State} (h : step s = .next t) :
    ∃ q r, ({ s with pending := q, retained := r } : State).Keeps t := by
  unfold step at h
  split at h
  · cases h
    exact ⟨s.pending, s.retained, .refl s⟩
  · next c rest _ =>
    obtain ⟨r, k⟩ := exec_keeps_from h
    exact ⟨rest, r, k⟩

end Sys2Proof.Machine

open Sys2Proof Sys2Proof.Machine

/-- Settles O8: the supply bounds hold on through every operation. -/
theorem stepKeepsSupply : Obligations.StepKeepsSupply := by
  intro s t ok h
  obtain ⟨_, _, k⟩ := step_keeps_from h
  exact k.supply ok

/-- Settles O11: the bounds of the glass hold on through every operation. -/
theorem stepKeepsMessages : Obligations.StepKeepsMessages := by
  intro s t ok h
  obtain ⟨_, _, k⟩ := step_keeps_from h
  exact k.glass ok

/-- Settles O12: no operation of another command writes the settings record or the saved line. -/
theorem onlySaveWrites : Obligations.OnlySaveWrites := by
  intro c s t h
  split
  · trivial
  · trivial
  · trivial
  · next save loss assert =>
    have hc : writesRecords c = false := by
      unfold writesRecords
      split
      · exact absurd rfl save
      · exact absurd rfl (loss _)
      · exact absurd rfl (assert _)
      · rfl
    have k := exec_keeps hc h
    exact ⟨k.settingsRecord, k.savedLine⟩

/-- Settles O2: no operation of a command changes the queue of the commands that wait. -/
theorem queueUntouched : Obligations.QueueUntouched := by
  intro c s t h
  obtain ⟨_, k⟩ := exec_keeps_from h
  exact k.pending
end

section
/-! SUPPORT. Two statements about every step from every state fail, since they leave out an invariant that each reachable state keeps:
a state that breaks it is written out for each. -/

namespace Sys2Proof.Machine

/-- A held run stands while a CHAR that ended a run is still to continue, which RunOk rules out, and all 64 slots are taken. -/
def runBesideResume : State :=
  { State.reset with
    pending := [.actionResume]
    engine := { State.reset.engine with state := .running, slots := List.replicate 64 (feedOp 1 .text), wheel := some 0 }
    text :=
      { State.reset.text with
        run := some { kind := .center, startPp := 120, origin := 120, members := [] }
        resume := some { action := plainAction .char 97 .keyboard false, stage := .afterRun } } }

theorem runBesideResume_strikesOk : runBesideResume.StrikesOk := by
  refine ⟨by decide, fun r hr stage => ?_⟩
  cases hr
  cases stage

/-- Table 1-4 gives a CHAR in a run no slot, so that the continued CHAR appends a 65th op. -/
theorem step_runBesideResume : ∃ t, step runBesideResume = .next t ∧ t.engine.slots.length = 65 := ⟨_, rfl, by decide⟩

/-- pp lies right of the paper, which PointOk rules out, and RM_SET heads the key queue. -/
def marginBeyondPaper : State :=
  { State.reset with
    pending := [.rmSet]
    engine := { State.reset.engine with startHomed := true }
    intake := { State.reset.intake with queue := [plainAction .rmSet 0 .keyboard false] }
    text := { State.reset.text with pp := 2000 } }

theorem marginBeyondPaper_settingsOk : marginBeyondPaper.SettingsOk := by decide

theorem step_marginBeyondPaper : ∃ t, step marginBeyondPaper = .next t ∧ t.text.settings.rm = 2000 := ⟨_, rfl, by decide⟩

end Sys2Proof.Machine

open Sys2Proof Sys2Proof.Machine

/-- Refutes O9: the statement asks for StrikesOk alone, and a held run that stands beside an action to continue lets that action
append its op to a full strike queue. -/
theorem not_stepKeepsQueues : ¬ Obligations.StepKeepsQueues := by
  intro h
  obtain ⟨t, step, full⟩ := step_runBesideResume
  obtain ⟨-, -, -, -, strikes, -⟩ := h runBesideResume t step
  have le := (strikes runBesideResume_strikesOk nofun).1
  omega

/-- Refutes O10: the statement asks for SettingsOk before the step alone, and RM_SET with a pp beyond 1,600 puts RM there. -/
theorem not_stepKeepsSettings : ¬ Obligations.StepKeepsSettings := by
  intro h
  obtain ⟨t, step, rm⟩ := step_marginBeyondPaper
  obtain ⟨⟨-, le, -⟩, -⟩ := h marginBeyondPaper t marginBeyondPaper_settingsOk step
  omega
end

section
/-! SUPPORT. The statements about the step, the reset state and the frames that hold by the definitions of a few functions. -/

-- One proof after another: the check's process cannot start a thread for each.
set_option Elab.async false

namespace Sys2Proof.Machine

/-! ## Power -/

/-- A controller without power, or held by the restart pin, is not live. -/
theorem State.not_live {s : State} (h : s.powered = false ∨ s.restartHeld = true) : ¬s.live := by
  rintro ⟨powered, free⟩
  rcases h with off | held
  · exact absurd (powered.symm.trans off) (by decide)
  · exact absurd (held.symm.trans free) (by decide)

/-- Nothing happens in an event of a controller that is not live. -/
theorem State.event_of_not_live {s : State} (f : State → State) (h : ¬s.live) : s.event f = s := if_neg h

/-! ## The codes of actions -/

theorem functionKind_eq (n : Nat) (h : n < 32) (pos : 1 ≤ n) :
    functionKind n = ([.space, .backspace, .carriageReturn, .tab, .index, .reverseIndex, .halfUp, .halfDown, .correct,
      .wordCorrect, .lineCorrect, .relocate, .tabSet, .tabClear, .tabClearAll, .lmSet, .rmSet, .marginRelease, .pitch,
      .spacing, .impression, .mode, .underline, .bold, .center, .flushRight, .decimalTab, .justify, .spell, .addWord,
      .deleteWord] : List ActionKind)[n - 1]? := by
  revert n
  decide

theorem isCharCode_iff (c : Nat) : isCharCode c = true ↔ (33 ≤ c ∧ c ≤ 126) ∨ (128 ≤ c ∧ c ≤ 159) := by
  simp [isCharCode, within]

/-! ## The wire's checks -/

theorem Carriage.edge_count (c : Carriage) (rightward : Bool) (interval : Nat) :
    (c.edge rightward interval).count = if rightward then c.count + 1 else c.count - 1 := by
  unfold Carriage.edge
  dsimp only
  split
  · exact (apply_ite Carriage.count _ _ _).trans (ite_self _)
  · rfl

theorem Holds.bits_lt (h : Holds) : h.bits < 32 := by
  obtain ⟨cover, ribbon, wheel, low, heat⟩ := h
  revert cover ribbon wheel low heat
  decide

theorem Holds.bits_getLsbD (h : Holds) :
    (BitVec.ofNat 8 h.bits).getLsbD 0 = h.cover ∧ (BitVec.ofNat 8 h.bits).getLsbD 1 = h.ribbon
      ∧ (BitVec.ofNat 8 h.bits).getLsbD 2 = h.wheel ∧ (BitVec.ofNat 8 h.bits).getLsbD 3 = h.low
      ∧ (BitVec.ofNat 8 h.bits).getLsbD 4 = h.heat := by
  obtain ⟨cover, ribbon, wheel, low, heat⟩ := h
  revert cover ribbon wheel low heat
  decide

theorem Engine.emptyMark_toNat (e : Engine) : e.emptyMark.toNat = if e.slots = [] ∧ e.head = none then 1 else 0 := by
  unfold Engine.emptyMark
  rcases hs : e.slots with _ | ⟨x, xs⟩ <;> rcases hh : e.head with _ | y <;> simp

end Sys2Proof.Machine

open Sys2Proof Sys2Proof.Machine

/-- Settles O1. -/
theorem stepRunsFront : Obligations.StepRunsFront := by
  intro s
  refine ⟨fun c rest h => ?_, fun h => ?_⟩
  · unfold step; rw [h]
  · unfold step; rw [h]

/-- Settles O3: no event happens, and a sensor's report carries its pin alone. -/
theorem nothingWithoutPower : Obligations.NothingWithoutPower := by
  intro c s off
  have sensed {f : State → State} {p : Pins} (hf : (f s).pins = p) : s.sensed f = { s with pins := p } := by
    rw [State.sensed_dead off, hf]
  cases c
  case powerOn | restartAssert | restartRelease | powerLoss => trivial
  case coverOpen =>
    refine congrArg Host.Outcome.next (sensed ?_)
    unfold State.coverOpens
    split
    · next opened => simp [← opened]
    · exact (State.suspendHoming_follows _).pins.trans (by simp)
  case coverClosed =>
    refine congrArg Host.Outcome.next (sensed ?_)
    unfold State.coverCloses
    split
    · simp
    · next closed => simp [← Bool.eq_false_iff.mpr closed]
  case ribbonSpent => exact congrArg Host.Outcome.next (sensed (by simp [State.ribbonReport]))
  case ribbonPresent => exact congrArg Host.Outcome.next (sensed (by simp [State.ribbonReport]))
  case tapeEndReport => exact congrArg Host.Outcome.next (sensed rfl)
  case homeSensorTrip => exact congrArg Host.Outcome.next (sensed rfl)
  case encoderEdge rightward interval =>
    refine congrArg Host.Outcome.next (sensed ?_)
    simp [State.encoderEdge, Carriage.edge_count]
  case frameStart => exact congrArg Host.Outcome.next (if_neg (State.not_live off))
  all_goals exact congrArg Host.Outcome.next (State.event_dead off _)

/-- Settles O7. -/
theorem boundsAtReset : Obligations.BoundsAtReset := by
  refine ⟨by decide, by decide, by decide, by decide, by decide, ⟨by decide, fun r h => ?_⟩, by decide, by decide,
    ⟨by decide, by decide, fun h hr => ?_, by decide⟩, ⟨by decide, fun p hp => ?_⟩⟩
  · cases h
  · cases hr
  · cases hp

/-- Settles O21. -/
theorem listWriteEnds : Obligations.ListWriteEnds := by
  intro s b live writing
  refine ⟨s.listWriteEnd, congrArg Host.Outcome.next (State.event_live live _), ?_⟩
  unfold State.listWriteEnd
  rw [writing]
  dsimp only
  have saved (u : State) : u.beginSave.retained = u.retained ∧ u.beginSave.text = u.text ∧ u.beginSave.spell = u.spell := by
    unfold State.beginSave
    split <;> exact ⟨rfl, rfl, rfl⟩
  refine ⟨(saved _).1, (saved _).2.1, (saved _).2.2.trans ?_⟩
  cases hp : s.supply.phase <;> cases hw : s.spell.writePending <;> simp [State.isDown, hp]

/-- Settles O27. -/
theorem framesMakeActions : Obligations.FramesMakeActions := by
  refine ⟨fun v rep pos => ?_, fun c => ?_, fun item value => ?_⟩
  · unfold keyAction
    by_cases low : v < 32
    · rw [if_pos low, if_pos (Nat.le_of_lt_succ low), functionKind_eq v low pos]
      rfl
    · rw [if_neg low, if_neg (show ¬v ≤ 31 by omega)]
      by_cases char : isCharCode v = true
      · have := (isCharCode_iff v).mp char
        rw [if_pos char, if_neg (show v ≠ 32 by omega), if_neg (show ¬(v = 127 ∨ 160 ≤ v) by omega)]
        rfl
      · rw [if_neg char]
        have := mt (isCharCode_iff v).mpr char
        by_cases space : v = 32
        · rw [if_pos space, if_pos space]; rfl
        · rw [if_neg space, if_neg space, if_pos (by omega)]
  · unfold textAction
    by_cases char : isCharCode c = true
    · have := (isCharCode_iff c).mp char
      rw [if_pos char]
      dsimp only
      rw [if_neg (by omega), if_neg (by omega), if_neg (by omega), if_neg (by omega), if_neg (by omega), if_neg (by omega)]
      rfl
    · rw [if_neg char]
      have := mt (isCharCode_iff c).mpr char
      dsimp only
      split <;> simp_all [plainAction]
      omega
  · unfold settingAction settingKind
    match item with
    | 0 | 1 | 2 | 3 | 4 | 5 | 6 | 7 | 8 | 9 | 10 => rfl
    | n + 11 => simp

/-- Settles O37. -/
theorem stateReportsValues : Obligations.StateReportsValues := by
  refine ⟨fun s => ⟨rfl, rfl, rfl, fun p k => ?_, fun _ _ _ => rfl⟩, fun s low high => ?_⟩
  · cases p <;> rfl
  · obtain ⟨cover, ribbon, wheel, lowHold, heat⟩ := s.engine.holds.bits_getLsbD
    refine ⟨_, _, _, _, rfl, ?_, cover, ribbon, wheel, lowHold, heat, ?_, ?_, ?_⟩
    · cases s.engine.state <;> rfl
    · have := s.engine.holds.bits_lt
      simp only [BitVec.toNat_ofNat]
      omega
    · cases s.engine.fault <;> rfl
    · rw [BitVec.toNat_ofNat, Engine.emptyMark_toNat]
      have ceiling : (s.supply.ceiling - 1) % 4 = s.supply.ceiling - 1 := by omega
      rw [ceiling]
      cases s.supply.region <;> cases s.text.settings.mode <;> simp only [Region.code, Mode.code] <;> split <;> omega
end

section
/-! SUPPORT. Frames as bytes and as intervals on the wire: a built frame keeps its fields, and its intervals give back its bytes. -/

-- One proof after another: the check's process cannot start a thread for each.
set_option Elab.async false

namespace Sys2Proof.Machine

/-! ## The check byte and the fields of a frame -/

theorem byteSum_append (l : List Byte) (x : Byte) : byteSum (l ++ [x]) = byteSum l + x := by
  simp [byteSum]

theorem byteSum_withCheck (l : List Byte) : byteSum (withCheck l) = 0 := by
  rw [withCheck, byteSum_append]
  simp

theorem length_withCheck (l : List Byte) : (withCheck l).length = l.length + 1 := by simp [withCheck]

theorem toNat_field {high low size : Nat} (hl : low < size) : (high * size + low) / size = high
    ∧ (high * size + low) % size = low := by
  constructor
  · rw [Nat.add_comm, Nat.add_mul_div_right _ _ (Nat.zero_lt_of_lt hl), Nat.div_eq_of_lt hl, Nat.zero_add]
  · rw [Nat.add_comm, Nat.add_mul_mod_self_right, Nat.mod_eq_of_lt hl]

/-! ## Bits and bytes -/

theorem length_byteBits (b : Byte) : (byteBits b).length = 8 := rfl

theorem bitsByte_byteBits (b : Byte) : bitsByte (byteBits b) = b := by
  revert b
  decide

theorem length_flatMap_byteBits (bytes : List Byte) : (bytes.flatMap byteBits).length = 8 * bytes.length := by
  induction bytes with
  | nil => rfl
  | cons b bytes ih => rw [List.flatMap_cons, List.length_append, ih, length_byteBits, List.length_cons]; omega

theorem bitsBytes_flatMap_byteBits (bytes : List Byte) : bitsBytes bytes.length (bytes.flatMap byteBits) = bytes := by
  induction bytes with
  | nil => rfl
  | cons b bytes ih =>
    simp only [List.length_cons, List.flatMap_cons, bitsBytes]
    rw [List.take_left' (length_byteBits b), List.drop_left' (length_byteBits b), bitsByte_byteBits, ih]

/-! ## Intervals -/

theorem frameOf_eq_self : ∀ l : List Nat, (∀ d ∈ l, d < 320) → frameOf l = l
  | [], _ => rfl
  | [_], _ => rfl
  | low :: released :: rest, h => by
    have short : ¬320 ≤ released := Nat.not_le.mpr (h released (by simp))
    rw [frameOf, if_neg short, frameOf_eq_self rest (fun d hd => h d (by simp [hd]))]

/-- The line is released at the end, so the number of intervals is odd from a low level and even from a released one. -/
theorem levelIntervals_length (level : Bool) (n : Nat) (l : List Bool) :
    (levelIntervals level n l).length % 2 = if level then 0 else 1 := by
  induction l generalizing level n with
  | nil => cases level <;> rfl
  | cons x xs ih =>
    unfold levelIntervals
    split
    · exact ih level (n + 1)
    · next change =>
      have next := ih x 1
      have : x = !level := by cases x <;> cases level <;> simp_all
      subst this
      rw [List.length_cons]
      cases level
      · have : (levelIntervals true 1 xs).length % 2 = 0 := next
        exact (by omega : ((levelIntervals true 1 xs).length + 1) % 2 = 1)
      · have : (levelIntervals false 1 xs).length % 2 = 1 := next
        exact (by omega : ((levelIntervals false 1 xs).length + 1) % 2 = 0)

/-- The intervals of a bit cell and of those behind it: `n` half cells have passed since the last change. -/
theorem levelIntervals_cellLevels_cons (level : Bool) (n : Nat) (b : Bool) (bits : List Bool) :
    levelIntervals level n (cellLevels level (b :: bits)) = 80 * n ::
      if b then 80 :: levelIntervals level 1 (cellLevels level bits)
      else levelIntervals (!level) 2 (cellLevels (!level) bits) := by
  cases b <;> cases level <;> simp [cellLevels, levelIntervals]

theorem levelIntervals_cellLevels_lt (level : Bool) (n : Nat) (bits : List Bool) (hn : n ≤ 2) :
    ∀ d ∈ levelIntervals level n (cellLevels level bits), d < 320 := by
  induction bits generalizing level n with
  | nil => cases level <;> simp [cellLevels, levelIntervals]; omega
  | cons b bits ih =>
    intro d hd
    rw [levelIntervals_cellLevels_cons] at hd
    have one := ih level 1 (by decide) d
    have two := ih (!level) 2 (by decide) d
    cases b <;> simp at hd <;> grind

/-- What the receiver knows `n` half cells after a change: after the change at a cell start the bit 0 of the cell is still to be
read. -/
def Awaits (e : Edge) (n : Nat) (read : List Bool) (sent : List Bool) : Prop :=
  (e = .startCell ∧ n = 2 ∧ read = sent) ∨ (e = .cellStart ∧ n = 2 ∧ read ++ [false] = sent)
    ∨ (e = .midCell ∧ n = 1 ∧ read = sent)

/-- The interval that ends at the next cell start brings the bits read up to those sent. -/
theorem readIntervals_cellStart {e : Edge} {n : Nat} {read sent : List Bool} (h : Awaits e n read sent) (ds : List Nat) :
    readIntervals e read (80 * n :: ds) = readIntervals .cellStart sent ds := by
  rcases h with ⟨rfl, rfl, rfl⟩ | ⟨rfl, rfl, rfl⟩ | ⟨rfl, rfl, rfl⟩ <;> simp [readIntervals, readInterval]

/-- Reading the intervals of some cells gives the bits of these cells; if the line is released at their end, without a last 0. -/
theorem readIntervals_cellLevels (level : Bool) {e : Edge} {n : Nat} {read sent : List Bool} (h : Awaits e n read sent)
    (start : e = .startCell → level = false) (bits : List Bool) :
    ∃ e' all, readIntervals e read (levelIntervals level n (cellLevels level bits)) = some (e', all)
      ∧ (all = sent ++ bits ∨ e' = .cellStart ∧ all ++ [false] = sent ++ bits) := by
  induction bits generalizing level e n read sent with
  | nil =>
    cases level with
    | false =>
      refine ⟨.cellStart, sent, ?_, .inl (List.append_nil _).symm⟩
      exact readIntervals_cellStart h []
    | true =>
      refine ⟨e, read, rfl, ?_⟩
      rcases h with ⟨rfl, -, -⟩ | ⟨rfl, -, h⟩ | ⟨rfl, -, h⟩
      · exact absurd (start rfl) (by decide)
      · exact .inr ⟨rfl, by simpa using h⟩
      · exact .inl (by simpa using h)
  | cons b bits ih =>
    rw [levelIntervals_cellLevels_cons, readIntervals_cellStart h]
    cases b with
    | false =>
      obtain ⟨e', all, hread, hall⟩ := ih (!level) (e := .cellStart) (n := 2) (read := sent) (sent := sent ++ [false])
        (.inr (.inl ⟨rfl, rfl, rfl⟩)) (fun h => nomatch h)
      exact ⟨e', all, hread, by simpa using hall⟩
    | true =>
      obtain ⟨e', all, hread, hall⟩ := ih level (e := .midCell) (n := 1) (read := sent ++ [true]) (sent := sent ++ [true])
        (.inr (.inr ⟨rfl, rfl, rfl⟩)) (fun h => nomatch h)
      refine ⟨e', all, ?_, by simpa using hall⟩
      exact (by simp [readIntervals, readInterval] :
        ∀ ds, readIntervals .cellStart sent (80 :: ds) = readIntervals .midCell (sent ++ [true]) ds) _ |>.trans hread

theorem frameIntervals_eq (bytes : List Byte) :
    frameIntervals bytes = levelIntervals false 2 (cellLevels false (bytes.flatMap byteBits)) := by
  simp [frameIntervals, frameLevels, levelIntervals]

theorem closeBits_whole {e : Edge} {read sent : List Bool} (whole : sent.length % 8 = 0)
    (h : read = sent ∨ e = .cellStart ∧ read ++ [false] = sent) : closeBits e read = sent := by
  unfold closeBits
  rcases h with rfl | ⟨rfl, rfl⟩
  · rw [if_neg (by omega)]
  · rw [List.length_append, List.length_singleton] at whole
    rw [if_pos ⟨rfl, by omega⟩]

end Sys2Proof.Machine

open Sys2Proof Sys2Proof.Machine

/-- Settles O13. -/
theorem wireRoundTrip : Obligations.WireRoundTrip := by
  intro bytes long
  obtain ⟨e, all, hread, hall⟩ := readIntervals_cellLevels false (e := .startCell) (.inl ⟨rfl, rfl, rfl⟩) (fun _ => rfl)
    (bytes.flatMap byteBits)
  rw [List.nil_append] at hall
  have bits : (bytes.flatMap byteBits).length = 8 * bytes.length := length_flatMap_byteBits bytes
  have whole : (bytes.flatMap byteBits).length % 8 = 0 := by omega
  have odd := levelIntervals_length false 2 (cellLevels false (bytes.flatMap byteBits))
  unfold hear
  rw [frameIntervals_eq, frameOf_eq_self _ (levelIntervals_cellLevels_lt _ _ _ (Nat.le_refl 2))]
  dsimp only
  rw [hread]
  dsimp only
  rw [if_neg (by rw [odd]; decide), closeBits_whole whole hall, if_pos (by omega), bits,
    Nat.mul_div_cancel_left _ (by decide), bitsBytes_flatMap_byteBits]

/-- Settles O14. -/
theorem frameFields : Obligations.FrameFields := by
  intro sender kind addressee payload hs hk ha hp
  have ⟨s1, k1⟩ := toNat_field (high := sender) hk
  have ⟨a1, l1⟩ := toNat_field (high := addressee) (show payload.length < 16 by omega)
  have first : (sender * 32 + kind) % 256 = sender * 32 + kind := Nat.mod_eq_of_lt (by omega)
  have second : (addressee * 16 + payload.length) % 256 = addressee * 16 + payload.length := Nat.mod_eq_of_lt (by omega)
  refine ⟨byteSum_withCheck _, ?_, ?_, ?_, ?_, ?_⟩ <;>
    simp [frameBytes, frameLength, frameSender, frameKind, frameAddressee, withCheck, first, second, s1, k1, a1, l1]
end

section
/-! SUPPORT. The records of retained memory: a settings record, a user word list record and a saved line record give back what was
written. -/

-- One proof after another: the check's process cannot start a thread for each.
set_option Elab.async false

namespace Sys2Proof.Machine

/-! ## Bytes and numbers of a record -/

theorem byteAt_append_right (pre l : List Byte) (i : Nat) : byteAt (pre ++ l) (pre.length + i) = byteAt l i := by
  simp [byteAt, List.getD_eq_getElem?_getD, List.getElem?_append_right]

theorem wordAt_append_right (pre l : List Byte) (i : Nat) : wordAt (pre ++ l) (pre.length + i) = wordAt l i := by
  rw [wordAt, wordAt, Nat.add_assoc, byteAt_append_right, byteAt_append_right]

@[simp] theorem byteAt_cons_zero (b : Byte) (l : List Byte) : byteAt (b :: l) 0 = b.toNat := rfl

@[simp] theorem byteAt_cons_succ (b : Byte) (l : List Byte) (i : Nat) : byteAt (b :: l) (i + 1) = byteAt l i := rfl

theorem length_twoBytes (n : Nat) : (twoBytes n).length = 2 := rfl

theorem toNat_ofNat_byte {n : Nat} (h : n < 256) : (BitVec.ofNat 8 n).toNat = n := by
  rw [BitVec.toNat_ofNat, Nat.mod_eq_of_lt h]

theorem twoBytes_value {n : Nat} (h : n < 65536) :
    256 * (BitVec.ofNat 8 (n / 256)).toNat + (BitVec.ofNat 8 n).toNat = n := by
  rw [toNat_ofNat_byte (by omega), BitVec.toNat_ofNat]
  omega

theorem wordAt_twoBytes {n : Nat} (h : n < 65536) (rest : List Byte) : wordAt (twoBytes n ++ rest) 0 = n := twoBytes_value h

theorem length_flatMap_twoBytes (l : List Nat) : (l.flatMap twoBytes).length = 2 * l.length := by
  induction l with
  | nil => rfl
  | cons x xs ih => rw [List.flatMap_cons, List.length_append, ih, length_twoBytes, List.length_cons]; omega

/-- Numbers of two bytes in turn read back one by one. -/
theorem wordAt_flatMap_twoBytes (l : List Nat) (rest : List Byte) (small : ∀ n ∈ l, n < 65536) (i : Nat) (hi : i < l.length) :
    wordAt (l.flatMap twoBytes ++ rest) (2 * i) = l[i] := by
  induction l generalizing i with
  | nil => exact absurd hi (Nat.not_lt_zero i)
  | cons x xs ih =>
    rw [List.flatMap_cons, List.append_assoc]
    cases i with
    | zero => exact wordAt_twoBytes (small x (by simp)) _
    | succ i =>
      have := wordAt_append_right (twoBytes x) (xs.flatMap twoBytes ++ rest) (2 * i)
      rw [length_twoBytes] at this
      rw [show 2 * (i + 1) = 2 + 2 * i by omega, this]
      exact ih (fun n hn => small n (by simp [hn])) i (by simpa using hi)

theorem map_wordAt_flatMap_twoBytes (pre : List Byte) (l : List Nat) (rest : List Byte) (small : ∀ n ∈ l, n < 65536) :
    (List.range l.length).map (fun i => wordAt (pre ++ (l.flatMap twoBytes ++ rest)) (pre.length + 2 * i)) = l := by
  refine List.ext_getElem (by simp) (fun i h₁ h₂ => ?_)
  rw [List.getElem_map, List.getElem_range, wordAt_append_right, wordAt_flatMap_twoBytes l rest small i h₂]

/-! ## The settings record -/

theorem Pitch.code_lt (p : Pitch) : p.code < 4 := by cases p <;> decide

theorem pitchOf_code (p : Pitch) : pitchOf true p.code = some p := by cases p <;> rfl

theorem impressionOf_code (i : Impression) : impressionOf i.code = some i := by cases i <;> rfl

theorem modeOf_code (m : Mode) : modeOf m.code = some m := by cases m <;> rfl

theorem spellOf_code (x : SpellSetting) : spellOf x.code = some x := by cases x <;> rfl

theorem wheelOf_code {wheel : Option Nat} (h : ∀ w, wheel = some w → w < 16) : wheelOf (wheel.getD 255) = some wheel := by
  cases wheel with
  | none => rfl
  | some w => simp [wheelOf, h w rfl]

/-- The 13 bytes of a settings record that stand before its tab stops. -/
def settingsHead (x : Settings) (wheel : Option Nat) : List Byte :=
  [161, BitVec.ofNat 8 (x.lm / 256), BitVec.ofNat 8 x.lm, BitVec.ofNat 8 (x.rm / 256), BitVec.ofNat 8 x.rm,
    BitVec.ofNat 8 x.pitch.code, BitVec.ofNat 8 x.impression.code, BitVec.ofNat 8 x.mode.code,
    BitVec.ofNat 8 x.justify.toNat, BitVec.ofNat 8 x.spell.code, BitVec.ofNat 8 x.spacing,
    BitVec.ofNat 8 (wheel.getD 255), BitVec.ofNat 8 x.tabs.length]

theorem encodeSettings_eq (x : Settings) (wheel : Option Nat) :
    encodeSettings x wheel = settingsHead x wheel
      ++ (x.tabs.flatMap twoBytes ++ [0 - byteSum (settingsHead x wheel ++ x.tabs.flatMap twoBytes)]) := by
  simp [encodeSettings, settingsHead, withCheck, twoBytes]

theorem length_encodeSettings (x : Settings) (wheel : Option Nat) :
    (encodeSettings x wheel).length = 14 + 2 * x.tabs.length := by
  rw [encodeSettings_eq, List.length_append, List.length_append, length_flatMap_twoBytes]
  simp [settingsHead]
  omega

/-- The numbers of a settings record (Table 11-6). -/
theorem encodeSettings_reads {x : Settings} {wheel : Option Nat} (lm : x.lm < 65536) (rm : x.rm < 65536)
    (few : x.tabs.length < 256) (spacing : x.spacing < 256) (code : ∀ w, wheel = some w → w < 16) :
    let l := encodeSettings x wheel
    byteAt l 0 = 161 ∧ wordAt l 1 = x.lm ∧ wordAt l 3 = x.rm ∧ byteAt l 5 = x.pitch.code ∧ byteAt l 6 = x.impression.code
      ∧ byteAt l 7 = x.mode.code ∧ byteAt l 8 = x.justify.toNat ∧ byteAt l 9 = x.spell.code ∧ byteAt l 10 = x.spacing
      ∧ byteAt l 11 = wheel.getD 255 ∧ byteAt l 12 = x.tabs.length := by
  intro l
  have hl : l = _ := encodeSettings_eq x wheel
  rw [hl]
  refine ⟨rfl, twoBytes_value lm, twoBytes_value rm, ?_, ?_, ?_, ?_, ?_, toNat_ofNat_byte spacing, ?_, toNat_ofNat_byte few⟩
  · cases h : x.pitch <;> simp [settingsHead, h, Pitch.code]
  · cases h : x.impression <;> simp [settingsHead, h, Impression.code]
  · cases h : x.mode <;> simp [settingsHead, h, Mode.code]
  · cases h : x.justify <;> simp [settingsHead, h]
  · cases h : x.spell <;> simp [settingsHead, h, SpellSetting.code]
  · cases wheel with
    | none => rfl
    | some w => exact toNat_ofNat_byte (Nat.lt_trans (code w rfl) (by decide))

/-! ## The user word list -/

/-- The bytes of a word in the user word list record (Table 11-6). -/
def wordBytes (w : List Nat) : List Byte := BitVec.ofNat 8 w.length :: w.map (BitVec.ofNat 8)

/-- A word that the record can hold (R208). -/
abbrev WordFits (w : List Nat) : Prop := 1 ≤ w.length ∧ w.length ≤ 24 ∧ ∀ c ∈ w, c = 39 ∨ (97 ≤ c ∧ c ≤ 122)

theorem map_toNat_ofNat {w : List Nat} (h : ∀ c ∈ w, c < 256) : (w.map (BitVec.ofNat 8)).map BitVec.toNat = w := by
  rw [List.map_map]
  exact (List.map_congr_left fun c hc => toNat_ofNat_byte (h c hc)).trans (List.map_id' w)

theorem readWords_flatMap (ws : List (List Nat)) (rest : List Byte) (fits : ∀ w ∈ ws, WordFits w) :
    readWords ws.length (ws.flatMap wordBytes ++ rest) = some (ws, rest) := by
  induction ws with
  | nil => rfl
  | cons w ws ih =>
    obtain ⟨some1, most, chars⟩ := fits w (by simp)
    have length : (BitVec.ofNat 8 w.length).toNat = w.length := toNat_ofNat_byte (by omega)
    have read : ((w.map (BitVec.ofNat 8)) ++ (ws.flatMap wordBytes ++ rest)).take w.length = w.map (BitVec.ofNat 8) :=
      List.take_left' (by simp)
    have left : ((w.map (BitVec.ofNat 8)) ++ (ws.flatMap wordBytes ++ rest)).drop w.length = ws.flatMap wordBytes ++ rest :=
      List.drop_left' (by simp)
    have same : (w.map (BitVec.ofNat 8)).map BitVec.toNat = w :=
      map_toNat_ofNat (fun c hc => by have := chars c hc; omega)
    rw [List.flatMap_cons, List.append_assoc, List.length_cons, wordBytes, List.cons_append, readWords]
    simp only [length, read, left, same, ih (fun v hv => fits v (by simp [hv]))]
    rw [if_pos (by simpa [within, some1, most] using chars)]

/-! ## The saved line -/

theorem EntryKind.code_le (k : EntryKind) : k.code ≤ 2 := by cases k <;> decide

/-- The values that the record of an entry can hold (R208). -/
abbrev EntryFits (e : Entry) : Prop :=
  e.pos + e.width ≤ 1600 ∧ 6 ≤ e.width ∧ e.width ≤ 14 ∧ e.offset ≤ 4 ∧ isCharCode e.char = true ∧ -2 ≤ e.rise ∧ e.rise ≤ 2

/-- What the record keeps of an entry: it is PENDING, and its owner stands beside it as an index. -/
def Entry.read (e : Entry) : Entry :=
  { id := 0, pos := e.pos, width := e.width, offset := e.offset, char := e.char, kind := e.kind, owner := none, rise := e.rise,
    state := .pending, wheel := none, mark := .plain, order := 0 }

theorem length_savedEntry (l : List Entry) (e : Entry) : (savedEntry l e).length = 8 := rfl

theorem length_flatMap_savedEntry (l es : List Entry) : (es.flatMap (savedEntry l)).length = 8 * es.length := by
  induction es with
  | nil => rfl
  | cons e es ih => rw [List.flatMap_cons, List.length_append, ih, length_savedEntry, List.length_cons]; omega

theorem readEntry_append (pre l : List Byte) : readEntry (pre ++ l) pre.length = readEntry l 0 := by
  have word (i : Nat) := wordAt_append_right pre l i
  have byte (i : Nat) := byteAt_append_right pre l i
  have first := word 0
  rw [Nat.add_zero] at first
  unfold readEntry
  simp only [byte, word, first, Nat.zero_add]

theorem readEntry_savedEntry (l : List Entry) (e : Entry) (rest : List Byte) (fits : EntryFits e)
    (small : ownerIndex l e.owner < 65536) (owned : e.kind = .character ↔ ownerIndex l e.owner = 65535) :
    readEntry (savedEntry l e ++ rest) 0 = some (e.read, ownerIndex l e.owner) := by
  obtain ⟨ends, narrow, wide, offset, char, low, high⟩ := fits
  have code := e.kind.code_le
  obtain ⟨r, hr⟩ : ∃ r : Nat, e.rise + 2 = r := ⟨(e.rise + 2).toNat, by omega⟩
  have range := (isCharCode_iff e.char).mp char
  have pos : wordAt (savedEntry l e ++ rest) 0 = e.pos := twoBytes_value (by omega)
  have width : byteAt (savedEntry l e ++ rest) 2 = e.width := toNat_ofNat_byte (by omega)
  have off : byteAt (savedEntry l e ++ rest) 3 = e.offset := toNat_ofNat_byte (by omega)
  have chr : byteAt (savedEntry l e ++ rest) 4 = e.char := toNat_ofNat_byte (by omega)
  have flags : byteAt (savedEntry l e ++ rest) 5 = 64 * e.kind.code + (e.rise + 2).toNat := toNat_ofNat_byte (by omega)
  have owner : wordAt (savedEntry l e ++ rest) 6 = ownerIndex l e.owner := twoBytes_value small
  have kindBits : (64 * e.kind.code + (e.rise + 2).toNat) / 64 = e.kind.code := by omega
  have clear : (64 * e.kind.code + (e.rise + 2).toNat) / 8 % 8 = 0 := by omega
  have riseBits : (64 * e.kind.code + (e.rise + 2).toNat) % 8 = (e.rise + 2).toNat := by omega
  have rise : ((e.rise + 2).toNat : Int) - 2 = e.rise := by omega
  have isChar : (e.read.isChar == decide (ownerIndex l e.owner = 65535)) = true := by
    simp [Entry.isChar, Entry.read, owned]
  have ok : (e.pos + e.width ≤ 1600 && within 6 14 e.width && decide (e.offset ≤ 4) && isCharCode e.char
      && decide ((e.rise + 2).toNat ≤ 4) && (e.read.isChar == decide (ownerIndex l e.owner = 65535))) = true := by
    rw [isChar]
    simp [within, ends, narrow, wide, offset, char]
    omega
  unfold readEntry
  simp only [Nat.zero_add, pos, width, off, chr, flags, owner, kindBits, clear, riseBits, rise]
  cases hk : e.kind <;> simp only [EntryKind.code] <;> simpa [Entry.read, Entry.isChar, hk, and_assoc] using ok

/-- The entries of a saved line in turn read back one by one. -/
theorem readEntries_flatMap (l : List Entry) (pre rest : List Byte) (es : List Entry) (fits : ∀ e ∈ es, EntryFits e)
    (small : ∀ e ∈ es, ownerIndex l e.owner < 65536)
    (owned : ∀ e ∈ es, e.kind = .character ↔ ownerIndex l e.owner = 65535) :
    readEntries (pre ++ (es.flatMap (savedEntry l) ++ rest)) pre.length es.length
      = some (es.map (fun e => (e.read, ownerIndex l e.owner))) := by
  induction es generalizing pre with
  | nil => rfl
  | cons e es ih =>
    have next := ih (pre ++ savedEntry l e) (fun x hx => fits x (by simp [hx])) (fun x hx => small x (by simp [hx]))
      (fun x hx => owned x (by simp [hx]))
    rw [List.length_append, length_savedEntry, List.append_assoc] at next
    rw [List.flatMap_cons, List.append_assoc, List.length_cons, readEntries, readEntry_append, next,
      readEntry_savedEntry l e _ (fits e (by simp)) (small e (by simp)) (owned e (by simp))]
    rfl

/-- An entry of a saved line has no owner index exactly if it is a CHARACTER entry; otherwise it has the place of its owner. -/
theorem ownerIndex_character {l : List Entry} {e : Entry} (h : e.owner = none) : ownerIndex l e.owner = 65535 := by
  rw [h]; rfl

theorem ownerIndex_companion {l : List Entry} {e o : Entry} (unique : (l.map Entry.id).Nodup) (mem : o ∈ l)
    (h : e.owner = some o.id) : l[ownerIndex l e.owner]? = some o := by
  obtain ⟨i, hi⟩ : ∃ i, l.findIdx? (fun x => decide (x.id = o.id)) = some i := by
    rcases hf : l.findIdx? (fun x => decide (x.id = o.id)) with _ | i
    · simpa using List.findIdx?_eq_none_iff.mp hf o mem
    · exact ⟨i, hf⟩
  have index : ownerIndex l e.owner = i := by rw [h, ownerIndex, hi]
  obtain ⟨lt, same, -⟩ := List.findIdx?_eq_some_iff_getElem.mp hi
  rw [index, List.getElem?_eq_getElem lt, Option.some_inj]
  exact List.inj_on_of_nodup_map unique (List.getElem_mem lt) mem (of_decide_eq_true same)

/-- What the record keeps of its entries has no third CHARACTER entry at a position either. -/
theorem noThird_map_read (l : List Entry) : noThird (l.map Entry.read) = noThird l := by
  have counts (p : Nat) : ((l.map Entry.read).filter (fun x => x.isChar && decide (x.pos = p))).length
      = (l.filter (fun x => x.isChar && decide (x.pos = p))).length := by
    rw [List.filter_map, List.length_map]
    rfl
  simp only [noThird, List.all_map, counts]
  rfl

end Sys2Proof.Machine

open Sys2Proof Sys2Proof.Machine

/-- Settles O15: each field is read back at its index of Table 11-6. -/
theorem settingsRecordRoundTrip : Obligations.SettingsRecordRoundTrip := by
  intro x wheel order right rise few stops wide narrow code
  have sum : byteSum (encodeSettings x wheel) = 0 := byteSum_withCheck _
  have length := length_encodeSettings x wheel
  obtain ⟨head, lm, rm, pitch, impression, mode, justify, spell, spacing, mounted, count⟩ :=
    encodeSettings_reads (x := x) (show x.lm < 65536 by omega) (show x.rm < 65536 by omega) (show x.tabs.length < 256 by omega)
      (show x.spacing < 256 by omega) code
  have tabs := map_wordAt_flatMap_twoBytes (settingsHead x wheel) x.tabs
    [0 - byteSum (settingsHead x wheel ++ x.tabs.flatMap twoBytes)] (fun n hn => Nat.lt_of_le_of_lt (stops n hn) (by decide))
  rw [← encodeSettings_eq] at tabs
  have just : x.justify.toNat ≤ 1 ∧ decide (x.justify.toNat = 1) = x.justify := by cases x.justify <;> decide
  unfold parseSettings
  simp only [count, lm, rm, pitch, impression, mode, justify, spell, spacing, mounted, pitchOf_code, impressionOf_code,
    modeOf_code, spellOf_code, wheelOf_code code, just.2]
  rw [show (List.range x.tabs.length).map (fun i => wordAt (encodeSettings x wheel) (13 + 2 * i)) = x.tabs from tabs,
    if_pos (by simpa [recordOk, head, length, sum, order, right, few, rise, within, wide, narrow, just.1] using stops)]

/-- Settles O16. -/
theorem wordListRoundTrip : Obligations.WordListRoundTrip := by
  intro ws few order fits
  have sum : byteSum (encodeWords ws) = 0 := byteSum_withCheck _
  have count : byteAt (encodeWords ws) 1 = ws.length := toNat_ofNat_byte (by omega)
  have words := readWords_flatMap ws
    [0 - byteSum (162 :: BitVec.ofNat 8 ws.length :: ws.flatMap wordBytes)] fits
  have body : (encodeWords ws).drop 2 = ws.flatMap wordBytes
      ++ [0 - byteSum (162 :: BitVec.ofNat 8 ws.length :: ws.flatMap wordBytes)] := rfl
  unfold parseWords
  rw [count, body, words, sum]
  simp [show byteAt (encodeWords ws) 0 = 162 from rfl, few, order]

/-- Settles O17: the entries read back in turn, and the owner index of a companion is the place of its owner. -/
theorem savedLineRoundTrip : Obligations.SavedLineRoundTrip := by
  intro l few third unique fits
  let image (e : Entry) : Entry × Nat := (e.read, ownerIndex l e.owner)
  have owner (e : Entry) (he : e ∈ l) : (e.kind = .character ∧ ownerIndex l e.owner = 65535)
      ∨ (e.kind ≠ .character ∧ ∃ o : Entry, l[ownerIndex l e.owner]? = some o ∧ e.owner = some o.id ∧ o.kind = .character) := by
    obtain ⟨-, -, -, -, -, -, -, alone, companion⟩ := fits e he
    by_cases kind : e.kind = .character
    · exact .inl ⟨kind, ownerIndex_character (alone kind)⟩
    · obtain ⟨o, mem, ho, char⟩ := companion kind
      exact .inr ⟨kind, o, ownerIndex_companion unique mem ho, ho, char⟩
  have index (e : Entry) (he : e ∈ l) : ownerIndex l e.owner < 65536
      ∧ (e.kind = .character ↔ ownerIndex l e.owner = 65535) := by
    rcases owner e he with ⟨kind, h⟩ | ⟨kind, o, h, -⟩
    · simp [kind, h]
    · have := (List.getElem?_eq_some_iff.mp h).1
      exact ⟨by omega, fun h => absurd h kind, fun h => by omega⟩
  have read : readEntries (encodeSavedLine l) 3 l.length = some (l.map image) :=
    readEntries_flatMap l (163 :: twoBytes l.length) [_] l
      (fun e he => by obtain ⟨h1, h2, h3, h4, h5, h6, h7, -⟩ := fits e he; exact ⟨h1, h2, h3, h4, h5, h6, h7⟩)
      (fun e he => (index e he).1) (fun e he => (index e he).2)
  have count : wordAt (encodeSavedLine l) 1 = l.length := twoBytes_value (by omega)
  have length : (encodeSavedLine l).length = 4 + 8 * l.length := by
    rw [encodeSavedLine, length_withCheck, List.length_append, length_flatMap_savedEntry, List.length_cons, length_twoBytes]
    omega
  have ok : recordOk 163 (4 + 8 * l.length) (encodeSavedLine l) = true := by
    simp [recordOk, length, show byteSum (encodeSavedLine l) = 0 from byteSum_withCheck _,
      show byteAt (encodeSavedLine l) 0 = 163 from rfl]
  have stands : (l.map image).all (ownerStands (l.map image)) = true := by
    rw [List.all_map, List.all_eq_true]
    intro e he
    rcases owner e he with ⟨kind, -⟩ | ⟨-, o, place, -, char⟩
    · simp [image, ownerStands, Entry.isChar, Entry.read, kind]
    · simp [image, ownerStands, Entry.isChar, Entry.read, place, char]
  have noThird : noThird ((l.map image).map Prod.fst) = true := by
    rw [List.map_map]
    exact (noThird_map_read l).trans third
  refine ⟨l.map image, ?_, List.length_map _, fun i e he => ⟨e.read, ownerIndex l e.owner, ?_, rfl, rfl, rfl, rfl, rfl, rfl, ?_⟩⟩
  · unfold parseSavedLine
    simp only [count, ok, read, stands, noThird]
    simp [few]
  · rw [List.getElem?_map, he]; rfl
  · intro kind
    rcases owner e (List.mem_of_getElem? he) with ⟨char, -⟩ | ⟨-, o, place, ho, -⟩
    · exact absurd char kind
    · exact ⟨o, place, ho⟩
end

section
/-! SUPPORT. The frames of the intake unit: TEXT and SETTING actions that join the key queue. -/

-- One proof after another: the check's process cannot start a thread for each.
set_option Elab.async false

namespace Sys2Proof.Machine

/-! ## The outcome of an event -/

/-- A command that is an event of a live controller: its effect, and what follows it. -/
theorem exec_finish {c : Instr} {f : State → State} {s t : State} (live : s.live) (arm : exec c s = .next (s.event f))
    (h : f s = t) : exec c s = .next (t.finish s) := by
  rw [arm, State.event_live live, h]

/-! ## Actions of the interface -/

/-- An action that no throttle drops and no drop run sounds for (R166, R167). -/
abbrev Action.FromInterface (a : Action) : Prop := a.source = .interface ∧ a.repeated = false

theorem textAction_fromInterface {c : Nat} {a : Action} (h : textAction c = some a) : a.FromInterface := by
  unfold textAction at h
  split at h
  · cases h; exact ⟨rfl, rfl⟩
  · split at h <;> cases h <;> exact ⟨rfl, rfl⟩

theorem settingAction_fromInterface {item value : Nat} {a : Action} (h : settingAction item value = some a) :
    a.FromInterface := by
  unfold settingAction at h
  obtain ⟨k, -, rfl⟩ := Option.map_eq_some_iff.mp h
  exact ⟨rfl, rfl⟩

theorem throttled_interface {a : Action} (h : a.FromInterface) (n : Nat) : throttled a n = false := by
  simp [throttled, h.2]

/-- An interface action that meets the full queue is dropped in silence (R167). -/
theorem State.dropFull_interface {s : State} {a : Action} (h : a.FromInterface) : s.dropFull a = s := by
  simp [State.dropFull, h.1]

/-! ## Joining in order -/

/-- Accepting some actions takes the count to 24 with the hold state clear (R170). -/
def State.reachesHold (s : State) (acts : List Action) : Bool :=
  !s.intake.hold && decide (s.intake.queue.length < 24 ∧ 24 ≤ s.intake.queue.length + acts.length)

/-- Some actions have been accepted in order, with HOLD at 24 (R165, R170). -/
def State.joined (s : State) (acts : List Action) : State :=
  { s with
    intake :=
      { s.intake with
        queue := s.intake.queue ++ acts, hold := s.intake.hold || s.reachesHold acts,
        dropSounded := s.intake.dropSounded && acts.isEmpty },
    line := if s.reachesHold acts then s.line.flowFrame .hold else s.line }

theorem State.joined_nil (s : State) : s.joined [] = s := by
  have never : s.reachesHold [] = false := by
    simp only [State.reachesHold, List.length_nil, Nat.add_zero, Bool.and_eq_false_iff, decide_eq_false_iff_not]
    right
    omega
  simp [State.joined, never]

theorem State.accept_joined (s : State) (a : Action) (acts : List Action) :
    (s.accept a).joined acts = s.joined (a :: acts) := by
  have next : (s.accept a).reachesHold acts = (!(s.intake.hold || decide (s.intake.queue.length + 1 = 24))
      && decide (s.intake.queue.length + 1 < 24 ∧ 24 ≤ s.intake.queue.length + 1 + acts.length)) := by
    simp [State.accept_eq, State.reachesHold]
  have hold : (s.intake.hold || s.reachesHold (a :: acts))
      = (s.intake.hold || decide (s.intake.queue.length + 1 = 24) || (s.accept a).reachesHold acts) := by
    rw [next, State.reachesHold, List.length_cons]
    cases s.intake.hold
    · simp only [Bool.false_or, Bool.not_false, Bool.true_and]
      rw [Bool.eq_iff_iff]
      simp
      omega
    · rfl
  have line : (if s.reachesHold (a :: acts) then s.line.flowFrame .hold else s.line)
      = if (s.accept a).reachesHold acts then (s.accept a).line.flowFrame .hold else (s.accept a).line := by
    rw [next, State.reachesHold, State.accept_eq, List.length_cons]
    by_cases now : s.intake.queue.length + 1 = 24 ∧ s.intake.hold = false
    · simp [now.1, now.2, show s.intake.queue.length < 24 by omega,
        show 24 ≤ s.intake.queue.length + (acts.length + 1) by omega]
    · cases h : s.intake.hold
      · have : s.intake.queue.length + 1 ≠ 24 := fun hn => now ⟨hn, h⟩
        simp only [this, Bool.not_false, Bool.true_and, Bool.false_or, decide_false]
        congr 1
        simp
        omega
      · simp
  simp only [State.joined, hold, line]
  generalize (s.accept a).reachesHold acts = r
  simp [State.accept_eq]

/-- Interface actions that meet the joining tests in turn join in order, up to 32 (R163 to R165). -/
theorem State.foldl_join {acts : List Action} (h : ∀ a ∈ acts, a.FromInterface) (s : State) :
    acts.foldl State.join s = s.joined (acts.take (32 - s.intake.queue.length)) := by
  induction acts generalizing s with
  | nil => rw [List.take_nil, State.joined_nil]; rfl
  | cons a acts ih =>
    have from_a : a.FromInterface := h a (by simp)
    have free : ¬throttled a s.intake.queue.length = true := by simp [throttled_interface from_a]
    rw [List.foldl_cons, ih (fun x hx => h x (by simp [hx]))]
    by_cases room : s.intake.queue.length < 32
    · have length : (s.accept a).intake.queue.length = s.intake.queue.length + 1 := by simp [State.accept_eq]
      rw [State.join_room free room, length, State.accept_joined, ← List.take_succ_cons]
      congr 2
      omega
    · rw [State.join_full free (Nat.not_lt.mp room), State.dropFull_interface from_a,
        show 32 - s.intake.queue.length = 0 by omega, List.take_zero, List.take_zero]

/-- A frame's actions meet the tests one by one, its codes that make none left out. -/
theorem State.foldl_joinSome {α : Type} (f : α → Option Action) (codes : List α) (s : State) :
    codes.foldl (fun acc c => acc.joinSome (f c)) s = (codes.filterMap f).foldl State.join s := by
  induction codes generalizing s with
  | nil => rfl
  | cons c codes ih =>
    rw [List.foldl_cons, ih]
    cases h : f c with
    | none => rw [List.filterMap_cons_none h]; rfl
    | some a => rw [List.filterMap_cons_some h]; rfl

end Sys2Proof.Machine

open Sys2Proof Sys2Proof.Machine

/-- Settles O29: the actions of either frame join one after another. -/
theorem textAndSettingsJoin : Obligations.TextAndSettingsJoin := by
  intro s live rostered heard n joins
  refine ⟨fun codes => ⟨fun opened => ?_, fun shut => ?_⟩, fun item high low => ⟨fun opened => ?_, fun shut => ?_⟩⟩
  · refine exec_finish live rfl ?_
    rw [State.textFrame, State.intakeFrame_opened rostered opened, State.foldl_joinSome, State.foldl_join]
    · rfl
    · intro a ha
      obtain ⟨c, -, hc⟩ := List.mem_filterMap.mp ha
      exact textAction_fromInterface hc
  · exact exec_finish live rfl (State.intakeFrame_discarded rostered shut _)
  · refine exec_finish live rfl ?_
    have joinSome (o : Option Action) : s.frameEnd.joinSome o = o.toList.foldl State.join s.frameEnd := by cases o <;> rfl
    rw [State.settingFrame, State.intakeFrame_opened rostered opened, joinSome, State.foldl_join]
    · rfl
    · intro a ha
      exact settingAction_fromInterface (Option.mem_toList.mp ha)
  · exact exec_finish live rfl (State.intakeFrame_discarded rostered shut _)
end

section
/-! SUPPORT. CLEAR at the text unit, the engine and the display unit. -/

-- One proof after another: the check's process cannot start a thread for each.
set_option Elab.async false

namespace Sys2Proof.Machine

/-! ## What the removals of CHARACTER entries leave of the names -/

/-- An entry without its mark. -/
def Entry.unmarked (e : Entry) : Entry := { e with mark := .plain }

theorem State.removeOwner_unmarked {s : State} (unique : (s.text.allEntries.map Entry.id).Nodup) (owned : s.text.work.Owned)
    {e : Entry} (char : ∀ y ∈ s.text.work.entries, y.id = e.id → y.kind = .character) :
    (s.removeOwner e).text.work.entries.map Entry.unmarked
      = (s.text.work.entries.filter (fun y => !decide (ownerId y = e.id))).map Entry.unmarked := by
  rw [State.removeOwner_work, List.map_map]
  have marks : (Entry.unmarked ∘ fun y => if (s.text.letterRun e.id).contains (ownerId y) then { y with mark := .plain } else y)
      = Entry.unmarked := by
    funext y
    exact (apply_ite Entry.unmarked _ _ _).trans (ite_self _)
  rw [marks]
  congr 1
  refine List.filter_congr (fun y hy => ?_)
  refine congrArg not ?_
  rw [Bool.eq_iff_iff, State.goesOut_iff unique hy, decide_eq_true_iff]
  by_cases kind : y.kind = .character
  · simp [ownerId, owned.1 y hy kind]
  · obtain ⟨o, -, ho, -⟩ := owned.2 y hy kind
    have other : y.id ≠ e.id := fun h => kind (char y hy h)
    simp [ownerId, ho, other]

/-- The CHARACTER entries that are removed one after another leave with their companions, and the others stand in their order. -/
theorem State.removeOwners_unmarked (es : List Entry) {s : State} (unique : (s.text.allEntries.map Entry.id).Nodup)
    (owned : s.text.work.Owned)
    (char : ∀ y ∈ s.text.work.entries, y.id ∈ es.map Entry.id → y.kind = .character) :
    (s.removeOwners es).text.work.entries.map Entry.unmarked
      = (s.text.work.entries.filter (fun y => !(es.map Entry.id).contains (ownerId y))).map Entry.unmarked := by
  induction es generalizing s with
  | nil => simp [State.removeOwners]
  | cons e es ih =>
    have first := State.removeOwner_unmarked unique owned (e := e) (fun y hy h => char y hy (by simp [h]))
    have removed := State.removeOwner_removed unique owned e
    have unique1 := unique.sublist (s.removeOwner_allEntries e)
    have owned1 := removed.owned (nodup_work unique1) owned
    have rest := ih unique1 owned1 (fun z hz h => by
      obtain ⟨y, hy, same, -⟩ := removed.back (nodup_work unique1) hz
      rw [same]
      exact char y hy (by rw [same] at h; simpa using Or.inr (List.mem_map.mp h)))
    have filters (l : List Entry) : (l.filter (fun y => !(es.map Entry.id).contains (ownerId y))).map Entry.unmarked
        = (l.map Entry.unmarked).filter (fun y => !(es.map Entry.id).contains (ownerId y)) := by
      rw [List.filter_map]
      rfl
    rw [show s.removeOwners (e :: es) = (s.removeOwner e).removeOwners es from rfl, rest, filters, first, ← filters,
      List.filter_filter]
    congr 1
    refine List.filter_congr (fun y _ => ?_)
    simp [Bool.and_comm, eq_comm]

theorem State.removeOwners_ids (es : List Entry) {s : State} (unique : (s.text.allEntries.map Entry.id).Nodup)
    (owned : s.text.work.Owned)
    (char : ∀ y ∈ s.text.work.entries, y.id ∈ es.map Entry.id → y.kind = .character) :
    (s.removeOwners es).text.work.entries.map Entry.id
      = (s.text.work.entries.filter (fun y => !(es.map Entry.id).contains (ownerId y))).map Entry.id := by
  have names (l : List Entry) : l.map Entry.id = (l.map Entry.unmarked).map Entry.id := by rw [List.map_map]; rfl
  rw [names, State.removeOwners_unmarked es unique owned char, ← names]

theorem State.completeItem_waiting (s : State) (e : Entry) : (s.completeItem e).text.waiting = s.text.waiting := by
  unfold State.completeItem
  split
  · dsimp only
    split <;> rfl
  · rfl

@[simp] theorem State.removeOwners_waiting (es : List Entry) (s : State) :
    (s.removeOwners es).text.waiting = s.text.waiting := by
  induction es generalizing s with
  | nil => rfl
  | cons e es ih => exact (ih (s.removeOwner e)).trans (State.completeItem_waiting _ e)

/-! ## CLEAR at the engine (R74) -/

@[simp] theorem State.startHoming_text (s : State) (k : HomingKind) : (s.startHoming k).text = s.text := rfl

@[simp] theorem State.startHoming_intake (s : State) (k : HomingKind) : (s.startHoming k).intake = s.intake := rfl

@[simp] theorem State.clearEngine_text (s : State) : s.clearEngine.text = s.text := by
  unfold State.clearEngine
  split
  · simp [apply_ite State.text]
  · rfl
  · rfl

@[simp] theorem State.clearEngine_intake (s : State) : s.clearEngine.intake = s.intake := by
  unfold State.clearEngine
  split
  · simp [apply_ite State.intake]
  · rfl
  · rfl

theorem State.clearEngine_moving {s : State} (h : s.engine.state ≠ .halted) :
    s.clearEngine = { s with line := if s.engine.state = .locked then s.line.sound .click else s.line } := by
  unfold State.clearEngine
  cases state : s.engine.state <;> first | rfl | exact absurd state h

/-- In HALTED the fault code and its message go, but for a WHEEL that its hold reason keeps, and a full homing begins. -/
theorem State.clearEngine_halted {s : State} (h : s.engine.state = .halted) :
    s.clearEngine.drive = s.drive.releaseLifts
      ∧ s.clearEngine.engine =
        { s.engine with
          state := .homing, fault := .clear, rehome := false, homing := some { kind := .clear, phase := .carriageDue } }
      ∧ s.clearEngine.display =
        (if s.engine.fault = .wheelLost ∧ s.engine.holds.wheel = true then s.display
          else s.display.unpost s.engine.fault.message) := by
  unfold State.clearEngine
  rw [h]
  dsimp only
  split <;> refine ⟨rfl, rfl, rfl⟩

theorem FaultCode.message_eq (f : FaultCode) : f.message = if f = .wheelLost then .wheel else .stall := by
  cases f <;> rfl

end Sys2Proof.Machine

open Sys2Proof Sys2Proof.Machine

/-- Settles O30. -/
theorem clearActs : Obligations.ClearActs := by
  intro s live rostered opened
  have acts : s.clear = s.frameEnd.clearText.clearEngine.clearDisplay := State.intakeFrame_opened rostered opened _
  refine ⟨fun alone moving => exec_finish live rfl (acts.trans ?_), fun alone halted => ?_, fun h run running unique owned => ?_⟩
  · have text : s.frameEnd.clearText = s.frameEnd.edited := by rw [State.clearText, show s.frameEnd.text.run = none from alone]
    rw [text, State.clearEngine_moving (show s.frameEnd.edited.engine.state ≠ .halted from moving)]
    rfl
  · refine ⟨_, exec_finish live rfl acts, ?_⟩
    have text : s.frameEnd.clearText = s.frameEnd.edited := by rw [State.clearText, show s.frameEnd.text.run = none from alone]
    rw [text]
    obtain ⟨drive, engine, display⟩ := State.clearEngine_halted (s := s.frameEnd.edited) halted
    refine ⟨?_, ?_, drive, engine, ?_⟩
    · exact State.clearEngine_text _
    · exact State.clearEngine_intake _
    · rw [State.clearDisplay, display, FaultCode.message_eq]
      rfl
  · refine ⟨_, exec_finish live rfl acts, ?_⟩
    have text : s.frameEnd.clearText
        = (let u := s.frameEnd.edited.removeOwners (s.frameEnd.edited.runChars h)
           { u with text := { u.text with pp := h.startPp, run := none } }) := by
      rw [State.clearText, show s.frameEnd.text.run = some h from run]
    have names := State.removeOwners_ids (s.frameEnd.edited.runChars h) (s := s.frameEnd.edited) unique owned
      (fun y hy hid => ?_)
    · have settings := (State.removeOwners_follows s.frameEnd.edited (s.frameEnd.edited.runChars h)).settings
      have intake := (State.removeOwners_follows s.frameEnd.edited (s.frameEnd.edited.runChars h)).intake
      refine ⟨?_, ?_, ?_, ?_, ?_, ?_⟩ <;>
        simp only [State.clearDisplay, State.clearEngine_text, State.clearEngine_intake, text]
      · exact settings
      · exact State.removeOwners_waiting _ _
      · exact intake
      · exact names
    · obtain ⟨x, hx, same⟩ := List.mem_map.mp hid
      obtain ⟨mem, char⟩ := LineRecord.mem_chars.mp (List.mem_filter.mp hx).1
      exact eq_of_id unique (List.mem_append_left _ hy) (List.mem_append_left _ mem) same.symm ▸ char
end

section
/-! SUPPORT. HERE, the roll call and the roster. -/

-- One proof after another: the check's process cannot start a thread for each.
set_option Elab.async false

namespace Sys2Proof.Machine

/-! ## The roster (R188) -/

theorem LineInterface.station?_some {l : LineInterface} {c : StationClass} {e : RosterEntry} (h : l.station? c = some e) :
    e ∈ l.roster ∧ e.cls = c :=
  ⟨List.mem_of_find?_eq_some h, by simpa using List.find?_some (p := fun x : RosterEntry => decide (x.cls = c)) h⟩

/-- The mark of one class for a station that has been heard, if it is the class's (R178). -/
def State.markHeard (s acc : State) (n : Nat) (c : StationClass) : State :=
  match s.line.station? c with
  | some e => if e.number = n then acc.markPresent c else acc
  | none => acc

theorem State.heardFrom_eq (s : State) (n : Nat) : s.heardFrom n = s.markHeard (s.markHeard s n .power) n .cartridge := rfl

/-- A station of a number that no roster entry bears marks none (R178). -/
theorem State.heardFrom_stranger {s : State} {n : Nat} (h : ∀ e ∈ s.line.roster, e.number ≠ n) : s.heardFrom n = s := by
  have none (acc : State) (c : StationClass) : s.markHeard acc n c = acc := by
    unfold State.markHeard
    cases hc : s.line.station? c with
    | none => rfl
    | some e => exact if_neg (h e (LineInterface.station?_some hc).1)
  rw [State.heardFrom_eq, none, none]

/-- A station of the number of one roster entry marks that entry, if it is a power station or a cartridge (R178). -/
theorem State.heardFrom_station {s : State} {n : Nat} {e : RosterEntry} (he : s.line.station? e.cls = some e)
    (number : e.number = n) (unique : ∀ x ∈ s.line.roster, x.number = n → x = e) :
    s.heardFrom n = if e.cls = .power ∨ e.cls = .cartridge then s.markPresent e.cls else s := by
  have marks (acc : State) (c : StationClass) : s.markHeard acc n c = if e.cls = c then acc.markPresent c else acc := by
    unfold State.markHeard
    by_cases own : e.cls = c
    · rw [← own, he]
      simp [number]
    · rw [if_neg own]
      cases hc : s.line.station? c with
      | none => rfl
      | some x =>
        obtain ⟨mem, cls⟩ := LineInterface.station?_some hc
        exact if_neg (fun h => own (unique x mem h ▸ cls))
  rw [State.heardFrom_eq, marks, marks]
  cases e.cls <;> rfl

/-- A mark leaves the numbers of the roster (R192, R193). -/
theorem State.markPresent_numbers (s : State) (c : StationClass) :
    (s.markPresent c).line.roster.map RosterEntry.number = s.line.roster.map RosterEntry.number := by
  unfold State.markPresent
  split
  · split
    · simp only [LineInterface.setStatus, List.map_map]
      refine List.map_congr_left (fun x _ => ?_)
      exact (apply_ite RosterEntry.number _ _ _).trans (ite_self _)
    · rfl
  · rfl

theorem State.markPresent_silent {s : State} {c : StationClass} {e : RosterEntry} (he : s.line.station? c = some e)
    (silent : e.status = .silent) (up : s.supply.phase = .running) :
    s.markPresent c =
      { s with
        line := { s.line.setStatus c .present with silenceRunning := s.line.silenceRunning || decide (c = .power) } } := by
  simp [State.markPresent, he, silent, State.isDown, up, LineInterface.setStatus]

theorem State.markPresent_stands {s : State} {c : StationClass} {e : RosterEntry} (he : s.line.station? c = some e)
    (h : ¬(e.status = .silent ∧ s.supply.phase = .running)) : s.markPresent c = s := by
  have stands : ¬(e.status = .silent ∧ s.isDown = false) := by simpa [State.isDown] using h
  simp only [State.markPresent, he, if_neg stands]

/-! ## HERE (R190) -/

/-- A HERE of a number in the roster claims nothing. -/
theorem State.takeHere_listed {s : State} {n : Nat} (h : n ∈ s.line.roster.map RosterEntry.number) (cls variant : Byte) :
    s.takeHere n cls variant = s := by
  have listed : s.line.roster.any (fun e => decide (e.number = n)) = true := by simpa using h
  unfold State.takeHere
  split
  · split
    · rfl
    · rfl
  · rfl

theorem State.takeHere_claims {s : State} {n : Nat} {cls variant : Byte} {c : StationClass} (opened : s.line.rosterOpen = true)
    (called : s.line.firstCallSent = true) (own : n ≠ s.line.station) (hc : hereClass cls = some c)
    (stranger : ∀ e ∈ s.line.roster, e.number ≠ n) :
    s.takeHere n cls variant = { s with line := s.line.claim n c variant !s.isDown } := by
  have unlisted : ¬s.line.roster.any (fun e => decide (e.number = n)) = true := by simpa using stranger
  unfold State.takeHere
  rw [if_pos ⟨opened, called, own⟩, hc]
  exact if_neg unlisted

/-! ## The roster closes (R160, R191) -/

theorem LineInterface.hasSender_eq_false {l : LineInterface} (keyboard : l.rostered .keyboard = false)
    (interface : l.rostered .interface = false) : l.hasSender = false := by
  simp [LineInterface.hasSender, keyboard, interface]

/-- A CLOSED intake unit opens with RELEASE and its decimal character; otherwise nothing changes (R159, R160). -/
theorem State.intakeOpens_eq (s : State) :
    s.intakeOpens =
      { s with
        intake :=
          if s.intake.state = .closed then { s.intake with state := .opened, decimal := s.line.decimal } else s.intake,
        line := if s.intake.state = .closed then s.line.flowFrame .release else s.line } := by
  unfold State.intakeOpens
  cases h : s.intake.state <;> rfl

/-- Without a power station the ceiling is 2, and a change of it asks for a STATE (R194, R198). -/
theorem State.loseSupply_eq (s : State) :
    s.loseSupply =
      { s with
        supply := { s.supply with source := none, limit := 2, ceiling := 2, sagRunning := false },
        line := if s.supply.ceiling = 2 then s.line else s.line.askState } := rfl

/-- The roster closes: the intake unit hears of it, START goes, a missing keyboard is posted, and the supply of an absent power station
is lost; a STATE is asked for (R160, R191, R198). -/
theorem State.rosterCloses_eq (s : State) :
    s.rosterCloses =
      { s with
        intake :=
          if s.intake.state = .closed then { s.intake with state := .opened, decimal := s.line.decimal } else s.intake,
        display :=
          if s.line.rostered .keyboard then s.display.unpost .start else (s.display.unpost .start).post .noKeyboard,
        supply :=
          if s.line.rostered .power then s.supply
          else { s.supply with source := none, limit := 2, ceiling := 2, sagRunning := false },
        line :=
          (let closed : LineInterface := { s.line with rosterOpen := false }
           let opened := if s.intake.state = .closed then closed.flowFrame .release else closed
           if s.line.rostered .power = false ∧ s.supply.ceiling ≠ 2 then opened.askState else opened).askState } := by
  have roster (c : StationClass) :
      LineInterface.rostered (if s.intake.state = .closed then ({ s.line with rosterOpen := false } : LineInterface).flowFrame .release
        else { s.line with rosterOpen := false }) c = s.line.rostered c := by
    split <;> rfl
  unfold State.rosterCloses
  simp only [State.intakeOpens_eq, State.loseSupply_eq]
  cases keyboard : s.line.rostered .keyboard <;> cases power : s.line.rostered .power <;>
    simp [State.post, State.unpost, State.askState, roster, keyboard, power, apply_ite LineInterface.askState] <;> rfl

end Sys2Proof.Machine

open Sys2Proof Sys2Proof.Machine

/-- Settles O31: the sender's mark comes before the claim, and a number that the roster bears claims nothing. -/
theorem hereClaims : Obligations.HereClaims := by
  intro s n cls variant live small own heard
  have frame : s.hereFrame n cls variant = (s.frameEnd.heardFrom n).takeHere n cls variant := if_pos ⟨small, own⟩
  refine ⟨fun e he number unique => ?_, fun stranger => ⟨fun c opened called hc lower => ?_, fun shut => ?_⟩⟩
  · have mem : n ∈ s.line.roster.map RosterEntry.number :=
      List.mem_map.mpr ⟨e, (LineInterface.station?_some he).1, number⟩
    have heardNow := State.heardFrom_station (s := s.frameEnd) he number unique
    refine ⟨fun ⟨silent, marked, up⟩ => exec_finish live rfl (frame.trans ?_), fun stays => exec_finish live rfl (frame.trans ?_)⟩
    · rw [heardNow, if_pos marked, State.takeHere_listed ((State.markPresent_numbers s.frameEnd e.cls).symm ▸ mem),
        State.markPresent_silent (s := s.frameEnd) he silent up]
      rfl
    · have none : s.frameEnd.heardFrom n = s.frameEnd := by
        rw [heardNow]
        split
        · next marked => exact State.markPresent_stands (s := s.frameEnd) he (fun ⟨silent, up⟩ => stays ⟨silent, marked, up⟩)
        · rfl
      rw [none, State.takeHere_listed (s := s.frameEnd) mem]
      rfl
  · refine exec_finish live rfl (frame.trans ?_)
    rw [State.heardFrom_stranger (s := s.frameEnd) stranger, State.takeHere_claims (s := s.frameEnd) opened called own hc stranger]
    unfold LineInterface.claim
    cases hs : s.frameEnd.line.station? c with
    | none => rfl
    | some x =>
      dsimp only
      rw [if_pos (lower x hs)]
      rfl
  · refine exec_finish live rfl (frame.trans ?_)
    rw [State.heardFrom_stranger (s := s.frameEnd) stranger]
    by_cases taken : s.line.rosterOpen = true ∧ s.line.firstCallSent = true
    · rcases shut with shut | uncalled | unknown | ⟨c, x, hc, hx, higher⟩
      · exact absurd taken.1 (by simp [shut])
      · exact absurd taken.2 (by simp [uncalled])
      · unfold State.takeHere
        rw [unknown]
        exact ite_self _
      · rw [State.takeHere_claims (s := s.frameEnd) taken.1 taken.2 own hc stranger]
        unfold LineInterface.claim
        rw [show s.frameEnd.line.station? c = some x from hx]
        dsimp only
        rw [if_neg (by omega)]
        rfl
    · exact if_neg (fun ⟨opened, called, _⟩ => taken ⟨opened, called⟩)

/-- Settles O32. -/
theorem rollCallRuns : Obligations.RollCallRuns := by
  intro s live
  refine ⟨fun window opened keyboard interface few => ?_, fun window shut => ?_, fun window opened enough => ?_,
    fun due opened room => ?_, fun running => ?_⟩
  · refine exec_finish live rfl ?_
    have more : ¬(s.line.hasSender = true ∨ 8 ≤ s.line.callsMade) := by
      simp [LineInterface.hasSender_eq_false keyboard interface, few]
    simp only [State.windowEnd, window, opened, if_neg more]
    rfl
  · refine exec_finish live rfl ?_
    simp [State.windowEnd, window, shut]
  · intro decimal closed opened' lost
    refine exec_finish live rfl ?_
    have closes : s.line.hasSender = true ∨ 8 ≤ s.line.callsMade := by
      simpa [LineInterface.hasSender, or_assoc] using enough
    have begins : s.windowEnd = State.rosterCloses { s with line := { s.line with window := false } } := by
      simp only [State.windowEnd, window, opened, if_pos closes]
      rfl
    rw [begins, State.rosterCloses_eq]
    rfl
  · refine exec_finish live rfl ?_
    simp [State.nextRollCall, due, opened, LineInterface.rollCall, LineInterface.hasPlace, room, LineInterface.join]
  · intro silent
    refine exec_finish live rfl ?_
    simp only [State.silenceExpiry, running]
    rfl
end

section
/-! SUPPORT. The receiver: coding errors at their place in a reception, the frame end, and dropped frames with their senders. -/

-- One proof after another: the check's process cannot start a thread for each.
set_option Elab.async false

namespace Sys2Proof.Machine

/-! ## Receptions (R175, R176) -/

theorem readInterval_out_of_range {d : Nat} (bad : d < 48 ∨ 224 < d) (e : Edge) : readInterval e d = none := if_pos bad

/-- An interval that no coding allows makes an error, wherever it stands. -/
theorem readIntervals_out_of_range {ds : List Nat} {d : Nat} (mem : d ∈ ds) (bad : d < 48 ∨ 224 < d) (e : Edge)
    (bits : List Bool) : readIntervals e bits ds = none := by
  induction ds generalizing e bits with
  | nil => cases mem
  | cons x xs ih =>
    unfold readIntervals
    cases h : readInterval e x with
    | none => rfl
    | some r =>
      have other : d ∈ xs := by
        rcases List.mem_cons.mp mem with rfl | other
        · rw [readInterval_out_of_range bad] at h
          cases h
        · exact other
      obtain ⟨e', b⟩ := r
      cases b with
      | none => exact ih other e' bits
      | some b => exact ih other e' (bits ++ [b])

/-- The frame goes on at least as far as the released intervals stay below 2 cells. -/
theorem mem_frameOf : ∀ (l : List Nat) (i d : Nat), l[i]? = some d →
    (∀ j x : Nat, j < i → j % 2 = 1 → l[j]? = some x → x < 320) → (i % 2 = 1 → d < 320) → d ∈ frameOf l
  | [], i, d, h, _, _ => by simp at h
  | [x], i, d, h, _, _ => by
    rw [show frameOf [x] = [x] from rfl]
    exact List.mem_of_getElem? h
  | low :: released :: rest, i, d, h, short, odd => by
    have go (released_short : released < 320) (later : 2 ≤ i → d ∈ frameOf rest) : d ∈ frameOf (low :: released :: rest) := by
      rw [frameOf, if_neg (Nat.not_le.mpr released_short)]
      match i, h with
      | 0, h => simp at h; simp [h]
      | 1, h => simp at h; simp [h]
      | i + 2, _ => exact List.mem_cons_of_mem _ (List.mem_cons_of_mem _ (later (by omega)))
    match i, h, short, odd, go with
    | 0, h, _, _, _ =>
      have : low = d := by simpa using h
      subst this
      rw [frameOf]
      split <;> simp
    | 1, h, _, odd, go =>
      have : released = d := by simpa using h
      subst this
      exact go (odd rfl) (by omega)
    | i + 2, h, short, odd, go =>
      refine go (short 1 released (by omega) rfl rfl) (fun _ => ?_)
      exact mem_frameOf rest i d (by simpa using h)
        (fun j x hj hodd hx => short (j + 2) x (by omega) (by omega) (by simpa using hx)) (fun h => odd (by omega))

/-- A released interval that reaches 2 cells ends the frame before it. -/
theorem frameOf_append : ∀ (frame rest : List Nat) (d : Nat), frame.length % 2 = 1 → 320 ≤ d →
    (∀ j x : Nat, j % 2 = 1 → frame[j]? = some x → x < 320) → frameOf (frame ++ d :: rest) = frame ∧ frameOf frame = frame
  | [], _, _, odd, _, _ => by simp at odd
  | [x], rest, d, _, long, _ => by
    refine ⟨?_, rfl⟩
    rw [List.cons_append, List.nil_append, frameOf, if_pos long]
  | low :: released :: frame, rest, d, odd, long, short => by
    have released_short : ¬320 ≤ released := Nat.not_le.mpr (short 1 released rfl rfl)
    obtain ⟨ends, whole⟩ := frameOf_append frame rest d (by simp at odd; omega) long
      (fun j x hj hx => short (j + 2) x (by omega) (by simpa using hx))
    rw [List.cons_append, List.cons_append, frameOf, if_neg released_short, frameOf, if_neg released_short, ends, whole]
    exact ⟨rfl, rfl⟩

theorem hear_of_bad_interval {heard : List Nat} {d : Nat} (mem : d ∈ frameOf heard) (bad : d < 48 ∨ 224 < d) :
    hear heard = .error := by
  unfold hear
  dsimp only
  rw [readIntervals_out_of_range mem bad]

/-! ## Dropped frames (R178) -/

theorem LineInterface.firstFailure_damaged {l : LineInterface} {bytes : List Byte}
    (h : byteSum bytes ≠ 0 ∨ bytes.length ≠ frameLength bytes + 3) :
    l.firstFailure bytes = some 1 ∨ l.firstFailure bytes = some 2 := by
  unfold LineInterface.firstFailure
  by_cases sum : byteSum bytes = 0
  · have length := h.resolve_left (not_not_intro sum)
    exact .inr (by rw [if_neg (not_not_intro sum), if_pos length])
  · exact .inl (if_pos sum)

/-- A whole frame of another station that the controller does not take fails a test from 5 to 8. -/
theorem LineInterface.firstFailure_whole {l : LineInterface} {bytes : List Byte} (sum : byteSum bytes = 0)
    (length : bytes.length = frameLength bytes + 3) (sender : frameSender bytes ≠ l.station)
    (fails : (frameAddressee bytes ≠ l.station ∧ frameAddressee bytes ≠ 15) ∨ takenKind (frameKind bytes) = false
      ∨ (∃ c, kindClass (frameKind bytes) = some c ∧ ∀ e, l.station? c = some e → e.number ≠ frameSender bytes)
      ∨ lengthFits (frameKind bytes) (frameLength bytes) = false) :
    ∃ n, l.firstFailure bytes = some n ∧ 5 ≤ n := by
  unfold LineInterface.firstFailure
  rw [if_neg (not_not_intro sum), if_neg (not_not_intro length), if_neg sender]
  split
  · exact ⟨5, rfl, by decide⟩
  · next addressed =>
    split
    · exact ⟨6, rfl, by decide⟩
    · next taken =>
      have last (other : Bool) (h : other = true ∨ lengthFits (frameKind bytes) (frameLength bytes) = false) :
          ∃ n, (if other = true then some 7
            else if (!lengthFits (frameKind bytes) (frameLength bytes)) = true then some 8 else none) = some n ∧ 5 ≤ n := by
        cases other
        · exact ⟨8, by simp [h.resolve_left (by decide)], by decide⟩
        · exact ⟨7, rfl, by decide⟩
      refine last _ (((fails.resolve_left addressed).resolve_left (by simpa using taken)).imp_left ?_)
      rintro ⟨c, hc, other⟩
      rw [hc]
      cases hs : l.station? c with
      | none => simp [hs]
      | some e => simp [hs, other e hs]

/-- No station is rostered for a kind that Table 9-3 does not name. -/
theorem kindClass_eq_none {kind : Nat} (h : kind ∉ [4, 5, 6, 8, 9, 13]) : kindClass kind = none := by
  unfold kindClass
  split <;> simp_all

theorem State.frameDropped_damaged {s : State} {bytes : List Byte}
    (h : byteSum bytes ≠ 0 ∨ bytes.length ≠ frameLength bytes + 3) : s.frameDropped bytes = s.frameEnd := by
  unfold State.frameDropped
  rcases LineInterface.firstFailure_damaged (l := s.line) h with fails | fails <;> rw [fails] <;> rfl

theorem State.frameDropped_whole {s : State} {bytes : List Byte} {n : Nat} (h : s.line.firstFailure bytes = some n) (late : 5 ≤ n) :
    s.frameDropped bytes = s.frameEnd.heardFrom (frameSender bytes) := by
  unfold State.frameDropped
  rw [h]
  match n, late with
  | n + 5, _ => exact if_pos (by omega)

/-- A station of a class that does not bear the number, or is PRESENT already, takes no mark (R192, R193). -/
theorem State.markHeard_stands {s acc : State} {n : Nat} {c : StationClass} (line : acc.line.station? c = s.line.station? c)
    (h : ∀ e, s.line.station? c = some e → e.number = n → e.status = .present ∨ acc.supply.phase ≠ .running) :
    s.markHeard acc n c = acc := by
  unfold State.markHeard
  cases hs : s.line.station? c with
  | none => rfl
  | some e =>
    dsimp only
    split
    · next number =>
      refine State.markPresent_stands (line.trans hs) (fun ⟨silent, up⟩ => ?_)
      rcases h e hs number with present | down
      · rw [silent] at present; cases present
      · exact down up
    · rfl

theorem State.markHeard_wakes {s acc : State} {n : Nat} {c : StationClass} {e : RosterEntry} (hs : s.line.station? c = some e)
    (number : e.number = n) : s.markHeard acc n c = acc.markPresent c := by
  unfold State.markHeard
  rw [hs]
  exact if_pos number

theorem State.markHeard_stranger {s acc : State} {n : Nat} {c : StationClass}
    (h : ∀ e, s.line.station? c = some e → e.number ≠ n) : s.markHeard acc n c = acc := by
  unfold State.markHeard
  cases hs : s.line.station? c with
  | none => rfl
  | some e => exact if_neg (h e hs)

end Sys2Proof.Machine

open Sys2Proof Sys2Proof.Machine

/-- Settles O35. -/
theorem receiverFollows : Obligations.ReceiverFollows := by
  intro s live now
  refine ⟨fun waiting => exec_finish live rfl (if_pos waiting), fun hunting free => exec_finish live rfl (if_pos ⟨hunting, free⟩),
    fun heard receiving => ⟨fun error => exec_finish live rfl ?_, fun badEnd => exec_finish live rfl ?_,
      fun i d at_i short bad => ?_, fun frame rest d whole odd long short => ?_⟩,
    fun bytes damaged => exec_finish live rfl (State.frameDropped_damaged damaged),
    fun bytes sum length foreign => ?_, exec_finish live rfl rfl, fun stuck => exec_finish live rfl (if_pos stuck),
    exec_finish live rfl rfl⟩
  · simp only [State.codingError, receiving, error]
    rfl
  · simp only [State.codingError, receiving, badEnd]
    rfl
  · exact hear_of_bad_interval (mem_frameOf heard i d at_i short (by omega)) (by omega)
  · obtain ⟨ends, same⟩ := frameOf_append frame rest d odd long short
    rw [hear, hear, whole, ends, same]
  · intro kind sender takes fails
    obtain ⟨n, failure, late⟩ := LineInterface.firstFailure_whole (l := s.line) sum length foreign (by
      rcases fails with addressee | ⟨notHere, unknown⟩ | ⟨x, mem, same, absent⟩ | ⟨x, mem, same, size⟩
      · exact .inl addressee
      · refine .inr (.inl ?_)
        have unlisted : kindClass (frameKind bytes) = none := kindClass_eq_none (by simpa [takes, kind] using unknown)
        simp [takenKind, unlisted, show frameKind bytes ≠ 2 from notHere]
      · refine .inr (.inr (.inl ⟨x.2, ?_, absent⟩))
        rw [show frameKind bytes = x.1 from same]
        simp only [takes, List.mem_cons, List.not_mem_nil, or_false] at mem
        rcases mem with rfl | rfl | rfl | rfl | rfl | rfl <;> rfl
      · refine .inr (.inr (.inr ?_))
        rw [show frameKind bytes = x.1 from same]
        simp only [List.mem_cons, List.not_mem_nil, or_false] at mem
        rcases mem with rfl | rfl | rfl | rfl | rfl | rfl <;> exact decide_eq_false size)
    have dropped := (State.frameDropped_whole failure late).trans (s.frameEnd.heardFrom_eq sender)
    refine ⟨fun present => exec_finish live rfl (dropped.trans ?_),
      fun c d e classes he number silent up other => exec_finish live rfl (dropped.trans ?_)⟩
    · rw [State.markHeard_stands (s := s.frameEnd) rfl (present .power (by simp)), State.markHeard_stands (s := s.frameEnd) rfl (present .cartridge (by simp))]
      rfl
    · rcases classes with ⟨rfl, rfl⟩ | ⟨rfl, rfl⟩
      · rw [State.markHeard_stranger (s := s.frameEnd) other, State.markHeard_wakes (s := s.frameEnd) he number,
          State.markPresent_silent (s := s.frameEnd) he silent up]
        rfl
      · rw [State.markHeard_wakes (s := s.frameEnd) he number, State.markHeard_stranger (s := s.frameEnd) other,
          State.markPresent_silent (s := s.frameEnd) he silent up]
        rfl
end

section
/-! SUPPORT. The transmit queue: what joins it and leaves it, how the wait list is served, and how a transmission begins, ends and
fails. -/

-- One proof after another: the check's process cannot start a thread for each.
set_option Elab.async false

namespace Sys2Proof.Machine

/-! ## Queries (R127, R128) -/

theorem Spelling.tagOut_iff (sp : Spelling) (tag : Nat) : sp.tagOut tag = true ↔ ∃ q ∈ sp.outstanding, q.tag = tag := by
  simp [Spelling.tagOut]

/-- The tag counter advances past the outstanding tags to the first free one. -/
theorem Spelling.freeTag_eq (sp : Spelling) {n t m : Nat} (ht : t < 64) (hm : m ≤ n)
    (busy : ∀ j < m, ∃ q ∈ sp.outstanding, q.tag = (t + j) % 64) (free : ∀ q ∈ sp.outstanding, q.tag ≠ (t + m) % 64) :
    sp.freeTag n t = (t + m) % 64 := by
  induction m generalizing n t with
  | zero =>
    have here : (t + 0) % 64 = t := Nat.mod_eq_of_lt ht
    rw [here] at free ⊢
    cases n with
    | zero => rfl
    | succ n =>
      rw [Spelling.freeTag, if_neg]
      rw [Spelling.tagOut_iff]
      exact fun ⟨q, hq, same⟩ => free q hq same
  | succ m ih =>
    obtain ⟨n, rfl⟩ : ∃ k, n = k + 1 := ⟨n - 1, by omega⟩
    have out : sp.tagOut t = true := by
      obtain ⟨q, hq, same⟩ := busy 0 (by omega)
      exact (sp.tagOut_iff t).mpr ⟨q, hq, same.trans (Nat.mod_eq_of_lt ht)⟩
    rw [Spelling.freeTag, if_pos out, ih (Nat.mod_lt _ (by decide)) (by omega)]
    · omega
    · intro j hj
      obtain ⟨q, hq, same⟩ := busy (j + 1) (by omega)
      exact ⟨q, hq, same.trans (by omega)⟩
    · intro q hq
      rw [show ((t + 1) % 64 + m) % 64 = (t + (m + 1)) % 64 by omega]
      exact free q hq

theorem State.ask_asked (u : State) (r : WordRecord) {c : RosterEntry} (hc : u.line.station? .cartridge = some c) (m : Nat) :
    Asked u r c m (u.ask r) := by
  intro small few busy free
  unfold State.ask
  rw [u.spell.freeTag_eq small few busy free, hc]
  rfl

theorem State.canAsk_iff (s : State) : s.canAsk = true ↔ s.spell.outstanding.length < 4 ∧ s.line.places.length < 8 := by
  simp [State.canAsk, LineInterface.hasPlace]

/-- The wait list is served: its head is asked if it can be. -/
theorem State.serveWait_served (u : State) : Served u u.serveWait := by
  refine ⟨fun empty => ?_, fun id rest r wait record => ⟨fun full => ?_, fun few room c m hc => ?_⟩⟩
  · rw [State.serveWait, empty]
  · have no : ¬u.canAsk = true := by rw [State.canAsk_iff]; omega
    rw [State.serveWait, wait]
    dsimp only
    rw [record]
    exact if_neg no
  · have can : u.canAsk = true := u.canAsk_iff.mpr ⟨few, room⟩
    have asked := State.ask_asked { u with spell := { u.spell with waitList := rest } } r hc m
    have served : u.serveWait = State.ask { u with spell := { u.spell with waitList := rest } } r := by
      rw [State.serveWait, wait]
      dsimp only
      rw [record]
      exact if_pos can
    rw [served]
    exact asked

/-! ## Room in the transmit queue (R183, R185) -/

/-- An owed STATE is queued. -/
theorem State.payState_eq (u : State) :
    u.payState =
      { u with
        line := if u.line.stateOwed = true then ({ u.line with stateOwed := false } : LineInterface).askState else u.line } := by
  unfold State.payState
  cases u.line.stateOwed <;> rfl

theorem State.roomReport_told (u : State) (first : Bool) : RoomTold u first (u.roomReport first) := by
  refine ⟨fun h => ?_, fun h => ?_⟩
  · have paid := u.payState.serveWait_served
    rw [State.payState_eq] at paid
    rw [h, State.roomReport, if_pos rfl, State.payState_eq]
    exact paid
  · rw [h]
    exact ⟨u.serveWait, u.serveWait_served, u.serveWait.payState_eq⟩

theorem LineInterface.inPlace_iff (l : LineInterface) (stamp : Nat) :
    l.inPlace stamp = true ↔ ∃ f ∈ l.places, f.stamp = stamp := by
  simp [LineInterface.inPlace]

theorem LineInterface.inFlow_iff (l : LineInterface) (stamp : Nat) :
    l.inFlow stamp = true ↔ ∃ f, l.flow = some f ∧ f.stamp = stamp := by
  unfold LineInterface.inFlow
  cases l.flow <;> simp

/-- A frame that leaves a place has the room reported, and one that leaves the flow slot has not. -/
theorem State.freePlace_told {s : State} {stamp : Nat} (first : Bool) (h : ∃ f ∈ s.line.places, f.stamp = stamp) :
    RoomTold { s with line := s.line.remove stamp } first (s.freePlace stamp first) := by
  rw [State.freePlace, if_pos ((s.line.inPlace_iff stamp).mpr h)]
  exact State.roomReport_told _ first

theorem State.freePlace_silent {s : State} {stamp : Nat} (first : Bool) (h : ¬∃ f ∈ s.line.places, f.stamp = stamp) :
    s.freePlace stamp first = { s with line := s.line.remove stamp } := by
  rw [State.freePlace, if_neg (mt (s.line.inPlace_iff stamp).mp h)]

theorem LineInterface.askState_callsMade (l : LineInterface) : l.askState.callsMade = l.callsMade := by
  unfold LineInterface.askState
  split
  · rfl
  · split <;> rfl

theorem State.payState_callsMade (u : State) : u.payState.line.callsMade = u.line.callsMade := by
  rw [State.payState_eq]
  dsimp only
  split
  · exact LineInterface.askState_callsMade _
  · rfl

theorem State.serveWait_callsMade (u : State) : u.serveWait.line.callsMade = u.line.callsMade := by
  unfold State.serveWait
  split
  · rfl
  · split
    · rfl
    · split <;> rfl

theorem State.freePlace_callsMade (s : State) (stamp : Nat) (first : Bool) :
    (s.freePlace stamp first).line.callsMade = s.line.callsMade := by
  unfold State.freePlace State.roomReport
  cases first <;> dsimp only <;> split <;>
    simp only [State.payState_callsMade, State.serveWait_callsMade, if_true, Bool.false_eq_true, if_false] <;> rfl

/-! ## What joins the transmit queue (R185, R186) -/

theorem LineInterface.stateWaits_iff (l : LineInterface) :
    l.stateWaits = true ↔ ∃ f ∈ l.places, f.kind = .state ∧ ∀ x, l.sending = some x → x.frame.stamp ≠ f.stamp := by
  unfold LineInterface.stateWaits LineInterface.isSending
  cases l.sending <;> simp

theorem LineInterface.soundWaits_iff (l : LineInterface) (p : Sound) :
    l.soundWaits p = true ↔ ∃ f ∈ l.places, ∃ n, f.kind = .sound p n := by
  unfold LineInterface.soundWaits
  rw [List.any_eq_true]
  refine exists_congr (fun f => and_congr_right (fun _ => ?_))
  cases f.kind <;> simp

end Sys2Proof.Machine

open Sys2Proof Sys2Proof.Machine

/-- Settles O36: the first frame is the one that the clause names, and its gap the one of its class. -/
theorem transmissionBegins : Obligations.TransmissionBegins := by
  refine ⟨fun s quiet live busy => ?_, fun s f quiet live up waiting free idle => ?_⟩
  · refine exec_finish live rfl (if_neg ?_)
    rintro ⟨waiting, free, idle, up⟩
    have running : s.supply.phase = .running := by simpa [State.isDown] using up
    rcases busy with h | h | h | h
    · exact h waiting
    · exact absurd (free.symm.trans h) (by decide)
    · exact h idle
    · exact h running
  · intro begun normal
    have may : s.line.receiver = .waiting ∧ s.line.stuck = false ∧ s.line.sending = none ∧ s.isDown = false :=
      ⟨waiting, free, idle, by simp [State.isDown, up]⟩
    have goes {gap : Nat} (first : s.line.firstFrame = some f) (hgap : s.line.gap f.kind = gap) :
        (gap ≤ quiet → exec (.beginTransmission quiet) s = .next (begun.finish s))
          ∧ (quiet < gap → exec (.beginTransmission quiet) s = .next (s.finish s)) := by
      have begins : s.beginTransmission quiet = if s.line.gap f.kind ≤ quiet then begun else s := by
        rw [State.beginTransmission, if_pos may, first]
      rw [hgap] at begins
      exact ⟨fun h => exec_finish live rfl (begins.trans (if_pos h)),
        fun h => exec_finish live rfl (begins.trans (if_neg (Nat.not_le.mpr h)))⟩
    have usual (kind : f.kind ≠ .hold) : s.line.gap f.kind = normal := by
      cases h : f.kind <;> first | rfl | exact absurd h kind
    refine ⟨fun flow hold => goes ?_ (by rw [hold]; rfl), fun head kind behind => goes ?_ (usual kind),
      fun flow kind before => goes ?_ (usual kind), fun flow empty => ?_⟩
    · simp [LineInterface.firstFrame, flow, hold]
    · obtain ⟨rest, places⟩ := List.head?_eq_some_iff.mp head
      rcases behind with none | ⟨g, flow, urgent, later⟩
      · simp [LineInterface.firstFrame, none, head]
      · simp [LineInterface.firstFrame, flow, urgent, places, Nat.not_lt.mpr later]
    · cases places : s.line.places with
      | nil => simp [LineInterface.firstFrame, flow, places]
      | cons g rest => simp [LineInterface.firstFrame, flow, kind, places, before g (by rw [places]; rfl)]
    · refine exec_finish live rfl ?_
      have none : s.line.firstFrame = none := by simp [LineInterface.firstFrame, flow, empty]
      rw [State.beginTransmission, if_pos may, none]

/-- Settles O38: the frame leaves by its stamp, and the room of a place is reported. -/
theorem frameSentLeaves : Obligations.FrameSentLeaves := by
  refine ⟨fun l => ?_, fun s x first live sending => ?_⟩
  · intro joined waits
    have hwaits : l.stateWaits = true ↔ waits := l.stateWaits_iff
    have room : l.hasPlace = true ↔ l.places.length < 8 := by simp [LineInterface.hasPlace]
    refine ⟨fun h => if_pos (hwaits.mpr h), fun h free => ?_, fun h full => ?_, fun p => ?_, fun k => rfl,
      fun free => if_pos (room.mpr free), fun full => if_neg (mt room.mp (Nat.not_lt.mpr full))⟩
    · rw [LineInterface.askState, if_neg (mt hwaits.mp h), if_pos (room.mpr free)]
      rfl
    · rw [LineInterface.askState, if_neg (mt hwaits.mp h), if_neg (mt room.mp (Nat.not_lt.mpr full))]
    · intro held
      have hheld : l.soundWaits p = true ↔ held := l.soundWaits_iff p
      refine ⟨fun dropped => ?_, fun k keyboard free room' => ?_⟩
      · unfold LineInterface.sound
        cases station : l.station? .keyboard with
        | none => rfl
        | some k =>
          obtain ⟨mem, cls⟩ := LineInterface.station?_some station
          refine if_pos ?_
          rw [Bool.or_eq_true, Bool.not_eq_true', ← Bool.not_eq_true, hheld, room]
          rcases dropped with none | h | full
          · exact absurd cls (none k mem)
          · exact .inl h
          · exact .inr (Nat.not_lt.mpr full)
      · unfold LineInterface.sound
        rw [show l.station? .keyboard = some k from keyboard]
        refine if_neg ?_
        rw [Bool.or_eq_true, Bool.not_eq_true', ← Bool.not_eq_true, hheld, room]
        exact not_or.mpr ⟨free, not_not_intro room'⟩
  · intro ended called left
    have sent : s.frameSent first = State.freePlace { s with line := called } x.frame.stamp first := by
      rw [State.frameSent, sending]
      dsimp only
      congr 1
      by_cases call : x.frame.kind = .rollCall
      · simp only [called, if_pos call]; rfl
      · simp only [called, if_neg call]; rfl
    have places : called.places = s.line.places := by simp only [called]; split <;> rfl
    have flow : called.flow = s.line.flow := by simp only [called]; split <;> rfl
    have gone : ({ s with line := called.remove x.frame.stamp } : State) = left := by
      simp only [LineInterface.remove, places, flow, left]
    refine ⟨fun absent => exec_finish live rfl ?_, fun present => ⟨_, exec_finish live rfl sent, ?_⟩⟩
    · rw [sent, State.freePlace_silent first (by
        rintro ⟨f, mem, same⟩
        exact absent f (by rwa [← places]) same)]
      exact gone
    · rw [← gone]
      exact State.freePlace_told (s := { s with line := called }) first (by rwa [places])

/-- Settles O39: what a lost frame does follows from where its stamp stands and from its losses. -/
theorem lossesCount : Obligations.LossesCount := by
  intro s x first live sending n stopped left inPlace freed gives
  have effect {t : State} (h : s.arbitrationLoss first = t) : gives t := exec_finish live rfl h
  have frees (l : LineInterface) (places : l.places = s.line.places) :
      freed (l.remove n) (State.freePlace { s with line := l } n first) := by
    refine ⟨fun present => ?_, fun absent => ?_⟩
    · exact State.freePlace_told (s := { s with line := l }) first (by rwa [places])
    · exact State.freePlace_silent (s := { s with line := l }) first (by rwa [places])
  have stands (h : x.frame ∈ s.line.places ∨ s.line.flow = some x.frame) :
      ¬(s.line.inPlace n = false ∧ s.line.inFlow n = false) := by
    rw [← Bool.not_eq_true, ← Bool.not_eq_true, s.line.inPlace_iff, s.line.inFlow_iff]
    rintro ⟨notPlace, notFlow⟩
    rcases h with mem | flow
    · exact notPlace ⟨x.frame, mem, rfl⟩
    · exact notFlow ⟨x.frame, flow, rfl⟩
  have later : s.line.laterState n = true ↔ ∃ f ∈ s.line.places, f.kind = .state ∧ f.stamp ≠ n := by
    simp [LineInterface.laterState]
  refine ⟨fun noPlace noFlow => effect ?_, fun mem kind followed => ?_, fun mem alone => ⟨fun few => effect ?_, fun many => ?_⟩⟩
  · rw [State.arbitrationLoss, sending]
    refine if_pos ⟨?_, ?_⟩
    · rw [← Bool.not_eq_true, s.line.inPlace_iff]
      rintro ⟨f, hf, same⟩
      exact noPlace f hf same
    · rw [← Bool.not_eq_true, s.line.inFlow_iff]
      rintro ⟨f, hf, same⟩
      exact noFlow f hf same
  · refine ⟨_, frees stopped rfl, effect ?_⟩
    rw [State.arbitrationLoss, sending]
    dsimp only
    rw [if_neg (stands (.inl mem)), if_pos ⟨kind, later.mpr followed⟩]
  · have last : ¬(x.frame.kind = .state ∧ s.line.laterState n = true) := by
      rintro ⟨kind, h⟩
      obtain ⟨f, hf, state, other⟩ := later.mp h
      exact other (alone kind f hf state)
    rw [State.arbitrationLoss, sending]
    dsimp only
    rw [if_neg (stands mem), if_neg last, if_neg (by omega)]
    rfl
  · have last : ¬(x.frame.kind = .state ∧ s.line.laterState n = true) := by
      rintro ⟨kind, h⟩
      obtain ⟨f, hf, state, other⟩ := later.mp h
      exact other (alone kind f hf state)
    have discards (l : LineInterface) (hl : (if x.frame.kind = .state then
          ({ s with line := { stopped with stateOwed := true } } : State) else { s with line := stopped }) = { s with line := l }) :
        s.arbitrationLoss first = (State.freePlace { s with line := l } n first).discarded x.frame.kind := by
      rw [State.arbitrationLoss, sending]
      dsimp only
      rw [if_neg (stands mem), if_neg last, if_pos (by omega), ← hl]
    refine ⟨fun kind => ⟨_, frees stopped rfl, effect ?_⟩, fun kind => ⟨_, frees stopped rfl, effect ?_⟩,
      fun kind _ => ⟨_, frees { stopped with stateOwed := true } rfl, effect ?_⟩,
      fun tag ls c kind => ⟨_, frees stopped rfl, effect ?_⟩⟩
    · rw [discards stopped (by rw [kind]; rfl), kind, ← State.freePlace_callsMade { s with line := stopped } n first]
      rfl
    · rw [discards stopped (if_neg (by rcases kind with h | h | ⟨p, m, h⟩ <;> rw [h] <;> simp))]
      rcases kind with h | h | ⟨p, m, h⟩ <;> rw [h] <;> rfl
    · rw [discards { stopped with stateOwed := true } (if_pos kind), kind]
      rfl
    · rw [discards stopped (by rw [kind]; rfl), kind]
      rfl
end

section
/-! SUPPORT. Verdicts on word records: answers, timeouts, and the records that a silent cartridge leaves UNCHECKED. -/

-- One proof after another: the check's process cannot start a thread for each.
set_option Elab.async false

namespace Sys2Proof.Machine

/-! ## Spell marks (R132) -/

/-- A record with the mark set on some CHARACTER entries and their companions. -/
def LineRecord.marked (r : LineRecord) (ids : List Nat) (m : SpellMark) : LineRecord :=
  { r with entries := r.entries.map (fun e => if ids.contains (ownerId e) then { e with mark := m } else e) }

theorem TextUnit.setMarks_eq (t : TextUnit) (ids : List Nat) (m : SpellMark) :
    t.setMarks ids m = t.mapRecords (fun r => r.marked ids m) := rfl

theorem LineRecord.marked_marked {r : LineRecord} {a b c : List Nat} {m : SpellMark} (h : ∀ i, i ∈ c ↔ i ∈ a ∨ i ∈ b) :
    (r.marked a m).marked b m = r.marked c m := by
  simp only [LineRecord.marked, List.map_map]
  congr 1
  refine List.map_congr_left (fun e _ => ?_)
  have owner : ownerId ({ e with mark := m } : Entry) = ownerId e := rfl
  by_cases ha : ownerId e ∈ a <;> by_cases hb : ownerId e ∈ b <;> simp [h, ha, hb, owner]

theorem LineRecord.marked_nil (r : LineRecord) (m : SpellMark) : r.marked [] m = r := by simp [LineRecord.marked]

theorem TextUnit.mapRecords_mapRecords (t : TextUnit) (f g : LineRecord → LineRecord) :
    (t.mapRecords f).mapRecords g = t.mapRecords (fun r => g (f r)) := by
  simp only [TextUnit.mapRecords, Option.map_map]
  rfl

/-- Marks set twice are those of both lists. -/
theorem TextUnit.setMarks_setMarks {t : TextUnit} {a b c : List Nat} {m : SpellMark} (h : ∀ i, i ∈ c ↔ i ∈ a ∨ i ∈ b) :
    (t.setMarks a m).setMarks b m = t.setMarks c m := by
  simp only [TextUnit.setMarks_eq, TextUnit.mapRecords_mapRecords, LineRecord.marked_marked h]

theorem TextUnit.setMarks_nil (t : TextUnit) (m : SpellMark) : t.setMarks [] m = t := by
  simp only [TextUnit.setMarks_eq, LineRecord.marked_nil, TextUnit.mapRecords]
  cases h : t.print <;> simp [← h]

/-! ## Records that are settled (R128 to R131) -/

theorem Spelling.record?_some {sp : Spelling} {id : Nat} {r : WordRecord} (h : sp.record? id = some r) :
    r ∈ sp.records ∧ r.id = id :=
  ⟨List.mem_of_find?_eq_some h, by simpa using List.find?_some (p := fun x : WordRecord => decide (x.id = id)) h⟩

theorem Spelling.record?_none {sp : Spelling} {id : Nat} (h : sp.record? id = none) : ∀ r ∈ sp.records, r.id ≠ id := by
  simpa [Spelling.record?] using h

/-- Some records leave the wait list as UNCHECKED: their marks are set, and the image is marked dirty if there are any. -/
def State.unchecked (u : State) (ids : List Nat) : State :=
  let hit (y : WordRecord) : Bool := ids.contains y.id
  { u with
    spell :=
      { u.spell with
        records := u.spell.records.map (fun y => if hit y = true then { y with state := .unchecked } else y),
        waitList := u.spell.waitList.filter (fun i => !ids.contains i) },
    text := u.text.setMarks ((u.spell.records.filter hit).flatMap WordRecord.entries) .unchecked,
    display := if u.spell.records.any hit then { u.display with dirty := true } else u.display }

theorem State.unchecked_nil (u : State) : u.unchecked [] = u := by
  simp [State.unchecked, TextUnit.setMarks_nil]

theorem Spelling.setWord_ids (sp : Spelling) (id : Nat) (v : WordState) :
    (sp.setWord id v).records.map WordRecord.id = sp.records.map WordRecord.id := by
  rw [Spelling.setWord, List.map_map]
  exact List.map_congr_left (fun y _ => (apply_ite WordRecord.id _ _ _).trans (ite_self _))

theorem Spelling.setWord_entries (sp : Spelling) (id : Nat) (v : WordState) (f : Nat → Bool) :
    ((sp.setWord id v).records.filter (fun y => f y.id)).flatMap WordRecord.entries
      = (sp.records.filter (fun y => f y.id)).flatMap WordRecord.entries := by
  have same (y : WordRecord) : (if y.id = id then { y with state := v } else y).id = y.id
      ∧ (if y.id = id then { y with state := v } else y).entries = y.entries := by split <;> exact ⟨rfl, rfl⟩
  rw [Spelling.setWord, List.filter_map, List.flatMap_map]
  simp only [Function.comp_def, (same _).1, (same _).2]

/-- A record that is given up, and then the others. -/
theorem State.giveUpWaiting_unchecked {u : State} (unique : (u.spell.records.map WordRecord.id).Nodup) (id : Nat)
    (ids : List Nat) : (u.giveUpWaiting id).unchecked ids = u.unchecked (id :: ids) := by
  have wait : (u.spell.waitList.filter (fun i => decide (i ≠ id))).filter (fun i => !ids.contains i)
      = u.spell.waitList.filter (fun i => !(id :: ids).contains i) := by
    rw [List.filter_filter]
    refine List.filter_congr (fun i _ => ?_)
    by_cases h : i = id <;> simp [h]
  cases record : u.spell.record? id with
  | none =>
    have same (y : WordRecord) (hy : y ∈ u.spell.records) : (id :: ids).contains y.id = ids.contains y.id := by
      simp [Spelling.record?_none record y hy]
    have any : u.spell.records.any (fun y => ids.contains y.id) = u.spell.records.any (fun y => (id :: ids).contains y.id) := by
      rw [Bool.eq_iff_iff, List.any_eq_true, List.any_eq_true]
      exact exists_congr (fun y => and_congr_right (fun hy => by rw [same y hy]))
    have records : u.spell.records.map (fun y => if ids.contains y.id = true then { y with state := .unchecked } else y)
        = u.spell.records.map (fun y => if (id :: ids).contains y.id = true then { y with state := .unchecked } else y) :=
      List.map_congr_left (fun y hy => by rw [same y hy])
    simp only [State.giveUpWaiting, record, State.unchecked, wait, List.filter_congr same, any, records]
  | some r =>
    obtain ⟨mem, name⟩ := Spelling.record?_some record
    let settle (y : WordRecord) : WordRecord := if y.id = r.id then { y with state := .unchecked } else y
    have settle_id (y : WordRecord) : (settle y).id = y.id := (apply_ite WordRecord.id _ _ _).trans (ite_self _)
    have settle_entries (y : WordRecord) : (settle y).entries = y.entries :=
      (apply_ite WordRecord.entries _ _ _).trans (ite_self _)
    have records : (u.spell.records.map settle).map (fun y => if ids.contains y.id = true then { y with state := .unchecked } else y)
        = u.spell.records.map (fun y => if (id :: ids).contains y.id = true then { y with state := .unchecked } else y) := by
      rw [List.map_map]
      refine List.map_congr_left (fun y _ => ?_)
      by_cases own : y.id = id <;> simp [settle, own, name]
    have marked (i : Nat) : i ∈ (u.spell.records.filter (fun y => (id :: ids).contains y.id)).flatMap WordRecord.entries
        ↔ i ∈ r.entries ∨ i ∈ ((u.spell.records.map settle).filter (fun y => ids.contains y.id)).flatMap WordRecord.entries := by
      simp only [List.mem_flatMap, List.mem_filter, List.mem_map, List.contains_iff_mem, List.mem_cons]
      constructor
      · rintro ⟨y, ⟨hy, own | other⟩, hi⟩
        · rw [List.inj_on_of_nodup_map unique hy mem (own.trans name.symm)] at hi
          exact .inl hi
        · exact .inr ⟨settle y, ⟨⟨y, hy, rfl⟩, by rwa [settle_id]⟩, by rwa [settle_entries]⟩
      · rintro (hi | ⟨_, ⟨⟨y, hy, rfl⟩, other⟩, hi⟩)
        · exact ⟨r, ⟨mem, .inl name⟩, hi⟩
        · exact ⟨y, ⟨hy, .inr (by rwa [settle_id] at other)⟩, by rwa [settle_entries] at hi⟩
    have any : u.spell.records.any (fun y => (id :: ids).contains y.id) = true :=
      List.any_eq_true.mpr ⟨r, mem, by simp [name]⟩
    have text := TextUnit.setMarks_setMarks (t := u.text) (m := .unchecked) marked
    have given : u.giveUpWaiting id =
        { u with
          spell := { u.spell with records := u.spell.records.map settle, waitList := u.spell.waitList.filter (fun i => decide (i ≠ id)) },
          text := u.text.setMarks r.entries .unchecked, display := { u.display with dirty := true } } := by
      simp only [State.giveUpWaiting, record]
      rfl
    rw [given]
    simp only [State.unchecked, wait, any, if_true, records, text, ite_self]

theorem State.giveUpWaiting_ids (u : State) (id : Nat) :
    (u.giveUpWaiting id).spell.records.map WordRecord.id = u.spell.records.map WordRecord.id := by
  unfold State.giveUpWaiting
  split
  · rfl
  · exact Spelling.setWord_ids _ _ _

theorem State.foldl_giveUpWaiting (ids : List Nat) {u : State} (unique : (u.spell.records.map WordRecord.id).Nodup) :
    ids.foldl State.giveUpWaiting u = u.unchecked ids := by
  induction ids generalizing u with
  | nil => exact u.unchecked_nil.symm
  | cons id ids ih =>
    rw [List.foldl_cons, ih (by rwa [State.giveUpWaiting_ids]), State.giveUpWaiting_unchecked unique]

/-! ## Timeouts (R130, R131) -/

theorem State.countTimeout_few {s : State} (h : s.spell.timeoutRun < 2) :
    s.countTimeout = { s with spell := { s.spell with timeoutRun := s.spell.timeoutRun + 1 } } := if_neg (by omega)

theorem State.countTimeout_silent {s : State} (h : 2 ≤ s.spell.timeoutRun) (silent : s.line.cartridgeSilent = true) :
    s.countTimeout = { s with spell := { s.spell with timeoutRun := 0 } } :=
  (if_pos (by omega)).trans (if_pos silent)

/-- The third timeout in turn marks the cartridge SILENT, and nothing waits any more. -/
theorem State.countTimeout_third {s : State} (h : 2 ≤ s.spell.timeoutRun) (heard : s.line.cartridgeSilent = false)
    (unique : (s.spell.records.map WordRecord.id).Nodup) :
    s.countTimeout = State.unchecked
      { s with spell := { s.spell with timeoutRun := 0 }, line := s.line.setStatus .cartridge .silent } s.spell.waitList := by
  rw [State.countTimeout, if_pos (by omega), State.silenceCartridge,
    if_neg (show ¬s.line.cartridgeSilent = true by rw [heard]; decide)]
  exact State.foldl_giveUpWaiting _ unique

/-- At fewer than 3 timeouts in turn, or with the cartridge SILENT already, the run alone changes. -/
theorem State.countTimeout_quiet {s : State} (h : s.spell.timeoutRun < 2 ∨ s.line.cartridgeSilent = true) :
    s.countTimeout =
      { s with spell := { s.spell with timeoutRun := if s.spell.timeoutRun < 2 then s.spell.timeoutRun + 1 else 0 } } := by
  by_cases few : s.spell.timeoutRun < 2
  · rw [State.countTimeout_few few, if_pos few]
  · rw [State.countTimeout_silent (Nat.not_lt.mp few) (h.resolve_left few), if_neg few]

/-- With nothing waiting, nothing is asked. -/
theorem State.serveWait_unchecked (u : State) : (u.unchecked u.spell.waitList).serveWait = u.unchecked u.spell.waitList := by
  refine (State.serveWait_served _).1 ?_
  simp [State.unchecked]

/-- A record that is no longer ASKING takes no verdict (R129, R130). -/
theorem State.settleAsking_stands {s : State} {q : Query} (v : WordState)
    (h : ∀ (id : Nat) (r : WordRecord), q.record = some id → s.spell.record? id = some r → r.state ≠ .asking) :
    s.settleAsking q v = s := by
  unfold State.settleAsking
  cases hq : q.record with
  | none => rfl
  | some id =>
    dsimp only
    cases hr : s.spell.record? id with
    | none => rfl
    | some r => exact if_neg (h id r hq hr)

theorem State.settleAsking_settles {s : State} {q : Query} (v : WordState) {id : Nat} {r : WordRecord}
    (hq : q.record = some id) (hr : s.spell.record? id = some r) (asking : r.state = .asking) :
    s.settleAsking q v = s.applyVerdict r v := by
  unfold State.settleAsking
  rw [hq]
  dsimp only
  rw [hr]
  exact if_pos asking

theorem State.queryTimeout_eq {s : State} {tag : Nat} {q : Query}
    (h : s.spell.outstanding.find? (fun q => decide (q.tag = tag)) = some q) :
    s.queryTimeout tag = ((s.takeQuery q).settleAsking q .unchecked).countTimeout.serveWait := by
  rw [State.queryTimeout, h]

/-! ## Answers (R129) -/

/-- A mark in the roster changes the line interface alone. -/
theorem State.markPresent_eq (s : State) (c : StationClass) :
    s.markPresent c = { s with line := (s.markPresent c).line } := by
  unfold State.markPresent
  split
  · split <;> rfl
  · rfl

theorem answerVerdict_some {v : Byte} {w : WordState} (h : (v.toNat = 1 ∧ w = .known) ∨ (v.toNat = 2 ∧ w = .unknown)) :
    answerVerdict v = some w := by
  unfold answerVerdict
  rcases h with ⟨h, rfl⟩ | ⟨h, rfl⟩ <;> rw [h] <;> rfl

theorem answerVerdict_none {v : Byte} (h : v.toNat ≠ 1 ∧ v.toNat ≠ 2) : answerVerdict v = none := by
  unfold answerVerdict
  split <;> simp_all

/-- A WORD_ANSWER from the rostered cartridge of a controller that is not DOWN, as far as the spelling unit. -/
def State.answered (s : State) : State :=
  { s.frameEnd.markPresent .cartridge with spell := { s.spell with timeoutRun := 0 } }

theorem State.wordAnswer_settles {s : State} {tag verdict : Byte} {q : Query} {v : WordState}
    (rostered : s.line.rostered .cartridge = true) (up : s.supply.phase = .running)
    (hq : s.spell.outstanding.find? (fun q => decide (q.tag = tag.toNat)) = some q) (hv : answerVerdict verdict = some v) :
    s.wordAnswer tag verdict = ((s.answered.takeQuery q).settleAsking q v).serveWait := by
  have running : (s.frameEnd.markPresent .cartridge).isDown = false := by simp [State.isDown, up]
  have spell : (s.frameEnd.markPresent .cartridge).spell = s.spell := by rw [State.markPresent_eq]; rfl
  rw [State.wordAnswer, if_pos rostered, State.answer, running, if_neg (by decide), spell, hq, hv]
  rfl

theorem State.wordAnswer_idle {s : State} {tag verdict : Byte} (rostered : s.line.rostered .cartridge = true)
    (up : s.supply.phase = .running)
    (h : s.spell.outstanding.find? (fun q => decide (q.tag = tag.toNat)) = none ∨ answerVerdict verdict = none) :
    s.wordAnswer tag verdict = s.answered := by
  have running : (s.frameEnd.markPresent .cartridge).isDown = false := by simp [State.isDown, up]
  have spell : (s.frameEnd.markPresent .cartridge).spell = s.spell := by rw [State.markPresent_eq]; rfl
  rw [State.wordAnswer, if_pos rostered, State.answer, running, if_neg (by decide), spell]
  rcases h with none | none
  · rw [none]
    rfl
  · rw [none]
    cases s.spell.outstanding.find? (fun q => decide (q.tag = tag.toNat)) <;> rfl

/-! ## The next lookup (R123) -/

/-- The lookup of the first LOOKING record begins. -/
def Spelling.nextLookup (sp : Spelling) : Spelling :=
  { sp with
    lookup := (sp.records.find? (fun y => decide (y.state = .looking))).map (fun y =>
      { record := some y.id, listed := sp.userList.contains y.letters }) }

theorem Spelling.beginLookup_idle {sp : Spelling} (h : sp.lookup = none) : sp.beginLookup = sp.nextLookup := by
  rw [Spelling.beginLookup_eq, h]
  rfl

/-- The lookup of a record ends with its result. -/
theorem State.endLookup_of_record {s : State} {k : Lookup} {r : WordRecord} (under : s.spell.lookup = some k)
    (named : k.record = some r.id) (hr : s.spell.record? r.id = some r) :
    s.endLookup =
      (let t := State.lookupResult { s with spell := { s.spell with lookup := none } } r (s.spell.listGives k r)
       { t with spell := t.spell.beginLookup }) := by
  rw [State.endLookup, under]
  dsimp only
  rw [named]
  dsimp only
  rw [hr]

end Sys2Proof.Machine

open Sys2Proof Sys2Proof.Machine

/-- Settles O33. -/
theorem verdictsSettleWords : Obligations.VerdictsSettleWords := by
  intro s live up
  refine ⟨fun tag verdict id r q v rostered hq named hr asking settles => ?_, fun tag verdict rostered => ?_,
    fun tag q hq stale quiet => ?_, fun tag q hq stale third heard unique => ?_, fun tag id r q hq named hr asking => ?_,
    fun id rest r wait hr => ?_, fun k r under named hr listed now => ?_⟩
  · intro l settled
    have effect : (s.answered.takeQuery q).settleAsking q v = settled := by
      rw [State.settleAsking_settles v (s := s.answered.takeQuery q) named hr asking, State.answered, State.markPresent_eq]
      rcases settles with ⟨-, rfl⟩ | ⟨-, rfl⟩ <;> rfl
    refine ⟨_, exec_finish live rfl (State.wordAnswer_settles rostered up hq (answerVerdict_some settles)), ?_⟩
    rw [effect]
    exact settled.serveWait_served
  · intro heard
    refine ⟨fun idle => exec_finish live rfl (State.wordAnswer_idle rostered up ?_), fun q hq settles stale => ?_⟩
    · exact idle.imp (fun none => by simpa using none) answerVerdict_none
    · obtain ⟨v, hv⟩ : ∃ v, answerVerdict verdict = some v := by
        rcases settles with settles | settles
        · exact ⟨_, answerVerdict_some (.inl ⟨settles, rfl⟩)⟩
        · exact ⟨_, answerVerdict_some (.inr ⟨settles, rfl⟩)⟩
      refine ⟨_, exec_finish live rfl (State.wordAnswer_settles rostered up hq hv), ?_⟩
      rw [State.settleAsking_stands v (s := s.answered.takeQuery q) stale]
      exact State.serveWait_served _
  · refine ⟨_, exec_finish live rfl (State.queryTimeout_eq hq), ?_⟩
    rw [State.settleAsking_stands .unchecked (s := s.takeQuery q) stale, State.countTimeout_quiet (s := s.takeQuery q) quiet]
    exact State.serveWait_served _
  · intro waits
    refine ⟨_, exec_finish live rfl ?_, rfl⟩
    rw [State.queryTimeout_eq hq, State.settleAsking_stands .unchecked (s := s.takeQuery q) stale,
      State.countTimeout_third (s := s.takeQuery q) third heard unique]
    refine (State.serveWait_unchecked _).trans ?_
    simp [State.unchecked, State.takeQuery, waits]
  · intro left
    have settled := State.settleAsking_settles .unchecked (s := s.takeQuery q) named hr asking
    refine ⟨fun quiet => ⟨_, exec_finish live rfl (State.queryTimeout_eq hq), ?_⟩, fun third heard unique =>
      exec_finish live rfl ?_⟩
    · rw [settled, State.countTimeout_quiet (s := (s.takeQuery q).applyVerdict r .unchecked) quiet]
      exact State.serveWait_served _
    · have ids : (((s.takeQuery q).applyVerdict r .unchecked).spell.records.map WordRecord.id).Nodup := by
        have same := s.spell.setWord_ids r.id .unchecked
        exact same ▸ unique
      rw [State.queryTimeout_eq hq, settled,
        State.countTimeout_third (s := (s.takeQuery q).applyVerdict r .unchecked) third heard ids]
      refine (State.serveWait_unchecked _).trans ?_
      have records : (s.spell.setWord r.id .unchecked).records.map (fun y =>
            if s.spell.waitList.contains y.id = true then { y with state := .unchecked } else y)
          = s.spell.records.map (fun y => if y.id = r.id ∨ y.id ∈ s.spell.waitList then { y with state := .unchecked } else y) := by
        rw [Spelling.setWord, List.map_map]
        refine List.map_congr_left (fun y _ => ?_)
        by_cases own : y.id = r.id <;> simp [own]
      have empty : s.spell.waitList.filter (fun i => !s.spell.waitList.contains i) = [] := by simp
      have names := s.spell.setWord_entries r.id .unchecked (fun i => s.spell.waitList.contains i)
      let hit (y : WordRecord) : Bool := s.spell.waitList.contains y.id
      let settled := (s.spell.setWord r.id .unchecked).records
      let dirty : Display := { s.display with dirty := true }
      refine Eq.trans (b := ({ s with
        spell :=
          { s.spell with
            records := settled.map (fun y => if hit y = true then { y with state := .unchecked } else y),
            waitList := s.spell.waitList.filter (fun i => !s.spell.waitList.contains i), timeoutRun := 0, outstanding := left },
        text := (s.text.setMarks r.entries .unchecked).setMarks ((settled.filter hit).flatMap WordRecord.entries) .unchecked,
        display := if settled.any hit then dirty else dirty,
        line := s.line.setStatus .cartridge .silent } : State)) rfl ?_
      rw [records, empty, ite_self]
      simp only [settled, hit, names, dirty]
  · refine exec_finish live rfl ?_
    have own : r.id = id := (Spelling.record?_some hr).2
    simp only [State.waitListTimeout, wait, State.giveUpWaiting, hr, State.applyVerdict]
    simp [Spelling.setWord, verdictMark]
  · intro known
    refine exec_finish live rfl ?_
    rw [State.endLookup_of_record under named hr, Spelling.listGives_of_stands listed now]
    exact congrArg (fun sp : Spelling => ({ s with
      spell := sp, text := s.text.setMarks r.entries .plain, display := { s.display with dirty := true } } : State))
      (Spelling.beginLookup_idle (sp := { s.spell with lookup := none }.setWord r.id .known) rfl)
end

section
/-! SUPPORT. What a lookup knows, and what becomes of the words that it does not. -/

-- One proof after another: the check's process cannot start a thread for each.
set_option Elab.async false

namespace Sys2Proof.Machine

/-! ## The endings of Table 6-2 (R125) -/

/-- The endings whose candidate stems may also take an e or lose a doubled consonant. -/
abbrev Ending.Bends (g : Ending) : Prop := g = .ed ∨ g = .ing ∨ g = .er

theorem Ending.mem_candidates (g : Ending) (c stem : List Nat) :
    stem ∈ g.candidates c ↔ stem = c ∨ g.Bends ∧ (stem = c ++ [101] ∨
      ∃ (d : List Nat) (x : Nat), c = d ++ [x, x] ∧ x ∉ [97, 101, 105, 111, 117] ∧ stem = d ++ [x]) := by
  rw [← endsDoubled_iff]
  have bends : stem ∈ [c, c ++ [101]] ++ (if endsDoubled c then [c.dropLast] else [])
      ↔ stem = c ∨ (stem = c ++ [101] ∨ endsDoubled c = true ∧ stem = c.dropLast) := by
    cases endsDoubled c <;> simp
  cases g <;> simp only [Ending.candidates, Ending.Bends, bends] <;> simp

/-- The ending of some letters with the flag that it requires (Table 6-2). -/
abbrev EndingFlagged (e : List Nat) (f : Config.EndingFlags) : Prop :=
  e = [39, 115] ∧ f.poss = true ∨ (e = [115] ∨ e = [101, 115]) ∧ f.s = true ∨ e = [101, 100] ∧ f.ed = true
    ∨ e = [105, 110, 103] ∧ f.ing = true ∨ e = [108, 121] ∧ f.ly = true ∨ e = [101, 114] ∧ f.er = true

theorem Ending.flagged (g : Ending) {f : Config.EndingFlags} (h : g.allowedBy f = true) : EndingFlagged g.letters f := by
  cases g <;> simp_all [Ending.allowedBy, Ending.letters, EndingFlagged]

theorem EndingFlagged.ending {e : List Nat} {f : Config.EndingFlags} (h : EndingFlagged e f) :
    ∃ g : Ending, g.letters = e ∧ g.allowedBy f = true := by
  rcases h with ⟨rfl, h⟩ | ⟨rfl | rfl, h⟩ | ⟨rfl, h⟩ | ⟨rfl, h⟩ | ⟨rfl, h⟩ | ⟨rfl, h⟩
  · exact ⟨.poss, rfl, h⟩
  · exact ⟨.s, rfl, h⟩
  · exact ⟨.es, rfl, h⟩
  · exact ⟨.ed, rfl, h⟩
  · exact ⟨.ing, rfl, h⟩
  · exact ⟨.ly, rfl, h⟩
  · exact ⟨.er, rfl, h⟩

theorem Ending.bends_iff (g : Ending) :
    g.Bends ↔ g.letters = [101, 100] ∨ g.letters = [105, 110, 103] ∨ g.letters = [101, 114] := by
  cases g <;> decide

/-- What a lookup knows (R124, R125). -/
theorem lookupKnows_iff (listed : Bool) (w : List Nat) :
    lookupKnows listed w = true ↔ listed = true ∨ (Config.stem w).isSome = true ∨
      ∃ (c e stem : List Nat) (f : Config.EndingFlags), w = c ++ e ∧ 2 ≤ c.length ∧ Config.stem stem = some f
        ∧ EndingFlagged e f
        ∧ (stem = c ∨ (e = [101, 100] ∨ e = [105, 110, 103] ∨ e = [101, 114])
          ∧ (stem = c ++ [101] ∨
            ∃ (d : List Nat) (x : Nat), c = d ++ [x, x] ∧ x ∉ [97, 101, 105, 111, 117] ∧ stem = d ++ [x])) := by
  rw [lookupKnows, Bool.or_eq_true, Bool.or_eq_true, or_assoc]
  refine or_congr Iff.rfl (or_congr Iff.rfl ?_)
  rw [List.any_eq_true]
  constructor
  · rintro ⟨g, -, knows⟩
    obtain ⟨c, stem, f, word, long, candidate, listed, flag⟩ := (g.knows_iff w).mp knows
    refine ⟨c, g.letters, stem, f, word, long, listed, g.flagged flag, ?_⟩
    rw [← g.bends_iff]
    exact (g.mem_candidates c stem).mp candidate
  · rintro ⟨c, e, stem, f, word, long, listed, flagged, candidate⟩
    obtain ⟨g, rfl, flag⟩ := flagged.ending
    rw [← g.bends_iff] at candidate
    exact ⟨g, by cases g <;> decide,
      (g.knows_iff w).mpr ⟨c, stem, f, word, long, (g.mem_candidates c stem).mpr candidate, listed, flag⟩⟩

/-- A lookup sees the user list as it stands, or as it stood at its beginning (log entry 25). -/
theorem Spelling.listGives_or (sp : Spelling) (k : Lookup) (r : WordRecord) :
    sp.listGives k r = sp.userList.contains r.letters ∨ sp.listGives k r = k.listed := by
  unfold Spelling.listGives
  dsimp only
  split
  · exact .inl rfl
  · split
    · exact .inr rfl
    · exact .inl rfl

/-! ## Words that the lookup does not know (R126, R128) -/

theorem State.cartridgeRule_absent {s : State} (r : WordRecord) (h : s.line.rostered .cartridge = false) :
    s.cartridgeRule r = s.applyVerdict r .unknown := by
  simp [State.cartridgeRule, h]

theorem LineInterface.rostered_of_silent {l : LineInterface} (h : l.cartridgeSilent = true) : l.rostered .cartridge = true := by
  unfold LineInterface.cartridgeSilent at h
  unfold LineInterface.rostered
  cases hs : l.station? .cartridge with
  | none => simp [hs] at h
  | some e => rfl

theorem State.cartridgeRule_silent {s : State} (r : WordRecord) (h : s.line.cartridgeSilent = true) :
    s.cartridgeRule r = s.applyVerdict r .unchecked := by
  simp [State.cartridgeRule, LineInterface.rostered_of_silent h, h]

theorem State.cartridgeRule_unaskable {s : State} {r : WordRecord} (h : s.line.rostered .cartridge = true)
    (bad : 15 ≤ r.letters.length ∨ 39 ∈ r.letters) : s.cartridgeRule r = s.applyVerdict r .unchecked := by
  have bad' : 15 ≤ r.letters.length ∨ r.letters.contains 39 = true := by simpa using bad
  unfold State.cartridgeRule
  rw [if_neg (by simp [h]), if_pos bad', ite_self]

theorem State.cartridgeRule_asks {s : State} {r : WordRecord} (h : s.line.rostered .cartridge = true)
    (heard : s.line.cartridgeSilent = false) (short : r.letters.length < 15) (plain : 39 ∉ r.letters) :
    s.cartridgeRule r = s.askOrWait r := by
  have good : ¬(15 ≤ r.letters.length ∨ r.letters.contains 39 = true) := by simp [short, plain]
  unfold State.cartridgeRule
  rw [if_neg (by simp [h]), if_neg (by simp [heard]), if_neg good]

end Sys2Proof.Machine

open Sys2Proof Sys2Proof.Machine

/-- Settles O34. -/
theorem lookupEnds : Obligations.LookupEnds := by
  intro s k live under next
  refine ⟨fun dropped => exec_finish live rfl ?_, fun r named hr => ?_⟩
  · rw [State.endLookup, under]
    dsimp only
    rw [dropped]
    exact congrArg (fun sp : Spelling => ({ s with spell := sp } : State))
      (Spelling.beginLookup_idle (sp := { s.spell with lookup := none }) rfl)
  · intro known gives verdict asks
    let idle : State := { s with spell := { s.spell with lookup := none } }
    have ends {t u : State} (result : idle.lookupResult r (s.spell.listGives k r) = u) (waits : u.spell.lookup = none)
        (same : ({ u with spell := u.spell.nextLookup } : State) = { t with spell := t.spell.nextLookup }) : gives t := by
      refine exec_finish live rfl ?_
      rw [State.endLookup_of_record under named hr, result]
      dsimp only
      rw [Spelling.beginLookup_idle waits]
      exact same
    have unknown (h : known = false) : idle.lookupResult r (s.spell.listGives k r) = idle.cartridgeRule r :=
      if_neg (by simpa [known] using h)
    refine ⟨fun h => ends (if_pos h) rfl rfl, ⟨?_, lookupKnows_iff _ _, ?_⟩, fun h => ⟨fun absent => ?_, fun silent => ?_,
      fun rostered bad => ?_, fun ⟨rostered, heard, short, plain⟩ full => ?_,
      fun c m ⟨rostered, heard, short, plain⟩ hc few room small fuel busy free => ?_⟩⟩
    · exact s.spell.listGives_or k r
    · obtain ⟨l, unique, size, stems, letters⟩ := stem_list
      refine ⟨l, unique, size, stems, fun w hw => ⟨(letters w hw).1, fun c hc => ?_⟩⟩
      have letter := List.all_eq_true.mp (letters w hw).2 c hc
      simpa [stemLetter, within] using letter
    · exact ends ((unknown h).trans (State.cartridgeRule_absent r absent)) rfl rfl
    · exact ends ((unknown h).trans (State.cartridgeRule_silent r silent)) rfl rfl
    · exact ends ((unknown h).trans (State.cartridgeRule_unaskable rostered bad)) rfl rfl
    · have rule := (unknown h).trans (State.cartridgeRule_asks (s := idle) rostered heard short plain)
      have cannot : ¬idle.canAsk = true := by
        rw [State.canAsk_iff]
        exact fun ⟨few, room⟩ => full.elim (Nat.not_le.mpr few) (Nat.not_le.mpr room)
      refine ⟨fun room => ends (rule.trans ((if_neg cannot).trans (if_pos room))) rfl rfl,
        fun none => ends (rule.trans ((if_neg cannot).trans (if_neg (Nat.not_lt.mpr none)))) rfl rfl⟩
    · have rule := (unknown h).trans (State.cartridgeRule_asks (s := idle) rostered heard short plain)
      have can : idle.canAsk = true := idle.canAsk_iff.mpr ⟨few, room⟩
      exact ends (rule.trans ((if_pos can).trans (State.ask_asked idle r hc m small fuel busy free))) rfl rfl
end

section
/-! SUPPORT. The take of an action, and the actions that change a setting, the mode, the tab stops or the margins. -/

-- One proof after another: the check's process cannot start a thread for each.
set_option Elab.async false

namespace Sys2Proof.Machine

/-! ## The take of an action (R11) -/

/-- The kinds that never need a slot (Table 1-4). -/
def ActionKind.needsNone (k : ActionKind) : Bool :=
  match k with
  | .char | .index | .reverseIndex | .halfUp | .halfDown | .carriageReturn => false
  | _ => true

theorem State.slotsNeeded_none {s : State} {a : Action} (h : a.kind.needsNone = true) : s.slotsNeeded a = 0 := by
  unfold State.slotsNeeded
  cases kind : a.kind <;> first | rfl | (rw [kind] at h; cases h)

/-- An action of a kind that needs no slot, with no held run standing. -/
theorem exec_plain_free {s : State} {k : ActionKind} {a : Action} {rest : List Action} {t : State} (h : s.plain k a rest)
    (none : k.needsNone = true) (effect : (s.taken rest).performPlain a true = t) :
    exec k.command s = .next (t.finish s) := by
  obtain ⟨-, -, kind, -⟩ := h.1
  rw [exec_plain h (by rw [State.slotsNeeded_none (by rwa [kind])]; exact Nat.zero_le _), effect]

/-- An action that is not offered is not taken. -/
theorem State.takeAction_not_offered {s : State} {k : ActionKind} (live : s.live) (h : ∀ a rest, ¬s.offers k a rest) :
    s.takeAction k = s := by
  unfold State.takeAction
  cases queue : s.intake.queue with
  | nil => rfl
  | cons a rest =>
    refine if_neg ?_
    rintro ⟨may, kind⟩
    simp only [State.mayTakeAction, Bool.and_eq_true, Option.isNone_iff_eq_none, Bool.not_eq_true'] at may
    obtain ⟨⟨⟨waiting, resume⟩, up⟩, homed⟩ := may
    have running : s.supply.phase = .running := by simpa [State.isDown] using up
    exact h a rest ⟨live, queue, kind, waiting, resume, running, homed⟩

/-- The slots of Table 1-4 with no held run standing. -/
theorem State.slotsNeeded_plain {s : State} (a : Action) (h : s.text.run = none) :
    s.slotsNeeded a =
      match a.kind with
      | .char =>
        if s.text.settings.mode = .direct then
          1 + (if s.text.settings.bold then 1 else 0) + (if s.text.settings.underline then s.strokesFor a.code else 0)
        else 0
      | .index | .reverseIndex => if s.text.settings.mode = .direct ∨ s.text.print = none then 1 else 0
      | .halfUp | .halfDown | .carriageReturn => if s.text.settings.mode = .direct then 1 else 0
      | _ => 0 := by
  have index : (if s.text.settings.mode = .direct then 1 else if s.text.print.isNone = true then 1 else 0)
      = if s.text.settings.mode = .direct ∨ s.text.print = none then 1 else 0 := by
    cases s.text.settings.mode <;> cases s.text.print <;> rfl
  unfold State.slotsNeeded
  cases a.kind <;> first | rfl | exact index | skip
  · simp only [h, State.charSlots, Option.isNone_none, true_or, and_true]
    cases s.text.settings.bold <;> rfl
  · simp only [h, Option.isNone_none, and_true]

/-! ## Settings (R21) -/

theorem State.setSettings_self (u : State) : u.setSettings u.text.settings = u := rfl

/-- A setting action outside a held run: what it makes of the settings alone. -/
theorem exec_setting {s : State} {k : ActionKind} {a : Action} {rest : List Action} {y : Settings} (h : s.plain k a rest)
    (none : k.needsNone = true)
    (effect : ∀ u : State, u.text = s.text → u.engine = s.engine → a.kind = k → u.performPlain a true = u.setSettings y) :
    exec k.command s = .next (((s.taken rest).setSettings y).finish s) := by
  obtain ⟨-, -, kind, -⟩ := h.1
  exact exec_plain_free h none (effect _ (State.taken_text s rest) (State.taken_engine s rest) kind)

theorem pitchOf_eq (proportional : Bool) (v : Nat) (old : Pitch) :
    (pitchOf proportional v).getD old = (if v = 0 then .p10 else if v = 1 then .p12 else if v = 2 then .p15
      else if v = 3 ∧ proportional = true then .ps else old) := by
  match v with
  | 0 | 1 | 2 => rfl
  | 3 => cases proportional <;> rfl
  | n + 4 => rfl

theorem impressionOf_eq (v : Nat) (old : Impression) :
    (impressionOf v).getD old = (if v = 0 then .light else if v = 1 then .normal else if v = 2 then .heavy else old) := by
  match v with
  | 0 | 1 | 2 => rfl
  | n + 3 => rfl

theorem spellOf_eq (v : Nat) (old : SpellSetting) :
    (spellOf v).getD old = (if v = 0 then .off else if v = 1 then .check else if v = 2 then .checkStop else old) := by
  match v with
  | 0 | 1 | 2 => rfl
  | n + 3 => rfl

theorem State.setPitch_value {u : State} {a : Action} {v : Nat} (h : a.value = some v) :
    u.setPitch a = u.setSettings
      { u.text.settings with pitch := (pitchOf (proportional u.engine.wheel) v).getD u.text.settings.pitch } := by
  rw [State.setPitch, h]
  dsimp only
  cases pitchOf (proportional u.engine.wheel) v <;> rfl

theorem State.setImpression_value {u : State} {a : Action} {v : Nat} (h : a.value = some v) :
    u.setImpression a = u.setSettings
      { u.text.settings with impression := (impressionOf v).getD u.text.settings.impression } := by
  rw [State.setImpression, h]
  dsimp only
  cases impressionOf v <;> rfl

theorem State.setSpell_value {u : State} {a : Action} {v : Nat} (h : a.value = some v) :
    u.setSpell a = u.setSettings { u.text.settings with spell := (spellOf v).getD u.text.settings.spell } := by
  rw [State.setSpell, h]
  dsimp only
  cases spellOf v <;> rfl

theorem State.setJustify_value {u : State} {a : Action} {v : Nat} (h : a.value = some v) :
    u.setJustify a = u.setSettings
      { u.text.settings with justify := if v = 0 then false else if v = 1 then true else u.text.settings.justify } := by
  rw [State.setJustify, h]
  match v with
  | 0 | 1 => rfl
  | n + 2 => rfl

end Sys2Proof.Machine

open Sys2Proof Sys2Proof.Machine

/-- Settles O40. -/
theorem actionsTaken : Obligations.ActionsTaken := by
  intro s k live
  refine ⟨fun none => ?_, fun a rest offers => ⟨fun short => ?_, fun enough => exec_offers offers enough, fun alone => ?_, ?_⟩⟩
  · rw [exec_command live, State.takeAction_not_offered live none]
  · rw [exec_command live, State.takeAction_offers offers, if_pos short]
  · obtain ⟨-, -, kind, -⟩ := offers
    cases k <;> simp only [State.slotsNeeded_plain a alone, kind]
  · rfl

/-- Settles O42. -/
theorem settingsChange : Obligations.SettingsChange := by
  intro s a rest x gives
  have sets {k : ActionKind} {y : Settings} (none : k.needsNone = true)
      (effect : ∀ u : State, u.text = s.text → u.engine = s.engine → a.kind = k → u.performPlain a true = u.setSettings y) :
      gives k y := fun h => exec_setting h none effect
  refine ⟨sets rfl ?_, sets rfl ?_, sets rfl ?_, fun value => ⟨sets rfl ?_, sets rfl ?_, sets rfl ?_, sets rfl ?_, sets rfl ?_⟩,
    fun v value => ⟨sets rfl ?_, sets rfl ?_, sets rfl ?_, sets rfl ?_, sets rfl ?_⟩⟩ <;> intro u text engine kind <;>
    simp only [State.performPlain, kind]
  · rw [State.marginRelease, text]
  · rw [State.toggleUnderline, text]
  · rw [State.toggleBold, text]
  · rw [State.setPitch, value, text, engine]; rfl
  · rw [State.setSpacing, value, text]
  · rw [State.setImpression, value, text]; rfl
  · rw [State.setJustify, value, text]
  · rw [State.setSpell, value, text]; rfl
  · rw [State.setPitch_value value, pitchOf_eq, text, engine]
  · rw [State.setSpacing, value, text]
  · rw [State.setImpression_value value, impressionOf_eq, text]
  · rw [State.setJustify_value value, text]
  · rw [State.setSpell_value value, spellOf_eq, text]
end

section
/-! SUPPORT. The tab stop, margin and mode actions. -/

-- One proof after another: the check's process cannot start a thread for each.
set_option Elab.async false

namespace Sys2Proof.Machine

/-! ## Tab stops (R7) -/

theorem State.setTab_stands {u : State} {a : Action} {p : Nat} (h : p ∈ u.text.settings.tabs) : u.setTab a p = u :=
  if_pos (List.contains_iff_mem.mpr h)

theorem State.setTab_full {u : State} {a : Action} {p : Nat} (h : p ∉ u.text.settings.tabs)
    (full : 24 ≤ u.text.settings.tabs.length) : u.setTab a p = u.refuse a := by
  rw [State.setTab, if_neg (by simpa using h), if_pos full]

theorem State.setTab_joins {u : State} {a : Action} {p : Nat} (h : p ∉ u.text.settings.tabs)
    (room : u.text.settings.tabs.length < 24) :
    u.setTab a p = u.setSettings { u.text.settings with tabs := insertTab p u.text.settings.tabs } := by
  rw [State.setTab, if_neg (by simpa using h), if_neg (by omega)]

/-- TAB_SET of a position that may be a stop. -/
theorem State.tabSet_eq {u : State} {a : Action} (h : a.value = none → u.text.pp ≠ 1600) :
    u.tabSet a = u.setTab a (match a.value with | some v => min v 1599 | none => u.text.pp) := by
  unfold State.tabSet
  cases value : a.value with
  | none => exact if_neg (h value)
  | some v => rfl

/-! ## Margins (R21) -/

theorem State.lmSet_value {u : State} {a : Action} {v : Nat} (h : a.value = some v) :
    u.lmSet a = u.setSettings
      { u.text.settings with lm := if min v 1599 < u.text.settings.rm then min v 1599 else u.text.settings.lm } := by
  rw [State.lmSet, h]
  dsimp only
  split <;> rfl

theorem State.rmSet_value {u : State} {a : Action} {v : Nat} (h : a.value = some v) :
    u.rmSet a = u.setSettings
      { u.text.settings with
        rm := if u.text.settings.lm < max 1 (min v 1600) then max 1 (min v 1600) else u.text.settings.rm } := by
  rw [State.rmSet, h]
  dsimp only
  split <;> rfl

/-! ## MODE (R19) -/

/-- A MODE that is to change the mode: no value, or that of the other mode. -/
def Action.asksOther (a : Action) (m : Mode) : Prop :=
  a.value = none ∨ (a.value = some 1 ∧ m.other = .line) ∨ (a.value = some 0 ∧ m.other = .direct)

theorem State.setMode_changes {u : State} {a : Action} (h : a.asksOther u.text.settings.mode) :
    u.setMode a = u.changeMode a := by
  unfold State.setMode
  obtain value | ⟨value, other⟩ | ⟨value, other⟩ := h <;> rw [value] <;> dsimp only
  all_goals
    refine if_pos ?_
    cases mode : u.text.settings.mode <;> rw [mode] at other <;> first | exact absurd other (by decide) | decide

theorem State.setMode_stands {u : State} {a : Action} {v : Nat} (value : a.value = some v)
    (line : ¬(v = 1 ∧ u.text.settings.mode.other = .line)) (direct : ¬(v = 0 ∧ u.text.settings.mode.other = .direct)) :
    u.setMode a = u := by
  rw [State.setMode, value]
  dsimp only
  refine if_neg ?_
  rintro ⟨two, other⟩
  cases mode : u.text.settings.mode <;> rw [mode] at other line direct <;>
    simp only [Mode.other, Mode.code, reduceCtorEq, and_true, and_false, not_false_eq_true] at other line direct <;> omega

theorem State.changeMode_refused {u : State} {a : Action} (h : u.text.work.entries ≠ [] ∨ u.text.run ≠ none) :
    u.changeMode a = u.refuse a := by
  refine if_pos (h.imp (fun h => ?_) (fun h => Option.isSome_iff_ne_none.mpr h))
  exact List.isEmpty_eq_false_iff.mpr h

theorem State.changeMode_waits {u : State} {a : Action} (empty : u.text.work.entries = []) (run : u.text.run = none)
    (mode : u.text.settings.mode = .line) (print : u.text.print ≠ none) :
    u.changeMode a = u.waitFor .printLineBusy a .afresh := by
  rw [State.changeMode, if_neg (by simp [empty, run]), if_pos ⟨mode, Option.isSome_iff_ne_none.mpr print⟩]

theorem State.changeMode_made {u : State} {a : Action} (empty : u.text.work.entries = []) (run : u.text.run = none)
    (print : u.text.settings.mode = .line → u.text.print = none) :
    u.changeMode a = (u.setSettings { u.text.settings with mode := u.text.settings.mode.other }).askState := by
  rw [State.changeMode, if_neg (by simp [empty, run]), if_neg]
  rintro ⟨mode, busy⟩
  rw [print mode] at busy
  cases busy

/-- An action of a kind that needs no slot, handled as the text unit stands. -/
theorem exec_offers_free {s : State} {k : ActionKind} {a : Action} {rest : List Action} {t : State} (h : s.offers k a rest)
    (none : k.needsNone = true) (effect : (s.taken rest).perform a = t) : exec k.command s = .next (t.finish s) := by
  have kind : a.kind = k := h.2.2.1
  rw [exec_offers h (by rw [State.slotsNeeded_none (by rwa [kind])]; exact Nat.zero_le _), effect]

theorem State.perform_plain {u : State} (a : Action) (h : u.text.run = none) : u.perform a = u.performPlain a true := by
  simp only [State.perform, h]

theorem State.perform_decimal {u : State} {r : HeldRun} (a : Action) (h : u.text.run = some r) (kind : r.kind = .decimal) :
    u.perform a = u.performDecimal r a := by
  simp only [State.perform, h, kind]

theorem State.perform_centred {u : State} {r : HeldRun} (a : Action) (h : u.text.run = some r) (kind : r.kind ≠ .decimal) :
    u.perform a = u.performCentred r a := by
  cases r_kind : r.kind with
  | decimal => exact absurd r_kind kind
  | center => simp only [State.perform, h, r_kind]
  | flush => simp only [State.perform, h, r_kind]

theorem Mode.other_eq (m : Mode) : m.other = if m = .direct then .line else .direct := by cases m <;> rfl

theorem Mode.line_of_other {m : Mode} (h : m.other = .direct) : m = .line := by
  cases m
  · cases h
  · rfl

end Sys2Proof.Machine

open Sys2Proof Sys2Proof.Machine

/-- Settles O44. -/
theorem tabsAndMargins : Obligations.TabsAndMargins := by
  intro s a rest x t pp
  have text : t.text = s.text := State.taken_text s rest
  refine ⟨fun h => ?_, fun h => ?_, fun h => ?_, fun h => ?_, fun h => ?_⟩
  · intro p
    have kind : a.kind = .tabSet := h.1.2.2.1
    have sets : t.performPlain a true = t.tabSet a := by simp only [State.performPlain, kind]
    have free {u : State} (effect : t.tabSet a = u) : exec .tabSet s = .next (u.finish s) :=
      exec_plain_free h rfl (sets.trans effect)
    have placed (point : a.value = none → pp ≠ 1600) : t.tabSet a = t.setTab a p := by
      refine (State.tabSet_eq (by rw [text]; exact point)).trans (congrArg (t.setTab a) ?_)
      cases value : a.value <;> simp only [p, value, text, pp]
    refine ⟨fun ⟨value, edge⟩ => free ?_, fun point stands => free ?_, fun point new full => free ?_,
      fun point new room rises => ⟨insertTab p x.tabs, free ?_, rising_insertTab p _ rises, fun q => mem_insertTab p q _⟩⟩
    · rw [State.tabSet, value]
      exact if_pos (by rw [text]; exact edge)
    · rw [placed point]; exact State.setTab_stands (by rwa [text])
    · rw [placed point]; exact State.setTab_full (by rwa [text]) (by rwa [text])
    · rw [placed point, State.setTab_joins (by rwa [text]) (by rwa [text]), text]
  · have kind : a.kind = .tabClear := h.1.2.2.1
    refine exec_plain_free h rfl ?_
    simp only [State.performPlain, kind, State.tabClear, State.taken_text]
    rfl
  · have kind : a.kind = .tabClearAll := h.1.2.2.1
    refine exec_plain_free h rfl ?_
    simp only [State.performPlain, kind, State.tabClearAll, State.taken_text]
    rfl
  · have kind : a.kind = .lmSet := h.1.2.2.1
    have sets : t.performPlain a true = t.lmSet a := by simp only [State.performPlain, kind]
    refine ⟨fun value less => ?_, fun value more => ?_, fun v value => ?_⟩ <;> refine exec_plain_free h rfl (sets.trans ?_)
    · rw [State.lmSet, value, text]; exact if_pos less
    · rw [State.lmSet, value, text]; exact if_neg (Nat.not_lt.mpr more)
    · rw [State.lmSet_value value, text]
  · have kind : a.kind = .rmSet := h.1.2.2.1
    have sets : t.performPlain a true = t.rmSet a := by simp only [State.performPlain, kind]
    refine ⟨fun value less => ?_, fun value more => ?_, fun v value => ?_⟩ <;> refine exec_plain_free h rfl (sets.trans ?_)
    · rw [State.rmSet, value, text]; exact if_pos less
    · rw [State.rmSet, value, text]; exact if_neg (Nat.not_lt.mpr more)
    · rw [State.rmSet_value value, text]

/-- Settles O43. -/
theorem modeChanges : Obligations.ModeChanges := by
  intro s a rest t other
  have text : t.text = s.text := State.taken_text s rest
  have is_other : s.text.settings.mode.other = other := Mode.other_eq _
  refine ⟨fun h => ?_, fun r h run kind => ?_, fun live running waiting kind value run resume mode empty print => ?_⟩
  · have none := h.2
    have kind : a.kind = .mode := h.1.2.2.1
    have sets : t.performPlain a true = t.setMode a := by simp only [State.performPlain, kind]
    have free {u : State} (effect : t.setMode a = u) : exec .mode s = .next (u.finish s) :=
      exec_plain_free h rfl (sets.trans effect)
    refine ⟨fun v value line direct => free ?_, fun asks => ?_⟩
    · exact State.setMode_stands value (by rwa [text, is_other]) (by rwa [text, is_other])
    · have changes : t.setMode a = t.changeMode a := State.setMode_changes (by rw [text, Action.asksOther, is_other]; exact asks)
      refine ⟨fun entries => free ?_, fun empty direct busy => free ?_, fun empty print => free ?_⟩ <;> rw [changes]
      · exact State.changeMode_refused (.inl (by rwa [text]))
      · have line : s.text.settings.mode = .line := Mode.line_of_other (is_other.trans direct)
        rw [State.changeMode_waits (by rwa [text]) (by rwa [text]) (by rwa [text]) (by rwa [text]), State.waitFor, text]
      · have gone (line : s.text.settings.mode = .line) : s.text.print = Option.none :=
          print (is_other.symm.trans (by rw [line]; rfl))
        rw [State.changeMode_made (by rwa [text]) (by rwa [text]) (by rwa [text]), text, is_other, State.setSettings, text]
        rfl
  · have is_mode : a.kind = .mode := h.2.2.1
    refine exec_offers_free h rfl ?_
    rw [State.perform_centred a (by rwa [text]) kind, State.performCentred, is_mode]
    dsimp only
    have strange : r.ownAction .mode = false := by unfold HeldRun.ownAction; cases r.kind <;> rfl
    rw [strange]; rfl
  · refine exec_finish live rfl ?_
    have up : s.isDown = false := by rw [State.isDown, running]; rfl
    have changes : ∀ u : State, u.text = { s.text with resume := none } →
        u.setMode a = (u.setSettings { s.text.settings with mode := .direct }).askState := by
      intro u text
      rw [State.setMode_changes (by rw [text, Action.asksOther, mode]; exact value.imp_right (.inr ⟨·, rfl⟩)),
        State.changeMode_made (by rwa [text]) (by rwa [text]) (by rw [text]; exact fun _ => print), text, mode]
      rfl
    rw [State.actionResume, waiting, resume]
    dsimp only
    rw [up, State.continueAt, State.performPlain, kind]
    exact changes _ rfl
end

section
/-! SUPPORT. The companions of a character, RETURN, the feeds of the paper, and what a LOCKED engine has refused. -/

-- One proof after another: the check's process cannot start a thread for each.
set_option Elab.async false

namespace Sys2Proof.Machine

/-! ## The companions of a character (R3, R33, R34) -/

theorem strokePositions_narrow {p w : Nat} (low : 6 ≤ w) (h : w ≤ 10) : strokePositions p w = [min 1590 p] := by
  have one : strokeCount w = 1 := by unfold strokeCount ceilDiv; omega
  simp [strokePositions, one, h]

theorem strokePositions_wide {p w : Nat} (h : ¬w ≤ 10) (high : w ≤ 14) :
    strokePositions p w = [min 1590 p, min 1590 (p + w - 10)] := by
  have two : strokeCount w = 2 := by unfold strokeCount ceilDiv; omega
  simp [strokePositions, two, h]

/-- While the counter does not pass 65,535, an entry is added with the next order number. -/
theorem LineRecord.add_eq {r : LineRecord} (e : Entry) (h : r.counter ≤ 65535) :
    r.add e = { entries := insertEntry { e with order := r.counter } r.entries, counter := r.counter + 1 } := by
  have same : r.renumbered = r := if_neg (by omega)
  rw [LineRecord.add, same]

theorem LineRecord.mem_addAll_of_mem {es : List Entry} {r : LineRecord} {x : Entry} (h : r.counter + es.length ≤ 65536)
    (hx : x ∈ r.entries) : x ∈ (r.addAll es).entries := by
  induction es generalizing r with
  | nil => exact hx
  | cons e es ih =>
    rw [List.length_cons] at h
    show x ∈ ((r.add e).addAll es).entries
    rw [r.add_eq e (by omega)]
    exact ih (by dsimp only; omega) ((mem_insertEntry _ _ _).mpr (.inr hx))

/-- Entries that are added together take the next order numbers in turn. -/
theorem LineRecord.mem_addAll {es : List Entry} {r : LineRecord} {i : Nat} {e : Entry} (h : r.counter + es.length ≤ 65536)
    (he : es[i]? = some e) : { e with order := r.counter + i } ∈ (r.addAll es).entries := by
  induction es generalizing r i with
  | nil => cases he
  | cons x es ih =>
    rw [List.length_cons] at h
    show _ ∈ ((r.add x).addAll es).entries
    rw [r.add_eq x (by omega)]
    cases i with
    | zero =>
      cases he
      exact LineRecord.mem_addAll_of_mem (by dsimp only; omega) ((mem_insertEntry _ _ _).mpr (.inl rfl))
    | succ i =>
      have next := ih (r := ⟨insertEntry { x with order := r.counter } r.entries, r.counter + 1⟩) (by dsimp only; omega) he
      rwa [show r.counter + 1 + i = r.counter + (i + 1) by omega] at next

/-! ## The slots of an action (Table 1-4) -/

theorem widthClass_le (code c : Nat) : widthClass code c ≤ 5 := by
  unfold widthClass
  split
  · exact (Config.widthClassLess1 code c).isLt
  · decide

theorem widthAt_le (p : Pitch) (wheel : Option Nat) (c : Nat) : widthAt p wheel c ≤ 14 := by
  have wide := widthClass_le (wheel.getD 0) c
  cases p <;> simp only [widthAt, cell, classWidth] <;> omega

theorem State.strokesFor_le (s : State) (c : Nat) : s.strokesFor c ≤ 2 := by
  have wide := widthAt_le s.text.settings.pitch s.engine.wheel c
  unfold State.strokesFor strokeCount ceilDiv
  split <;> omega

/-- No action needs more than the slots of a character with its bold and two strokes. -/
theorem State.slotsNeeded_le (s : State) (a : Action) : s.slotsNeeded a ≤ 4 := by
  have strokes := s.strokesFor_le a.code
  have bold : s.text.settings.bold.toNat ≤ 1 := Bool.toNat_le _
  have chars : s.charSlots a.code ≤ 4 := by
    unfold State.charSlots
    split <;> omega
  unfold State.slotsNeeded
  split <;> (try split) <;> (try split) <;> omega

/-- An offered action of an engine with an empty queue is handled. -/
theorem exec_offers_roomy {s : State} {k : ActionKind} {a : Action} {rest : List Action} {t : State} (h : s.offers k a rest)
    (empty : s.engine.slots = []) (effect : (s.taken rest).perform a = t) : exec k.command s = .next (t.finish s) := by
  have needed := s.slotsNeeded_le a
  rw [exec_offers h (by rw [State.freeSlots, empty]; exact Nat.le_trans needed (by decide)), effect]

/-- An action with no held run standing and as many slots free as it needs. -/
theorem exec_plain_slots {s : State} {k : ActionKind} {a : Action} {rest : List Action} {t : State} {n : Nat}
    (h : s.plain k a rest) (needed : s.slotsNeeded a ≤ n) (free : n ≤ s.freeSlots)
    (effect : (s.taken rest).performPlain a true = t) : exec k.command s = .next (t.finish s) := by
  rw [exec_plain h (Nat.le_trans needed free), effect]

/-- The feeds of the paper and RETURN need one slot at most. -/
theorem State.slotsNeeded_feed {s : State} {a : Action}
    (h : a.kind ∈ [.index, .reverseIndex, .halfUp, .halfDown, .carriageReturn]) : s.slotsNeeded a ≤ 1 := by
  simp only [List.mem_cons, List.not_mem_nil, or_false] at h
  unfold State.slotsNeeded
  obtain kind | kind | kind | kind | kind := h <;> rw [kind] <;> dsimp only <;> split <;> (try split) <;> omega

/-! ## The feeds of the paper (R18) -/

theorem State.appendOp_slots {s : State} (o : Op) (moving : s.engine.state ≠ .locked) :
    (s.appendOp o).engine.slots = s.engine.slots ++ [o] := by
  obtain ⟨l, e⟩ := State.appendOp_eq o s moving
  rw [e]

theorem State.appendOp_text {s : State} (o : Op) (moving : s.engine.state ≠ .locked) : (s.appendOp o).text = s.text := by
  obtain ⟨l, e⟩ := State.appendOp_eq o s moving
  rw [e]

theorem State.appendOp_intake {s : State} (o : Op) (moving : s.engine.state ≠ .locked) :
    (s.appendOp o).intake = s.intake := by
  obtain ⟨l, e⟩ := State.appendOp_eq o s moving
  rw [e]

/-- The op of a feed joins the queue, and the rise becomes `r`. -/
structure State.FeedJoins (t : State) (n r : Int) (u : State) : Prop where
  slots : u.engine.slots = t.engine.slots ++ [feedOp n .text]
  text : u.text = { t.text with settings := { t.text.settings with rise := r } }
  intake : u.intake = t.intake

theorem State.indexPlain_joins {s : State} {a : Action} (n : Int) (moving : s.engine.state ≠ .locked)
    (free : 1 ≤ s.freeSlots) (open_line : s.text.settings.mode = .line → s.text.print = none) :
    s.FeedJoins n s.text.settings.rise (s.indexPlain a n) := by
  rw [State.indexPlain, if_neg (by simpa [State.isLocked] using moving), if_neg, if_neg (by omega)]
  · exact ⟨State.appendOp_slots _ moving, State.appendOp_text _ moving, State.appendOp_intake _ moving⟩
  · rintro ⟨line, busy⟩
    rw [open_line line] at busy
    cases busy

theorem State.indexPlain_waits {s : State} {a : Action} (n : Int) (moving : s.engine.state ≠ .locked)
    (line : s.text.settings.mode = .line) (busy : s.text.print ≠ none) :
    s.indexPlain a n = s.waitFor .printLineBusy a .afresh := by
  rw [State.indexPlain, if_neg (by simpa [State.isLocked] using moving), if_pos ⟨line, Option.isSome_iff_ne_none.mpr busy⟩]

/-- A half-line action whose rise stays within −2 and +2. -/
theorem State.halfPlain_joins {s : State} {a : Action} {d r : Int} (moving : s.engine.state ≠ .locked)
    (direct : s.text.settings.mode = .direct) (low : -2 ≤ r) (high : r ≤ 2) (h : s.text.settings.rise + d = r) :
    s.FeedJoins d r (s.halfPlain a d) := by
  rw [State.halfPlain, h, if_neg (by omega), direct]
  dsimp only
  rw [if_neg (by simpa [State.isLocked] using moving)]
  exact ⟨State.appendOp_slots _ moving, by rw [State.setSettings, State.appendOp_text _ moving], State.appendOp_intake _ moving⟩

theorem State.halfPlain_sets {s : State} {a : Action} {d r : Int} (line : s.text.settings.mode = .line)
    (low : -2 ≤ r) (high : r ≤ 2) (h : s.text.settings.rise + d = r) :
    s.halfPlain a d = s.setSettings { s.text.settings with rise := r } := by
  rw [State.halfPlain, h, if_neg (by omega), line]

theorem State.halfPlain_beyond {s : State} {a : Action} {d : Int} (h : 2 < (s.text.settings.rise + d).natAbs) :
    s.halfPlain a d = s.refuse a := by
  unfold State.halfPlain
  dsimp only
  rw [if_pos h]

/-! ## Word ends (R118) -/

/-- A word end changes the spelling unit, and of the text unit at most spell marks, which it sets to NONE. -/
theorem State.wordEnd_eq (s : State) (p : Nat) :
    ∃ sp ids, s.wordEnd p = { s with spell := sp, text := s.text.setMarks ids .plain } := by
  have same : s = { s with spell := s.spell, text := s.text.setMarks [] .plain } := by rw [TextUnit.setMarks_nil]
  unfold State.wordEnd
  split
  · exact ⟨_, _, same⟩
  · dsimp only
    split
    · exact ⟨_, _, same⟩
    · unfold State.recordToken
      dsimp only
      split
      · exact ⟨_, _, rfl⟩
      · split
        · exact ⟨_, _, same⟩
        · exact ⟨_, [], by rw [TextUnit.setMarks_nil]; rfl⟩

@[simp] theorem State.wordEnd_display (s : State) (p : Nat) : (s.wordEnd p).display = s.display := by
  obtain ⟨sp, ids, e⟩ := s.wordEnd_eq p
  rw [e]

@[simp] theorem State.wordEnd_engine (s : State) (p : Nat) : (s.wordEnd p).engine = s.engine := by
  obtain ⟨sp, ids, e⟩ := s.wordEnd_eq p
  rw [e]

theorem State.wordEnd_print (s : State) (p : Nat) : (s.wordEnd p).text.print.isSome = s.text.print.isSome := by
  obtain ⟨sp, ids, e⟩ := s.wordEnd_eq p
  rw [e]
  simp only [TextUnit.setMarks, TextUnit.mapRecords, Option.isSome_map]

@[simp] theorem State.wordEnd_isLocked (s : State) (p : Nat) : (s.wordEnd p).isLocked = s.isLocked := by
  rw [State.isLocked, State.wordEnd_engine, State.isLocked]

/-! ## RETURN (R20, R27, R133) -/

/-- A line-mode RETURN is to meet the spell-stop: CHECK_STOP with the mark clear. -/
def State.spellStops (s : State) : Prop := s.text.settings.spell = .checkStop ∧ s.text.armed = false

theorem State.returnLine_verdicts {s : State} {a : Action} (stops : s.spellStops)
    (out : (s.wordEnd s.text.pp).spell.lineSettled = false) :
    s.returnLine a = (s.wordEnd s.text.pp).waitFor .verdicts a .verdicts := by
  obtain ⟨spell, armed⟩ := stops
  unfold State.returnLine
  dsimp only
  exact if_pos (by simp [spell, armed, out])

theorem State.returnLine_unknown {s : State} {a : Action} (stops : s.spellStops)
    (settled : (s.wordEnd s.text.pp).spell.lineSettled = true) (stands : (s.wordEnd s.text.pp).unknownStands = true) :
    s.returnLine a
      = ({ s.wordEnd s.text.pp with
          text := { (s.wordEnd s.text.pp).text with armed := true },
          display := s.display.post .checkWord } : State).refuse a := by
  obtain ⟨spell, armed⟩ := stops
  unfold State.returnLine
  dsimp only
  rw [if_neg (by simp [settled]), if_pos (by simp [spell, armed, stands]), State.verdictsIn, if_pos stands,
    ← State.wordEnd_display s s.text.pp]
  rfl

/-- A RETURN that the spell-stop lets pass. -/
theorem State.returnLine_passes {s : State} {a : Action}
    (h : ¬s.spellStops ∨ ((s.wordEnd s.text.pp).spell.lineSettled = true ∧ (s.wordEnd s.text.pp).unknownStands = false)) :
    s.returnLine a
      = if s.text.print.isNone && s.isLocked then s.refuse a else (s.wordEnd s.text.pp).returnDispatch a := by
  have clear : (decide (s.text.settings.spell = .checkStop) && !s.text.armed) = true →
      (s.wordEnd s.text.pp).spell.lineSettled = true ∧ (s.wordEnd s.text.pp).unknownStands = false := by
    intro stops
    refine h.resolve_left (not_not_intro ?_)
    simpa [State.spellStops] using stops
  unfold State.returnLine
  dsimp only
  rw [if_neg, if_neg]
  · intro c
    obtain ⟨stops, unknown⟩ := Bool.and_eq_true_iff.mp c
    rw [(clear stops).2] at unknown
    cases unknown
  · intro c
    obtain ⟨stops, out⟩ := Bool.and_eq_true_iff.mp c
    rw [(clear stops).1] at out
    cases out

theorem State.returnDirect_eq {s : State} {a : Action} (h : s.engine.state ≠ .locked) :
    ∃ l, s.returnDirect a =
      { s with
        engine :=
          { s.engine with
            slots := (s.engine.slots ++ [returnOp s.text.settings.lm (s.text.settings.spacing - s.text.settings.rise)]).map
              (Op.forget (s.text.work.entries.map Entry.id)),
            head := s.engine.head.map (Op.forget (s.text.work.entries.map Entry.id)) },
        text :=
          { s.text with
            work := LineRecord.empty, pp := s.text.settings.lm,
            settings := { s.text.settings with rise := 0, marginRelease := false }, bellGiven := false },
        spell := s.spell.dropNaming (s.text.work.entries.map Entry.id), line := l } := by
  obtain ⟨l, e⟩ := State.appendOp_eq (returnOp s.text.settings.lm (s.text.settings.spacing - s.text.settings.rise)) s h
  refine ⟨l, ?_⟩
  rw [State.returnDirect, if_neg (by simpa [State.isLocked] using h)]
  dsimp only
  rw [e]
  rfl

/-! ## A LOCKED engine (R13) -/

theorem State.refuse_keyboard (s : State) (a : Action) :
    s.refuse a = if a.source = .keyboard then s.sound .click else s := by
  unfold State.refuse
  cases a.source <;> rfl

/-- A LOCKED engine has each direct-mode action refused that would append an op. -/
theorem State.performPlain_locked {s : State} {a : Action} (locked : s.isLocked = true) (direct : s.text.settings.mode = .direct)
    (h : a.kind ∈ [.char, .index, .reverseIndex, .halfUp, .halfDown, .carriageReturn, .correct, .wordCorrect, .lineCorrect]) :
    s.performPlain a true = s.refuse a := by
  have half (d : Int) : s.halfPlain a d = s.refuse a := by
    rw [State.halfPlain, direct, locked]
    exact ite_self _
  simp only [List.mem_cons, List.not_mem_nil, or_false] at h
  obtain kind | kind | kind | kind | kind | kind | kind | kind | kind := h <;>
    simp only [State.performPlain, State.charPlain, State.returnPlain, kind, direct, half] <;>
    exact if_pos (by simp [locked])

/-- A LOCKED engine has the end of a run refused (R25). -/
theorem State.endRun_locked {s : State} (r : HeldRun) (a : Action) (locked : s.isLocked = true) :
    s.endRun r a = s.refuse a := if_pos locked

/-- An action that ends the run that stands (R23, R24). -/
theorem State.perform_ends {s : State} {r : HeldRun} {a : Action} (run : s.text.run = some r)
    (h : a.kind = .carriageReturn ∨ (a.kind = .center ∧ r.kind = .center) ∨ (a.kind = .flushRight ∧ r.kind = .flush)
      ∨ (r.kind = .decimal
        ∧ (a.kind ∉ [.char, .backspace, .correct] ∨ (a.kind = .char ∧ a.code = s.intake.decimal)))) :
    s.perform a = s.endRun r a := by
  by_cases decimal : r.kind = .decimal
  · rw [State.perform_decimal a run decimal]
    have ends : a.kind ∉ [.char, .backspace, .correct] ∨ (a.kind = .char ∧ a.code = s.intake.decimal) := by
      obtain kind | ⟨-, kind⟩ | ⟨-, kind⟩ | ⟨-, ends⟩ := h
      · exact .inl (by rw [kind]; decide)
      · exact absurd (decimal.symm.trans kind) (by decide)
      · exact absurd (decimal.symm.trans kind) (by decide)
      · exact ends
    unfold State.performDecimal
    obtain other | ⟨kind, code⟩ := ends
    · split
      · next kind => exact absurd (by rw [kind]; decide) other
      · next kind => exact absurd (by rw [kind]; decide) other
      · next kind => exact absurd (by rw [kind]; decide) other
      · rfl
    · rw [kind]
      exact if_pos code
  · rw [State.perform_centred a run decimal]
    unfold State.performCentred
    obtain kind | ⟨kind, own⟩ | ⟨kind, own⟩ | ⟨own, -⟩ := h
    · rw [kind]
    · rw [kind]
      exact if_pos (by rw [HeldRun.ownAction, own]; rfl)
    · rw [kind]
      exact if_pos (by rw [HeldRun.ownAction, own]; rfl)
    · exact absurd own decimal

end Sys2Proof.Machine

open Sys2Proof Sys2Proof.Machine

/-- Settles O46. -/
theorem companionsStand : Obligations.CompanionsStand := by
  intro n p st low high owner bold stroke first
  have made : makeEntries n p st =
      owner :: (if p.bold then [bold] else []) ++
        (if p.underline then
          (if p.width ≤ 10 then [stroke first p.pos] else [stroke first p.pos, stroke (first + 1) (p.pos + p.width - 10)])
        else []) := by
    unfold makeEntries
    by_cases narrow : p.width ≤ 10
    · simp only [strokePositions_narrow low narrow, if_pos narrow, first]
      cases p.bold <;> cases p.underline <;> rfl
    · simp only [strokePositions_wide narrow high, if_neg narrow, first]
      cases p.bold <;> cases p.underline <;> rfl
  have few : (makeEntries n p st).length ≤ 4 := by
    rw [made]
    split <;> split <;> (try split) <;> simp
  exact ⟨made, rfl, rfl, fun m q => rfl, fun r i e h he => LineRecord.mem_addAll (by omega) he⟩

/-- Settles O50. -/
theorem paperFeeds : Obligations.PaperFeeds := by
  intro s a rest x t appends
  have text : t.text = s.text := State.taken_text s rest
  have engine : t.engine = s.engine := State.taken_engine s rest
  have needed {k : ActionKind} (h : s.plain k a rest)
      (feed : k ∈ [.index, .reverseIndex, .halfUp, .halfDown, .carriageReturn]) : s.slotsNeeded a ≤ 1 :=
    State.slotsNeeded_feed (by rw [h.1.2.2.1]; exact feed)
  have joins {k : ActionKind} {n r : Int} (h : s.plain k a rest) (free : 1 ≤ s.freeSlots)
      (feed : k ∈ [.index, .reverseIndex, .halfUp, .halfDown, .carriageReturn])
      (effect : t.FeedJoins n r (t.performPlain a true)) : appends k.command n r :=
    ⟨_, exec_plain_slots h (needed h feed) free rfl, effect.slots.trans (by rw [engine]), effect.text.trans (by rw [text]),
      effect.intake⟩
  have indexes {k : ActionKind} {n : Int} (h : s.plain k a rest) (moving : s.engine.state ≠ .locked) (free : 1 ≤ s.freeSlots)
      (feed : k ∈ [.index, .reverseIndex, .halfUp, .halfDown, .carriageReturn])
      (open_line : s.text.settings.mode = .line → s.text.print = none) (effect : t.performPlain a true = t.indexPlain a n) :
      appends k.command n x.rise := by
    refine joins h free feed ?_
    have made := State.indexPlain_joins (s := t) (a := a) n (by rwa [engine]) (by rwa [State.taken_freeSlots]) (by rwa [text])
    rwa [text, ← effect] at made
  have index (kind : a.kind = .index) : t.performPlain a true = t.indexPlain a x.spacing := by
    simp only [State.performPlain, kind, text, x]
  have reverse (kind : a.kind = .reverseIndex) : t.performPlain a true = t.indexPlain a (-(x.spacing : Int)) := by
    simp only [State.performPlain, kind, text, x]
  have down (kind : a.kind = .halfDown) : t.performPlain a true = t.halfPlain a 1 := by simp only [State.performPlain, kind]
  have up (kind : a.kind = .halfUp) : t.performPlain a true = t.halfPlain a (-1) := by simp only [State.performPlain, kind]
  have not_line (direct : s.text.settings.mode = .direct) : s.text.settings.mode = .line → s.text.print = none := by
    rw [direct]
    exact fun line => nomatch line
  refine ⟨fun h => ?_, fun h => ?_, fun h low high => ?_, fun h low high => ?_, fun h low high => ?_, fun h low high => ?_,
    fun h free beyond => ?_, fun h free beyond => ?_, fun h moving free none => ?_, fun h moving free none => ?_,
    fun k hk h moving busy => ?_⟩
  · obtain ⟨h, direct, moving, free⟩ := h
    exact indexes h moving free (by decide) (not_line direct) (index h.1.2.2.1)
  · obtain ⟨h, direct, moving, free⟩ := h
    exact indexes h moving free (by decide) (not_line direct) (reverse h.1.2.2.1)
  · obtain ⟨h, direct, moving, free⟩ := h
    refine joins h free (by decide) ?_
    rw [down h.1.2.2.1]
    exact State.halfPlain_joins (by rwa [engine]) (by rwa [text]) (by omega) (by omega) (by rw [text])
  · obtain ⟨h, direct, moving, free⟩ := h
    refine joins h free (by decide) ?_
    rw [up h.1.2.2.1]
    exact State.halfPlain_joins (by rwa [engine]) (by rwa [text]) (by omega) (by omega) (by rw [text]; rfl)
  · obtain ⟨h, line⟩ := h
    have none : s.slotsNeeded a ≤ 0 := by simp [State.slotsNeeded, h.1.2.2.1, line]
    refine exec_plain_slots h none (Nat.zero_le _) ((down h.1.2.2.1).trans ?_)
    rw [State.halfPlain_sets (r := x.rise + 1) (by rwa [text]) (by omega) (by omega) (by rw [text]), text]
  · obtain ⟨h, line⟩ := h
    have none : s.slotsNeeded a ≤ 0 := by simp [State.slotsNeeded, h.1.2.2.1, line]
    refine exec_plain_slots h none (Nat.zero_le _) ((up h.1.2.2.1).trans ?_)
    rw [State.halfPlain_sets (r := x.rise - 1) (by rwa [text]) (by omega) (by omega) (by rw [text]; rfl), text]
  · refine exec_plain_slots h (needed h (by decide)) free ((down h.1.2.2.1).trans (State.halfPlain_beyond ?_))
    have beyond : 2 ≤ s.text.settings.rise := beyond
    rw [text]
    omega
  · refine exec_plain_slots h (needed h (by decide)) free ((up h.1.2.2.1).trans (State.halfPlain_beyond ?_))
    have beyond : s.text.settings.rise ≤ -2 := beyond
    rw [text]
    omega
  · exact indexes h.1 moving free (by decide) (fun _ => none) (index h.1.1.2.2.1)
  · exact indexes h.1 moving free (by decide) (fun _ => none) (reverse h.1.1.2.2.1)
  · obtain ⟨h, line⟩ := h
    have waits (n : Int) : t.indexPlain a n = _ :=
      State.indexPlain_waits n (by rwa [engine]) (by rwa [text]) (by rwa [text])
    have held : (t.waitFor .printLineBusy a .afresh) = { t with
        text := { s.text with waiting := some .printLineBusy, resume := some { action := a, stage := .afresh } } } := by
      rw [State.waitFor, text]
    rw [← held]
    simp only [List.mem_cons, List.not_mem_nil, or_false] at hk
    obtain rfl | rfl := hk
    all_goals
      have none : s.slotsNeeded a ≤ 0 := by simp [State.slotsNeeded, h.1.2.2.1, line, Option.isNone_iff_eq_none, busy]
    · exact exec_plain_slots h none (Nat.zero_le _) ((index h.1.2.2.1).trans (waits _))
    · exact exec_plain_slots h none (Nat.zero_le _) ((reverse h.1.2.2.1).trans (waits _))

/-- Settles O49. -/
theorem returnEndsLine : Obligations.ReturnEndsLine := by
  intro s a rest x t pp
  have text : t.text = s.text := State.taken_text s rest
  have engine : t.engine = s.engine := State.taken_engine s rest
  refine ⟨fun ⟨h, direct, moving, free⟩ => ?_, fun ⟨h, line⟩ => ?_⟩
  · have effect : t.performPlain a true = t.returnDirect a := by
      simp only [State.performPlain, h.1.2.2.1, State.returnPlain, text, direct]
    obtain ⟨l, e⟩ := State.returnDirect_eq (s := t) (a := a) (by rwa [engine])
    refine ⟨_, exec_plain_slots h (State.slotsNeeded_feed (by rw [h.1.2.2.1]; decide)) free (effect.trans e), ?_⟩
    dsimp only
    rw [text, engine, State.taken_spell]
    exact ⟨rfl, rfl, rfl, rfl⟩
  · intro e waits
    have none : s.slotsNeeded a ≤ 0 := by simp [State.slotsNeeded, h.1.2.2.1, line]
    have gives {u : State} (effect : t.returnLine a = u) : exec .carriageReturn s = .next (u.finish s) := by
      refine exec_plain_slots h none (Nat.zero_le _) (Eq.trans ?_ effect)
      have mode : (s.taken rest).text.settings.mode = .line := by rw [State.taken_text, line]
      show (s.taken rest).performPlain a true = (s.taken rest).returnLine a
      simp only [State.performPlain, h.1.2.2.1, State.returnPlain, mode]
    have ended : t.wordEnd t.text.pp = e := by rw [text]
    refine ⟨fun clear => ?_, fun spell armed out => gives ?_, fun spell armed settled unknown => gives ?_⟩
    · have passes : t.returnLine a = if t.text.print.isNone && t.isLocked then t.refuse a else e.returnDispatch a := by
        rw [← ended]
        refine State.returnLine_passes ?_
        rw [ended, State.spellStops, text]
        obtain spell | armed | settled := clear
        · exact .inl (fun stops => spell stops.1)
        · exact .inl (fun stops => by rw [stops.2] at armed; cases armed)
        · exact .inr settled
      have busy : e.text.print.isSome = s.text.print.isSome := by rw [State.wordEnd_print, text]
      refine ⟨fun open_line moving => gives (passes.trans ?_), fun closed => gives (passes.trans ?_)⟩
      · have free : t.isLocked = false := by simpa [State.isLocked, engine] using moving
        rw [free, Bool.and_false, if_neg (by decide), State.returnDispatch, busy, open_line, if_neg (by decide),
          State.wordEnd_isLocked, free]
        rfl
      · have some : s.text.print.isSome = true := Option.isSome_iff_ne_none.mpr closed
        rw [State.returnDispatch, busy, some, text, ← Option.not_isSome, some]
        rfl
    · rw [State.returnLine_verdicts (by rw [State.spellStops, text]; exact ⟨spell, armed⟩) (by rwa [ended]), ended]
      rfl
    · rw [State.returnLine_unknown (by rw [State.spellStops, text]; exact ⟨spell, armed⟩) (by rwa [ended]) (by rwa [ended]),
        ended, State.taken_display]

/-- Settles O41. -/
theorem lockedRefuses : Obligations.LockedRefuses := by
  intro s k a rest h locked empty refused
  have text : (s.taken rest).text = s.text := State.taken_text s rest
  have held : (s.taken rest).isLocked = true := by rw [State.isLocked, State.taken_engine, locked]; rfl
  have kind : a.kind = k := h.2.2.1
  have refuses : (s.taken rest).refuse a = refused := State.refuse_keyboard _ a
  have gives {t : State} (effect : (s.taken rest).perform a = t) : exec k.command s = .next (t.finish s) :=
    exec_offers_roomy h empty effect
  have plainly (run : s.text.run = none) : (s.taken rest).perform a = (s.taken rest).performPlain a true :=
    State.perform_plain a (by rwa [text])
  refine ⟨fun run direct among => gives ?_, fun run line among => gives ?_, fun run line is_return => ?_,
    fun r run ends => gives ?_⟩
  · rw [plainly run, State.performPlain_locked held (by rwa [text]) (by rwa [kind]), refuses]
  · rw [plainly run, ← refuses]
    have feeds (n : Int) : (s.taken rest).indexPlain a n = (s.taken rest).refuse a := if_pos held
    simp only [List.mem_cons, List.not_mem_nil, or_false] at among
    obtain among | among := among <;> simp only [State.performPlain, kind.trans among, feeds]
  · subst is_return
    intro e stops
    have mode : (s.taken rest).text.settings.mode = .line := by rw [text, line]
    have ended : (s.taken rest).wordEnd (s.taken rest).text.pp = e := by rw [text]
    have does : (s.taken rest).perform a = (s.taken rest).returnLine a := by
      rw [plainly run]
      simp only [State.performPlain, kind, State.returnPlain, mode]
    have same : (s.taken rest).spellStops ↔ stops := by rw [State.spellStops, text]
    refine ⟨fun none clear => gives ?_, fun spell out => gives ?_, fun spell settled unknown => gives ?_⟩
    · rw [does, State.returnLine_passes (by rwa [same, ended]), text, none, held, refuses]
      rfl
    · rw [does, State.returnLine_verdicts (same.mpr spell) (by rwa [ended]), ended]
      rfl
    · rw [does, State.returnLine_unknown (same.mpr spell) (by rwa [ended]) (by rwa [ended]), ended, State.taken_display]
  · have intake : (s.taken rest).intake.decimal = s.intake.decimal := by unfold State.taken; split <;> rfl
    rw [State.perform_ends (r := r) (by rwa [text]) (by rwa [kind, intake]), State.endRun_locked r a held, refuses]
end

section
/-! SUPPORT. The moves of the print point: SPACE, TAB, BACKSPACE and RELOCATE. -/

-- One proof after another: the check's process cannot start a thread for each.
set_option Elab.async false

namespace Sys2Proof.Machine

/-! ## The moves of pp (R17) -/

/-- pp moves, and a line-mode action is an edit (R134). -/
def State.movedTo (s : State) (p : Nat) : State :=
  { s with text := { s.text with pp := p, armed := if s.text.settings.mode = .line then false else s.text.armed } }

theorem State.lineEdit_setPp (s : State) (p : Nat) : (s.setPp p).lineEdit = s.movedTo p := by
  unfold State.lineEdit State.movedTo State.setPp
  cases s.text.settings.mode <;> rfl

theorem State.setPp_direct {s : State} (p : Nat) (direct : s.text.settings.mode = .direct) : s.setPp p = s.movedTo p := by
  rw [State.movedTo, direct]
  rfl

theorem State.edited_setPp_line {s : State} (p : Nat) (line : s.text.settings.mode = .line) :
    (s.setPp p).edited = s.movedTo p := by
  rw [State.movedTo, line]
  rfl

theorem State.pastRm_iff (s : State) (w : Nat) :
    s.pastRm w = true ↔ s.text.settings.rm < s.text.pp + w ∧ s.text.settings.marginRelease = false := by
  simp [State.pastRm]

theorem State.spacePlain_moves {s : State} {a : Action} {p : Nat} (h : s.text.pp + spaceWidth s.text.settings.pitch = p)
    (within_rm : p ≤ s.text.settings.rm ∨ s.text.settings.marginRelease = true) (within_line : p ≤ 1600) :
    s.spacePlain a true = (s.movedTo p).wordEnd s.text.pp := by
  unfold State.spacePlain
  dsimp only
  rw [h, if_neg, if_neg (by omega), State.lineEdit_setPp]
  · rfl
  · rw [State.pastRm_iff, h]
    rintro ⟨past, held⟩
    rcases within_rm with near | free
    · omega
    · rw [held] at free; cases free

theorem State.spacePlain_past {s : State} {a : Action} (held : s.text.settings.marginRelease = false)
    (past : s.text.settings.rm < s.text.pp + spaceWidth s.text.settings.pitch) :
    s.spacePlain a true = if s.text.settings.mode = .direct then s.refuse a else s.spaceDispatch a true := by
  unfold State.spacePlain
  dsimp only
  rw [if_pos ((s.pastRm_iff _).mpr ⟨past, held⟩)]
  cases s.text.settings.mode <;> rfl

theorem rising_tail {x : Nat} {xs : List Nat} (h : rising (x :: xs) = true) : rising xs = true := by
  cases xs with
  | nil => rfl
  | cons y ys =>
    simp only [rising, Bool.and_eq_true] at h
    exact h.2

/-- In a rising list the first element above `p` and below `q` is the least of those above `p`. -/
theorem find?_rising {l : List Nat} {p q u : Nat} (rises : rising l = true) (hu : u ∈ l) (low : p < u) (high : u < q)
    (least : ∀ v ∈ l, p < v → u ≤ v) : l.find? (fun t => decide (p < t) && decide (t < q)) = some u := by
  induction l with
  | nil => cases hu
  | cons x xs ih =>
    rcases List.mem_cons.mp hu with rfl | behind
    · exact List.find?_cons_of_pos (by simp [low, high])
    · have below := rising_head_lt rises u behind
      rw [List.find?_cons_of_neg]
      · exact ih (rising_tail rises) behind (fun v hv => least v (List.mem_cons_of_mem _ hv))
      · have := least x List.mem_cons_self
        simp only [Bool.and_eq_true, decide_eq_true_eq]
        omega

theorem State.backRefused_iff (s : State) : s.backRefused = true ↔ s.text.pp ≤ s.text.settings.leftStop := decide_eq_true_iff

/-- The state after a line-mode BACKSPACE or CORRECT that deletes a character. -/
theorem State.backLine_deletes {s : State} {a : Action} {e : Entry} (h : s.text.work.newestEndingAt s.text.pp = some e) :
    s.backLine a = ((s.removeOwner e).setPp e.pos).edited := by
  rw [State.backLine, h]

theorem State.backLine_moves {s : State} {a : Action} (h : s.text.work.newestEndingAt s.text.pp = none) :
    s.backLine a = if s.backRefused then s.refuse a
      else (s.setPp (max s.text.settings.leftStop (s.text.pp - spaceWidth s.text.settings.pitch))).edited := by
  rw [State.backLine, h, State.backTarget, h]

theorem State.removeOwner_id_gone (s : State) (e : Entry) : e.id ∉ (s.removeOwner e).text.work.entries.map Entry.id := by
  intro h
  obtain ⟨z, hz, same⟩ := List.mem_map.mp h
  rw [State.removeOwner_work] at hz
  obtain ⟨y, hy, rfl⟩ := List.mem_map.mp hz
  have out := (List.mem_filter.mp hy).2
  have named : y.id = e.id := by rw [← same]; split <;> rfl
  simp [named] at out

theorem State.removeOwner_stands {s : State} (unique : (s.text.allEntries.map Entry.id).Nodup) {e y : Entry}
    (hy : y ∈ s.text.work.entries) (other : y.id ≠ e.id) (no_companion : y.owner ≠ some e.id) :
    ∃ y' ∈ (s.removeOwner e).text.work.entries, y' = { y with mark := y'.mark } := by
  rw [State.removeOwner_work]
  refine ⟨_, List.mem_map_of_mem (List.mem_filter.mpr ⟨hy, ?_⟩), by split <;> rfl⟩
  rw [Bool.not_eq_true', Bool.eq_false_iff, ne_eq, State.goesOut_iff unique hy]
  rintro (h | h)
  · exact other h
  · exact no_companion h

/-! ## The greatest end of some entries -/

theorem foldl_max_le (l : List Nat) (m : Nat) : m ≤ l.foldl max m ∧ ∀ x ∈ l, x ≤ l.foldl max m := by
  induction l generalizing m with
  | nil => simp
  | cons x xs ih =>
    obtain ⟨start, rest⟩ := ih (max m x)
    refine ⟨le_trans (le_max_left _ _) start, fun y hy => ?_⟩
    rcases List.mem_cons.mp hy with rfl | hy
    · exact le_trans (le_max_right _ _) start
    · exact rest y hy

theorem foldl_max_mem (l : List Nat) (m : Nat) : l.foldl max m = m ∨ l.foldl max m ∈ l := by
  induction l generalizing m with
  | nil => exact .inl rfl
  | cons x xs ih =>
    rw [List.foldl_cons]
    rcases ih (max m x) with same | among
    · rw [same]
      rcases le_total m x with le | le
      · exact .inr (by rw [max_eq_right le]; exact List.mem_cons_self)
      · exact .inl (max_eq_left le)
    · exact .inr (List.mem_cons_of_mem _ among)

theorem le_greatestEnd {l : List Entry} {d : Nat} {e : Entry} (h : e ∈ l) : e.endPos ≤ greatestEnd d l := by
  cases l with
  | nil => cases h
  | cons x xs =>
    obtain ⟨start, rest⟩ := foldl_max_le (xs.map Entry.endPos) x.endPos
    rcases List.mem_cons.mp h with rfl | h
    · exact start
    · exact rest _ (List.mem_map_of_mem h)

theorem greatestEnd_mem {l : List Entry} {d : Nat} (h : l ≠ []) : ∃ e ∈ l, e.endPos = greatestEnd d l := by
  cases l with
  | nil => exact absurd rfl h
  | cons x xs =>
    rcases foldl_max_mem (xs.map Entry.endPos) x.endPos with same | among
    · exact ⟨x, List.mem_cons_self, same.symm⟩
    · obtain ⟨e, he, same⟩ := List.mem_map.mp among
      exact ⟨e, List.mem_cons_of_mem _ he, same⟩

end Sys2Proof.Machine

open Sys2Proof Sys2Proof.Machine

/-- Settles O45. -/
theorem printPointMoves : Obligations.PrintPointMoves := by
  intro s a rest x t pp w stop moved
  have text : t.text = s.text := State.taken_text s rest
  have is_moved (p : Nat) : t.movedTo p = moved p := by rw [State.movedTo, text]
  have left : t.text.settings.leftStop = stop := by rw [text]; rfl
  refine ⟨fun h => ?_, fun h rises => ?_, fun h => ?_, fun h => ?_⟩
  · have gives {u : State} (effect : t.spacePlain a true = u) : exec .space s = .next (u.finish s) :=
      exec_plain_free h rfl ((show t.performPlain a true = _ by simp only [State.performPlain, h.1.2.2.1]).trans effect)
    refine ⟨fun near inside => gives ?_, fun free beyond => gives ?_, fun held past => ?_⟩
    · rw [State.spacePlain_moves (p := pp + w) (by rw [text]) (by rw [text]; exact near) inside, is_moved, text]
    · unfold State.spacePlain
      dsimp only
      rw [if_neg (by rw [State.pastRm_iff, text, free]; simp), text]
      exact if_pos beyond
    · have passes := State.spacePlain_past (s := t) (a := a) (by rwa [text]) (by rw [text]; exact past)
      rw [text] at passes
      refine ⟨fun direct => gives ?_, fun line closed => gives ?_, fun line none locked => gives ?_,
        fun line none moving => gives ?_⟩
      · rw [passes, if_pos direct]
      · rw [passes, if_neg (by rw [line]; decide), State.spaceDispatch, text, if_pos (Option.isSome_iff_ne_none.mpr closed),
          State.waitFor, text]
      · rw [passes, if_neg (by rw [line]; decide), State.spaceDispatch, text, none, if_neg (by decide),
          if_pos (by simp [State.isLocked, t, locked])]
      · rw [passes, if_neg (by rw [line]; decide), State.spaceDispatch, text, none, if_neg (by decide),
          if_neg (by simpa [State.isLocked, t] using moving)]
        rfl
  · have gives {u : State} (effect : t.tabPlain a true = u) : exec .tab s = .next (u.finish s) :=
      exec_plain_free h rfl ((show t.performPlain a true = _ by simp only [State.performPlain, h.1.2.2.1]).trans effect)
    refine ⟨fun beyond => gives ?_, fun u hu low high least => gives ?_⟩
    · have no_tab : t.nextTab = none := by
        rw [State.nextTab, text, List.find?_eq_none]
        intro u hu
        have : u ≤ s.text.pp ∨ s.text.settings.rm ≤ u := beyond u hu
        simp only [Bool.and_eq_true, decide_eq_true_eq]
        omega
      rw [State.tabPlain, no_tab]
    · have next : t.nextTab = some u := by rw [State.nextTab, text]; exact find?_rising rises hu low high least
      rw [State.tabPlain, next]
      dsimp only
      rw [State.lineEdit_setPp, is_moved, text]
      rfl
  · have gives {u : State} (effect : t.performPlain a true = u) : exec .backspace s = .next (u.finish s) :=
      exec_plain_free h rfl effect
    have direct_does (mode : x.mode = .direct) : t.performPlain a true = t.backDirect a := by
      have mode : (s.taken rest).text.settings.mode = .direct := by rw [State.taken_text]; exact mode
      show (s.taken rest).performPlain a true = (s.taken rest).backDirect a
      simp only [State.performPlain, h.1.2.2.1, mode]
    have line_does (mode : x.mode = .line) : t.performPlain a true = t.backLine a := by
      have mode : (s.taken rest).text.settings.mode = .line := by rw [State.taken_text]; exact mode
      show (s.taken rest).performPlain a true = (s.taken rest).backLine a
      simp only [State.performPlain, h.1.2.2.1, mode]
    have refused : t.backRefused = true ↔ pp ≤ stop := by rw [State.backRefused_iff, left, text]
    have not_line {m : Mode} (other : ¬m = .line) : m = .direct := by cases m <;> first | rfl | exact absurd rfl other
    refine ⟨fun at_stop which => ?_, fun right none => ?_, fun e newest => ⟨fun mode right => ?_, fun mode => ?_⟩⟩
    · by_cases mode : x.mode = .line
      · have none : s.text.work.newestEndingAt pp = none :=
          which.resolve_right (by rw [mode]; decide)
        exact gives ((line_does mode).trans ((State.backLine_moves (by rwa [text])).trans (if_pos (refused.mpr at_stop))))
      · exact gives ((direct_does (not_line mode)).trans (if_pos (refused.mpr at_stop)))
    · by_cases mode : x.mode = .line
      · refine gives ((line_does mode).trans ((State.backLine_moves (by rwa [text])).trans ?_))
        rw [if_neg (by rw [refused]; omega), State.edited_setPp_line _ (by rwa [text]), is_moved, left, text]
      · refine gives ((direct_does (not_line mode)).trans ?_)
        rw [State.backDirect, if_neg (by rw [refused]; omega), State.setPp_direct _ (by rw [text]; exact not_line mode), is_moved,
          State.backTarget, text, none, ← left, text]
    · refine gives ((direct_does mode).trans ?_)
      rw [State.backDirect, if_neg (by rw [refused]; omega), State.setPp_direct _ (by rwa [text]), is_moved,
          State.backTarget, text, newest, ← left, text]
    · have settings := (t.removeOwner_follows e).settings
      have spell : t.spell = s.spell := State.taken_spell s rest
      refine ⟨_, gives ((line_does mode).trans (State.backLine_deletes (by rwa [text]))), rfl, rfl, ?_, t.removeOwner_id_gone e,
        fun unique y hy other no_companion => State.removeOwner_stands (by rwa [text]) (by rwa [text]) other no_companion,
        fun unique owned => ?_⟩
      · exact settings.trans (by rw [text])
      · have removed := State.removeOwner_removed (s := t) (by rwa [text]) (by rwa [text]) e
        rw [Removed, text, spell] at removed
        exact removed
  · have gives {u : State} (effect : t.relocatePlain = u) : exec .relocate s = .next (u.finish s) :=
      exec_plain_free h rfl ((show t.performPlain a true = _ by simp only [State.performPlain, h.1.2.2.1]).trans effect)
    refine ⟨fun mode => gives ?_, fun mode none => gives ?_,
      fun mode some => ⟨greatestEnd x.lm s.text.work.chars, gives ?_, greatestEnd_mem some, fun e he => le_greatestEnd he⟩⟩
    · rw [State.relocatePlain, text]
      simp only [show s.text.settings.mode = .line from mode]
    · rw [State.relocatePlain, text]
      simp only [show s.text.settings.mode = .direct from mode]
      rw [State.setPp_direct _ (by rwa [text]), is_moved, none]
      rfl
    · rw [State.relocatePlain, text]
      simp only [show s.text.settings.mode = .direct from mode]
      rw [State.setPp_direct _ (by rwa [text]), is_moved]
end

section
/-! SUPPORT. The placement of a character, with the widths and offsets of Chapter 2. -/

-- One proof after another: the check's process cannot start a thread for each.
set_option Elab.async false

namespace Sys2Proof.Machine

/-! ## Ops that join the queue, with the STATE they ask for (R14, R59) -/

theorem State.appendOp_told {s : State} (o : Op) (moving : s.engine.state ≠ .locked) :
    s.appendOp o =
      { s with
        engine := { s.engine with slots := s.engine.slots ++ [o] },
        line := if s.engine.slots = [] ∧ s.engine.head = none then s.line.askState else s.line } := by
  have line : (if ((s.engine.slots ++ [o]).isEmpty && s.engine.head.isNone) == s.engine.emptyMark then s.line else s.line.askState)
      = if s.engine.slots = [] ∧ s.engine.head = none then s.line.askState else s.line := by
    unfold Engine.emptyMark
    cases s.engine.slots <;> cases s.engine.head <;> simp
  rw [State.appendOp, if_neg (by simpa [State.isLocked] using moving), State.setQueue, line]

/-- The ops that join a queue which is not empty ask for no STATE. -/
theorem State.appendOps_busy (os : List Op) {s : State} (moving : s.engine.state ≠ .locked) (busy : s.engine.slots ≠ []) :
    os.foldl State.appendOp s = { s with engine := { s.engine with slots := s.engine.slots ++ os } } := by
  induction os generalizing s with
  | nil => simp
  | cons o os ih =>
    have one : s.appendOp o = { s with engine := { s.engine with slots := s.engine.slots ++ [o] } } := by
      rw [State.appendOp_told o moving, if_neg (fun h => busy h.1)]
    rw [List.foldl_cons, one]
    refine (ih (s := { s with engine := { s.engine with slots := s.engine.slots ++ [o] } }) moving (by simp)).trans ?_
    simp

theorem State.appendOps_told (os : List Op) {s : State} (moving : s.engine.state ≠ .locked) (some : os ≠ []) :
    os.foldl State.appendOp s =
      { s with
        engine := { s.engine with slots := s.engine.slots ++ os },
        line := if s.engine.slots = [] ∧ s.engine.head = none then s.line.askState else s.line } := by
  cases os with
  | nil => exact absurd rfl some
  | cons o os =>
    rw [List.foldl_cons, State.appendOp_told o moving]
    refine (State.appendOps_busy os (s := { s with
      engine := { s.engine with slots := s.engine.slots ++ [o] },
      line := if s.engine.slots = [] ∧ s.engine.head = none then s.line.askState else s.line }) moving (by simp)).trans ?_
    simp

/-! ## The bell (R15, R36) -/

theorem State.bell_told (s : State) (p w : Nat) :
    s.bell p w =
      { s with
        text := { s.text with bellGiven := s.text.bellGiven || entersBell s.text.settings.rm p w },
        line := if entersBell s.text.settings.rm p w = true ∧ s.text.bellGiven = false then s.line.sound .bell else s.line } := by
  unfold State.bell
  split
  · next h =>
    rw [h.1, h.2]
    rfl
  · next h =>
    have same : (s.text.bellGiven || entersBell s.text.settings.rm p w) = s.text.bellGiven := by
      cases given : s.text.bellGiven <;> cases enters : entersBell s.text.settings.rm p w <;> simp_all
    rw [same]

/-! ## Where a character has a place (R15, R26) -/

theorem State.offWheel_eq_false_iff (s : State) (c : Nat) :
    s.offWheel c = false
      ↔ onWheel s.engine.wheel c = true ∧ (s.text.settings.underline = true → onWheel s.engine.wheel 95 = true) := by
  unfold State.offWheel
  cases onWheel s.engine.wheel c <;> cases s.text.settings.underline <;> simp

theorem State.noPlace_eq_false_iff (s : State) (c : Nat) :
    s.noPlace c = false
      ↔ s.offWheel c = false ∧ s.text.pp + (s.placement c).width ≤ 1600
        ∧ s.text.work.entries.length + entryCount (s.placement c).width s.text.settings.bold s.text.settings.underline ≤ 320
        ∧ (s.text.work.charsAt s.text.pp).length < 2 := by
  unfold State.noPlace
  dsimp only
  rw [Bool.or_eq_false_iff, Bool.or_eq_false_iff, Bool.or_eq_false_iff, and_assoc, and_assoc]
  exact and_congr_right' (and_congr (decide_eq_false_iff_not.trans not_lt)
    (and_congr (decide_eq_false_iff_not.trans not_lt) (decide_eq_false_iff_not.trans not_le)))

theorem State.pastRm_eq_false_iff (s : State) (w : Nat) :
    s.pastRm w = false ↔ s.text.pp + w ≤ s.text.settings.rm ∨ s.text.settings.marginRelease = true := by
  rw [← Bool.not_eq_true, State.pastRm_iff, not_and_or, not_lt, Bool.not_eq_false]

theorem makeEntries_ne_nil (n : Nat) (p : Placement) (st : EntryState) : makeEntries n p st ≠ [] := by
  unfold makeEntries
  exact List.cons_ne_nil _ _

/-! ## The placement (R15, R16, R26) -/

/-- A direct-mode placement before its word end. -/
def State.struckChar (s : State) (c : Nat) : State :=
  let p := s.placement c
  let es := makeEntries s.nextId p .queued
  ((((es.map (fun e => strikeOp e s.text.settings.impression)).foldl State.appendOp (s.addEntries p .queued)).setPp
    (p.pos + p.width)).bell p.pos p.width)

theorem endWord_eq (u : State) (p c : Nat) :
    u.endWord p (true && !continuesWord c) = if continuesWord c then u else u.wordEnd p := by
  unfold State.endWord
  cases continuesWord c <;> rfl

theorem State.placeDirect_eq (s : State) (a : Action) :
    s.placeDirect a true
      = if continuesWord a.code then s.struckChar a.code else (s.struckChar a.code).wordEnd s.text.pp :=
  endWord_eq _ _ _

theorem State.struckChar_eq {s : State} (c : Nat) (moving : s.engine.state ≠ .locked) :
    s.struckChar c =
      (let p := s.placement c
       let es := makeEntries s.nextId p .queued
       let told := if s.engine.slots = [] ∧ s.engine.head = none then s.line.askState else s.line
       { s with
         nextId := s.nextId + es.length,
         text :=
           { s.text with
             work := s.text.work.addAll es, pp := s.text.pp + p.width,
             bellGiven := s.text.bellGiven || entersBell s.text.settings.rm s.text.pp p.width },
         engine :=
           { s.engine with slots := s.engine.slots ++ es.map (fun e => strikeOp e s.text.settings.impression) },
         line :=
           if entersBell s.text.settings.rm s.text.pp p.width = true ∧ s.text.bellGiven = false then told.sound .bell
           else told }) := by
  unfold State.struckChar
  dsimp only
  rw [State.appendOps_told _ (s := s.addEntries (s.placement c) .queued) moving
    (by simpa using makeEntries_ne_nil _ _ _), State.bell_told]
  rfl

theorem State.charDirect_placed {s : State} {a : Action} (moving : s.engine.state ≠ .locked) (place : s.noPlace a.code = false)
    (margin : s.pastRm (s.placement a.code).width = false) :
    s.charDirect a true
      = if continuesWord a.code then s.struckChar a.code else (s.struckChar a.code).wordEnd s.text.pp := by
  rw [State.charDirect, if_neg (by simp [State.isLocked, moving, place, margin]), State.placeDirect_eq]

theorem State.charDirect_refused {s : State} {a : Action}
    (h : s.noPlace a.code = true ∨ s.pastRm (s.placement a.code).width = true) : s.charDirect a true = s.refuse a :=
  if_pos (.inr h)

theorem State.placePending_told (s : State) (c : Nat) :
    s.placePending c =
      (let q := s.placement c
       { s with
         nextId := s.nextId + (makeEntries s.nextId q .pending).length,
         text :=
           { s.text with
             work := s.text.work.addAll (makeEntries s.nextId q .pending), pp := s.text.pp + q.width, armed := false,
             bellGiven := s.text.bellGiven || entersBell s.text.settings.rm s.text.pp q.width },
         line :=
           if entersBell s.text.settings.rm s.text.pp q.width = true ∧ s.text.bellGiven = false then s.line.sound .bell
           else s.line }) := by
  unfold State.placePending
  dsimp only
  rw [State.bell_told]
  rfl

theorem State.placePending_rings (s : State) (c : Nat) :
    s.placePending c =
      (let q := s.placement c
       let rings := entersBell s.text.settings.rm s.text.pp q.width && !s.text.bellGiven
       { s with
         nextId := s.nextId + (makeEntries s.nextId q .pending).length,
         text :=
           { s.text with
             work := s.text.work.addAll (makeEntries s.nextId q .pending), pp := s.text.pp + q.width, armed := false,
             bellGiven := s.text.bellGiven || rings },
         line := if rings then s.line.sound .bell else s.line }) := by
  have given (g r : Bool) : (g || r) = (g || (r && !g)) := by cases g <;> cases r <;> rfl
  have line (g r : Bool) (x y : LineInterface) : (if r = true ∧ g = false then x else y) = if (r && !g) = true then x else y := by
    cases g <;> cases r <;> rfl
  rw [State.placePending_told]
  dsimp only
  rw [given, line]

theorem State.charLine_placed {s : State} {a : Action} (margin : s.pastRm (s.placement a.code).width = false)
    (place : s.noPlace a.code = false) :
    s.charLine a true
      = if continuesWord a.code then s.placePending a.code else (s.placePending a.code).wordEnd s.text.pp := by
  rw [State.charLine, if_neg (by simp [margin]), if_neg (by simp [place]), endWord_eq]

theorem State.charLine_refused {s : State} {a : Action} (margin : s.pastRm (s.placement a.code).width = false)
    (place : s.noPlace a.code = true) : s.charLine a true = s.refuse a := by
  rw [State.charLine, if_neg (by simp [margin]), if_pos place]

theorem State.charLine_wraps {s : State} {a : Action} (margin : s.pastRm (s.placement a.code).width = true) :
    s.charLine a true = s.charWrap a := if_pos margin

theorem State.charPlain_direct {s : State} (a : Action) (h : s.text.settings.mode = .direct) :
    s.charPlain a true = s.charDirect a true := by
  simp only [State.charPlain, h]

theorem State.charPlain_line {s : State} (a : Action) (h : s.text.settings.mode = .line) :
    s.charPlain a true = s.charLine a true := by
  simp only [State.charPlain, h]

/-! ## The wrap (R42) -/

/-- A wrap with no word to carry. -/
theorem State.charWrap_alone {s : State} {a : Action} (none : s.text.work.newestEndingAt s.text.pp = none) :
    (s.offWheel a.code = false ∧ s.text.settings.lm + (s.placement a.code).width ≤ s.text.settings.rm →
        s.charWrap a = s.wrapChar a [])
      ∧ (¬(s.offWheel a.code = false ∧ s.text.settings.lm + (s.placement a.code).width ≤ s.text.settings.rm) →
        s.charWrap a = s.refuse a) := by
  have empty := (s.text.work.wordAt_isEmpty s.text.pp).mpr none
  unfold State.charWrap
  dsimp only
  constructor
  · rintro ⟨on_wheel, fits⟩
    rw [if_neg (by simp [on_wheel, fits]), if_pos empty]
  · intro not
    refine if_pos ?_
    by_contra h
    rw [not_or, Bool.not_eq_true, not_lt] at h
    exact not h

/-- The word that a wrap carries leaves a line behind, and fits the new one with the character (R42, R43; log entry 44). -/
def State.carries (s : State) (c : Nat) : Prop :=
  let x := s.text.settings
  let w := (s.placement c).width
  let word := s.text.work.wordAt s.text.pp
  let ws := leastPos x.lm word
  s.offWheel c = false ∧ x.lm + w ≤ x.rm ∧ x.lm < ws ∧ word.length < s.text.work.chars.length
    ∧ (s.text.pp - ws) + w ≤ x.rm - x.lm
    ∧ (s.text.work.entries.filter (fun e => (word.map Entry.id).contains (ownerId e))).length
        + entryCount w x.bold x.underline ≤ 320

theorem State.charWrap_word {s : State} {a : Action} (word : s.text.work.newestEndingAt s.text.pp ≠ none) :
    (s.carries a.code → s.charWrap a = s.wrapChar a (s.text.work.wordAt s.text.pp))
      ∧ (¬s.carries a.code → s.charWrap a = s.refuse a) := by
  have stands : ¬(s.text.work.wordAt s.text.pp).isEmpty = true := fun h => word ((s.text.work.wordAt_isEmpty _).mp h)
  have full : s.carryFull a (s.text.work.wordAt s.text.pp) = true
      ↔ 320 < (s.text.work.entries.filter (fun e =>
          ((s.text.work.wordAt s.text.pp).map Entry.id).contains (ownerId e))).length
        + entryCount (s.placement a.code).width s.text.settings.bold s.text.settings.underline := decide_eq_true_iff
  unfold State.carries State.charWrap
  dsimp only
  constructor
  · rintro ⟨on_wheel, fits, starts, leaves, carried, few⟩
    rw [if_neg (by rw [on_wheel]; simp; omega), if_neg stands, if_neg (by omega), if_neg (by omega), if_neg (by rw [full]; omega)]
  · intro not
    by_cases h1 : s.offWheel a.code = true ∨ s.text.settings.rm < s.text.settings.lm + (s.placement a.code).width
    · exact if_pos h1
    rw [if_neg h1, if_neg stands]
    by_cases h2 : leastPos s.text.settings.lm (s.text.work.wordAt s.text.pp) ≤ s.text.settings.lm
        ∨ s.text.work.chars.length ≤ (s.text.work.wordAt s.text.pp).length
    · exact if_pos h2
    rw [if_neg h2]
    by_cases h3 : s.text.settings.rm - s.text.settings.lm
        < s.text.pp - leastPos s.text.settings.lm (s.text.work.wordAt s.text.pp) + (s.placement a.code).width
    · exact if_pos h3
    rw [if_neg h3]
    refine if_pos (full.mpr ?_)
    rw [not_or, Bool.not_eq_true] at h1
    by_contra few
    exact not ⟨h1.1, by omega, by omega, by omega, by omega, by omega⟩

theorem State.wrapChar_waits {s : State} {a : Action} {word : List Entry} (closed : s.text.print ≠ none) :
    s.wrapChar a word = s.waitFor .printLineBusy a .wrap := if_pos (Option.isSome_iff_ne_none.mpr closed)

theorem State.wrapChar_refused {s : State} {a : Action} {word : List Entry} (none : s.text.print = none)
    (locked : s.engine.state = .locked) : s.wrapChar a word = s.refuse a := by
  rw [State.wrapChar, none, if_neg (by decide), if_pos (by simp [State.isLocked, locked])]

theorem State.wrapChar_carries {s : State} {a : Action} {word : List Entry} (none : s.text.print = none)
    (moving : s.engine.state ≠ .locked) :
    s.wrapChar a word
      = ((if continuesWord a.code then s else s.wordEnd s.text.pp).dispatch true word).placePending a.code := by
  rw [State.wrapChar, none, if_neg (by decide), if_neg (by simpa [State.isLocked] using moving), State.endWord]
  cases continuesWord a.code <;> rfl

/-- Where no character ends there is no word end (R118). -/
theorem State.wordEnd_nowhere {s : State} {p : Nat} (h : s.text.work.newestEndingAt p = none) : s.wordEnd p = s :=
  if_pos (.inr (.inr (by rw [h]; rfl)))

/-! ## Widths and offsets (Tables 2-1 and 2-2) -/

theorem proportional_iff (code : Nat) : proportional (some code) = true ↔ nativePitch code = some .ps := decide_eq_true_iff

theorem widthClass_pos (code c : Nat) : 1 ≤ widthClass code c := by
  unfold widthClass
  split <;> omega

end Sys2Proof.Machine

open Sys2Proof Sys2Proof.Machine

/-- Settles O47. -/
theorem charPlaced : Obligations.CharPlaced := by
  refine ⟨fun s a rest h => ?_, fun r p e unique => LineRecord.mem_wordAt unique p e, fun code c => ?_⟩
  · intro x t pp p wheelHas room inMargin es waits rung
    have text : t.text = s.text := State.taken_text s rest
    have engine : t.engine = s.engine := State.taken_engine s rest
    have next : t.nextId = s.nextId := State.taken_nextId s rest
    have kind : a.kind = .char := h.1.2.2.1
    have placement : t.placement a.code = p := by rw [State.placement, text, engine]
    have on_wheel : t.offWheel a.code = false ↔ wheelHas := by rw [State.offWheel_eq_false_iff, text, engine]
    have place : t.noPlace a.code = false ↔ wheelHas ∧ room := by
      rw [State.noPlace_eq_false_iff, on_wheel, placement, text]
    have margin : t.pastRm p.width = false ↔ inMargin := by rw [State.pastRm_eq_false_iff, text]
    have plainly : t.performPlain a true = t.charPlain a true := by simp only [State.performPlain, kind]
    have direct_gives {u : State} (mode : x.mode = .direct) (slots : s.slotsNeeded a ≤ s.freeSlots)
        (effect : t.charDirect a true = u) : exec .char s = .next (u.finish s) :=
      exec_plain_slots h le_rfl slots
        (plainly.trans ((State.charPlain_direct a (by rw [text]; exact mode)).trans effect))
    have line_gives {u : State} (mode : x.mode = .line) (effect : t.charLine a true = u) :
        exec .char s = .next (u.finish s) := by
      have mode : s.text.settings.mode = .line := mode
      have free : s.slotsNeeded a ≤ 0 := by simp [State.slotsNeeded, kind, mode]
      exact exec_plain_slots h free (Nat.zero_le _)
        (plainly.trans ((State.charPlain_line a (by rwa [text])).trans effect))
    have either (m : Mode) : m = .direct ∨ m = .line := by cases m <;> simp
    have wrap_gives {u : State} (mode : x.mode = .line) (past : ¬inMargin) (effect : t.charWrap a = u) :
        exec .char s = .next (u.finish s) := by
      refine line_gives mode ((State.charLine_wraps ?_).trans effect)
      rw [placement, ← Bool.not_eq_false, margin]
      exact past
    have waiting : t.waitFor .printLineBusy a .wrap = waits := by rw [State.waitFor, text]
    refine ⟨fun mode moving slots wheel rm inside => ?_, fun mode wheel rm inside => ?_, fun w => ?_,
      fun slots off inside => ?_, fun mode slots past => ?_, fun mode past none off => ?_,
      fun mode past wheel fits none => ?_, fun mode past word => ?_⟩
    · have done := State.charDirect_placed (s := t) (a := a) (by rwa [engine]) (place.mpr ⟨wheel, rm⟩)
        (by rw [placement]; exact margin.mpr inside)
      rw [text] at done
      refine ⟨_, direct_gives mode slots done, ?_⟩
      rw [State.struckChar_eq a.code (by rwa [engine])]
      dsimp only
      rw [placement, text, engine, next]
      have same : es = makeEntries s.nextId p .queued := by simp only [es, if_pos mode]
      rw [same]
      exact ⟨rfl, rfl, rfl, rfl, rfl, rfl⟩
    · have done := State.charLine_placed (s := t) (a := a) (by rw [placement]; exact margin.mpr inside) (place.mpr ⟨wheel, rm⟩)
      rw [text] at done
      refine ⟨_, line_gives mode done, ?_⟩
      have same : es = makeEntries s.nextId p .pending := by simp only [es, mode]; rfl
      rw [State.placePending_told]
      dsimp only
      rw [placement, text, engine, next, same]
      exact ⟨rfl, rfl, rfl, rfl, rfl, rfl, rfl⟩
    · exact State.placePending_rings w a.code
    · obtain mode | mode := either x.mode
      · exact direct_gives mode slots (State.charDirect_refused (.inl (by rw [← Bool.not_eq_false, place]; exact off)))
      · exact line_gives mode (State.charLine_refused (by rw [placement]; exact margin.mpr inside)
          (by rw [← Bool.not_eq_false, place]; exact off))
    · refine direct_gives mode slots (State.charDirect_refused (.inr ?_))
      rw [placement, ← Bool.not_eq_false, margin]
      exact past
    · have alone := (State.charWrap_alone (s := t) (a := a) (by rwa [text])).2
      rw [on_wheel, placement, text] at alone
      exact wrap_gives mode past (alone off)
    · have alone := (State.charWrap_alone (s := t) (a := a) (by rwa [text])).1
      rw [on_wheel, placement, text] at alone
      replace alone := alone ⟨wheel, fits⟩
      refine ⟨fun closed => wrap_gives mode past (alone.trans ?_), fun none locked => wrap_gives mode past (alone.trans ?_),
        fun open_line moving => wrap_gives mode past (alone.trans ?_)⟩
      · rw [State.wrapChar_waits (by rwa [text]), waiting]
      · rw [State.wrapChar_refused (by rwa [text]) (by rwa [engine])]
      · rw [State.wrapChar_carries (by rwa [text]) (by rwa [engine]), text, State.wordEnd_nowhere (by rwa [text]), ite_self]
    · intro w ws carries
      have same : t.carries a.code ↔ carries := by
        rw [State.carries, on_wheel, placement, text]
      have wraps := State.charWrap_word (s := t) (a := a) (by rwa [text])
      rw [same, text] at wraps
      refine ⟨fun not => wrap_gives mode past (wraps.2 not),
        fun does closed => wrap_gives mode past ((wraps.1 does).trans ?_),
        fun does none locked => wrap_gives mode past ((wraps.1 does).trans ?_),
        fun does none moving => wrap_gives mode past ((wraps.1 does).trans ?_)⟩
      · rw [State.wrapChar_waits (by rwa [text]), waiting]
      · rw [State.wrapChar_refused (by rwa [text]) (by rwa [engine])]
      · rw [State.wrapChar_carries (by rwa [text]) (by rwa [engine]), text]
  · intro k widths offsets
    refine ⟨rfl, rfl, rfl, fun ps => ?_, fun fixed p => ?_⟩
    · have low : 1 ≤ k := widthClass_pos code c
      have high : k ≤ 5 := widthClass_le code c
      have wide : proportional (some code) = true := (proportional_iff code).mpr ps
      have width : widths .ps = 2 * k + 4 := rfl
      have offset (q : Pitch) (w : Nat) (fixed : cell q = some w) : offsets q = (w - (2 * k + 4)) / 2 := by
        simp only [offsets, offsetAt, if_pos wide, fixed]
        rfl
      have none : offsets .ps = 0 := by
        simp only [offsets, offsetAt, if_pos wide]
        rfl
      refine ⟨low, high, ?_⟩
      rw [width, offset .p10 12 rfl, offset .p12 10 rfl, offset .p15 8 rfl, none]
      clear_value k
      interval_cases k <;> decide
    · have narrow : ¬proportional (some code) = true := fun h => fixed ((proportional_iff code).mp h)
      exact if_neg narrow
end

section
/-! SUPPORT. Word ends, and the actions that change the user word list. -/

-- One proof after another: the check's process cannot start a thread for each.
set_option Elab.async false

namespace Sys2Proof.Machine

/-! ## The order of the user word list (R135) -/

theorem wordBefore_total {a b : List Nat} (h : wordBefore a b = false) (other : a ≠ b) : wordBefore b a = true := by
  induction a generalizing b with
  | nil => cases b <;> simp_all [wordBefore]
  | cons x xs ih =>
    cases b with
    | nil => rfl
    | cons y ys =>
      simp only [wordBefore, Bool.or_eq_false_iff, Bool.and_eq_false_iff, decide_eq_false_iff_not, not_lt] at h
      simp only [wordBefore, Bool.or_eq_true, Bool.and_eq_true, decide_eq_true_eq]
      rcases h with ⟨le, differ | before⟩
      · exact .inl (lt_of_le_of_ne le (Ne.symm differ))
      · by_cases same : y = x
        · exact .inr ⟨same, ih before (fun tails => other (by rw [same, tails]))⟩
        · exact .inl (lt_of_le_of_ne le same)

theorem mem_insertWord (w y : List Nat) (l : List (List Nat)) : y ∈ insertWord w l ↔ y ∈ l ∨ y = w := by
  induction l with
  | nil => simp [insertWord]
  | cons x xs ih =>
    rw [insertWord]
    split
    · rw [List.mem_cons, or_comm]
    · rw [List.mem_cons, List.mem_cons, ih, or_assoc]

theorem wordsInOrder_insertWord {w : List Nat} {l : List (List Nat)} (h : wordsInOrder l = true) (new : w ∉ l) :
    wordsInOrder (insertWord w l) = true := by
  induction l with
  | nil => rfl
  | cons x xs ih =>
    rw [List.mem_cons, not_or] at new
    rw [insertWord]
    split
    · next before => simp [wordsInOrder, before, h]
    · next not =>
      have behind := wordBefore_total (Bool.not_eq_true _ ▸ not) new.1
      have tail : wordsInOrder xs = true := by
        cases xs with
        | nil => rfl
        | cons y ys =>
          rw [wordsInOrder, Bool.and_eq_true] at h
          exact h.2
      have rest := ih tail new.2
      cases xs with
      | nil => simp [insertWord, wordsInOrder, behind]
      | cons y ys =>
        rw [wordsInOrder, Bool.and_eq_true] at h
        rw [insertWord] at rest ⊢
        split at rest <;> simp_all [wordsInOrder]

/-! ## Word ends (R118 to R121) -/

theorem continuesWord_iff (c : Nat) : continuesWord c = true ↔ Letter c ∨ c = 39 ∨ 48 ≤ c ∧ c ≤ 57 := by
  simp [continuesWord, isLetter_iff, isDigit, within, or_assoc]

/-- A token's characters end at its word point, so there is one only where a character that may continue a word ends. -/
theorem LineRecord.tokenAt_eq_nil {r : LineRecord} {p : Nat} (h : ∀ e ∈ r.chars, e.endPos = p → ¬continuesWord e.char = true) :
    r.tokenAt p = [] := by
  have none : (r.chars.filter (fun e => continuesWord e.char)).filter (fun e => decide (e.endPos = p)) = [] := by
    rw [List.filter_filter, List.filter_eq_nil_iff]
    intro e he
    rw [Bool.and_eq_true, decide_eq_true_iff]
    exact fun ⟨ends, continues⟩ => h e he ends continues
  unfold LineRecord.tokenAt
  dsimp only
  rw [none]
  exact grow_nil _ _ _

theorem State.wordEnd_unmade {s : State} {p : Nat} (h : s.text.settings.spell = .off ∨ s.text.run ≠ none ∨ s.text.work.tokenAt p = []) :
    s.wordEnd p = s := by
  unfold State.wordEnd
  split
  · rfl
  · next no_effect =>
    have empty : s.text.work.tokenAt p = [] := by
      rcases h with off | run | token
      · exact absurd (.inl off) no_effect
      · exact absurd (.inr (.inl (Option.isSome_iff_ne_none.mpr run))) no_effect
      · exact token
    dsimp only
    rw [empty]
    rfl

theorem State.wordEnd_made {s : State} {p : Nat} (spell : s.text.settings.spell ≠ .off) (run : s.text.run = none)
    (token : s.text.work.tokenAt p ≠ []) : s.wordEnd p = s.recordToken (s.text.work.tokenAt p) := by
  have ends : s.text.work.newestEndingAt p ≠ none := by
    intro none
    rw [LineRecord.newestEndingAt, newest_eq_none, List.filter_eq_nil_iff] at none
    exact token (LineRecord.tokenAt_eq_nil (fun e he ends => absurd (decide_eq_true ends) (none e he)))
  unfold State.wordEnd
  rw [if_neg]
  · exact if_neg (by rwa [List.isEmpty_iff])
  · rintro (off | stands | nowhere)
    · exact spell off
    · rw [run] at stands; cases stands
    · exact ends (Option.isNone_iff_eq_none.mp nowhere)

theorem Spelling.dropNaming_eq (sp : Spelling) (ids : List Nat) :
    sp.dropNaming ids = sp.without (fun r => r.entries.any (fun i => ids.contains i)) := Spelling.dropWhere_eq _ _

/-- The spelling unit with the record of a word made as the newest. -/
def Spelling.withWord (sp : Spelling) (entries letters : List Nat) : Spelling :=
  let records := sp.records ++
    [{ id := sp.nextRecord, tag := none, line := .working, entries := entries, letters := letters, state := .looking }]
  { sp with
    records := records, nextRecord := sp.nextRecord + 1,
    lookup := match sp.lookup with
      | some k => some k
      | none => (records.find? (fun y => decide (y.state = .looking))).map (fun y =>
          { record := some y.id, listed := sp.userList.contains y.letters }) }

theorem State.makeWord_room {s : State} {entries letters : List Nat} (h : s.spell.records.length < 8) :
    s.makeWord entries letters = { s with spell := s.spell.withWord entries letters } := by
  unfold State.makeWord
  dsimp only
  rw [if_pos h, Spelling.beginLookup_eq]
  rfl

theorem State.makeWord_full {s : State} {entries letters : List Nat} {oldest : WordRecord} {more : List WordRecord}
    (h : s.spell.records = oldest :: more) (full : 7 ≤ more.length) :
    s.makeWord entries letters
      = { s with spell := (s.spell.without (fun r => decide (r.id = oldest.id))).withWord entries letters } := by
  have not : ¬s.spell.records.length < 8 := by rw [h, List.length_cons]; omega
  unfold State.makeWord
  extract_lets sp
  have chosen : sp = s.spell.without (fun r => decide (r.id = oldest.id)) := by
    simp only [sp, if_neg not, h, ← Spelling.dropWhere_eq]
  rw [Spelling.beginLookup_eq, chosen]
  rfl

theorem State.recordToken_unchecked {s : State} {token : List Entry} (h : checkedWord token = none) :
    s.recordToken token
      = { s with
          spell := s.spell.dropNaming (token.map Entry.id), text := s.text.setMarks (token.map Entry.id) .plain } := by
  simp only [State.recordToken, h]

theorem State.recordToken_checked {s : State} {token w : List Entry} (h : checkedWord token = some w) :
    s.recordToken token
      = if s.spell.holdsWord (w.map Entry.id) (foldedLetters w) then s
        else State.makeWord { s with spell := s.spell.dropNaming (token.map Entry.id) } (w.map Entry.id) (foldedLetters w) := by
  simp only [State.recordToken, h]

theorem isDigit_iff (c : Nat) : isDigit c = true ↔ 48 ≤ c ∧ c ≤ 57 := by simp [isDigit, within]

/-- A token is checked as its part between the outer apostrophes, or not at all (R119). -/
theorem checkedWord_eq {token w : List Entry} (h : trimmed token = w) :
    checkedWord token =
      if (∃ e ∈ token, 48 ≤ e.char ∧ e.char ≤ 57) ∨ ¬(token.map Entry.pos).Nodup ∨ w.length < 2 ∨ 24 < w.length then none
      else some w := by
  unfold checkedWord
  dsimp only
  rw [h]
  refine if_congr ?_ rfl rfl
  simp only [Bool.or_eq_true, List.any_eq_true, isDigit_iff, sharesPosition_iff, decide_eq_true_iff, or_assoc]

/-! ## The user word list (R136 to R138) -/

theorem State.addWord_new {s : State} {a : Action} {r : WordRecord} (h : s.spell.records.getLast? = some r)
    (new : s.spell.userList.contains r.letters = false) (room : s.spell.userList.length < 128) :
    s.addWord a = State.makeKnown
      { s with spell := ({ s.spell with userList := insertWord r.letters s.spell.userList } : Spelling).changed } r.letters := by
  simp only [State.addWord, h, new]
  rw [if_neg (by decide), if_neg (by omega)]

theorem Spelling.changed_eq (sp : Spelling) :
    sp.changed =
      { sp with
        writing := if sp.writing = none then some (encodeWords sp.userList) else sp.writing,
        writePending := sp.writePending || sp.writing.isSome } := by
  obtain ⟨_, _, _, _, _, _, _, _, writing, pending⟩ := sp
  cases writing <;> simp [Spelling.changed]

end Sys2Proof.Machine

open Sys2Proof Sys2Proof.Machine

/-- Settles O55. -/
theorem wordsRecorded : Obligations.WordsRecorded := by
  refine ⟨fun s p => ?_, fun lead w trail h1 h2 h3 h4 => ?_, fun s a rest r newest => ?_, fun s a rest none => ⟨fun h => ?_, fun h => ?_⟩⟩
  · intro chars token ids dropped held made
    have made_eq (sp : Spelling) (w : List Entry) (number : sp.nextRecord = s.spell.nextRecord)
        (list : sp.userList = s.spell.userList) : made sp w = sp.withWord (w.map Entry.id) (foldedLetters w) := by
      cases under_way : sp.lookup <;> simp only [made, Spelling.withWord, number, list, foldedLetters, under_way]
    have is_held (w : List Entry) : s.spell.holdsWord (w.map Entry.id) (foldedLetters w) = true ↔ held w :=
      Spelling.holdsWord_iff _ _ _
    have drops : s.spell.dropNaming ids = dropped := Spelling.dropNaming_eq _ _
    refine ⟨fun unique e => LineRecord.mem_tokenAt unique p e, fun h => ?_, fun spell run some => ?_⟩
    · refine State.wordEnd_unmade (h.imp_right (Or.imp_right (fun h => ?_)))
      exact LineRecord.tokenAt_eq_nil (fun e he ends => by rw [continuesWord_iff]; exact h e he ends)
    · rw [State.wordEnd_made spell run some]
      refine ⟨fun unchecked => ?_, fun w checked => ⟨fun stands => ?_, fun new room => ?_, fun oldest more new full long => ?_⟩⟩
      · rw [State.recordToken_unchecked unchecked]
        exact congrArg (fun sp => ({ s with spell := sp, text := s.text.setMarks ids .plain } : State)) drops
      · rw [State.recordToken_checked checked, if_pos ((is_held w).mpr stands)]
      · rw [State.recordToken_checked checked, if_neg (by rwa [is_held]), show s.spell.dropNaming (token.map Entry.id) = dropped from drops]
        rw [State.makeWord_room (s := { s with spell := dropped }) room, made_eq dropped w rfl rfl]
      · rw [State.recordToken_checked checked, if_neg (by rwa [is_held]), show s.spell.dropNaming (token.map Entry.id) = dropped from drops]
        rw [State.makeWord_full (s := { s with spell := dropped }) full long, made_eq (dropped.without (fun r => decide (r.id = oldest.id))) w rfl rfl]
  · intro token unchecked
    have eq := checkedWord_eq (trimmed_eq lead w trail h1 h2 h3 h4)
    exact ⟨fun h => eq.trans (if_pos h), fun h => eq.trans (if_neg h)⟩
  · intro t
    have spell : t.spell = s.spell := State.taken_spell s rest
    have text : t.text = s.text := State.taken_text s rest
    have last : t.spell.records.getLast? = some r := by rwa [spell]
    refine ⟨fun h => ?_, fun h => ?_⟩
    · have gives {u : State} (effect : t.addWord a = u) : exec .addWord s = .next (u.finish s) :=
        exec_plain_free h rfl ((show t.performPlain a true = _ by simp only [State.performPlain, h.1.2.2.1]).trans effect)
      refine ⟨fun stands => gives ?_, fun new full => gives ?_, fun new room ordered => ?_⟩
      · simp only [State.addWord, last]
        exact if_pos (by rwa [spell])
      · simp only [State.addWord, last]
        rw [if_neg (by rw [spell, new]; decide), if_pos (by rwa [spell])]
      · have effect := State.addWord_new (a := a) last (by rwa [spell]) (by rwa [spell])
        have fresh : r.letters ∉ s.spell.userList := by simpa using new
        refine ⟨_, insertWord r.letters s.spell.userList, gives effect, ?_⟩
        rw [Spelling.changed_eq, spell]
        refine ⟨rfl, wordsInOrder_insertWord ordered fresh, fun y => mem_insertWord _ y _, fun idle => if_pos idle,
          fun busy => ⟨if_neg busy, ?_⟩, rfl, ⟨rfl, rfl, rfl⟩, ?_, ?_⟩
        · show (s.spell.writePending || s.spell.writing.isSome) = true
          rw [Option.isSome_iff_ne_none.mpr busy, Bool.or_true]
        · show t.text.setMarks _ _ = _
          rw [text]
        · show { t.display with dirty := true } = _
          rw [State.taken_display]
    · have gives {u : State} (effect : t.deleteWord a = u) : exec .deleteWord s = .next (u.finish s) :=
        exec_plain_free h rfl ((show t.performPlain a true = _ by simp only [State.performPlain, h.1.2.2.1]).trans effect)
      refine ⟨fun new => gives ?_, fun stands => gives ?_⟩
      · simp only [State.deleteWord, last]
        exact if_neg (by rw [spell, new]; decide)
      · simp only [State.deleteWord, last]
        rw [if_pos (by rwa [spell]), Spelling.changed_eq, spell]
  · refine exec_plain_free h rfl ?_
    simp only [State.performPlain, h.1.2.2.1, State.addWord, State.taken_spell, none, List.getLast?_nil]
  · refine exec_plain_free h rfl ?_
    simp only [State.performPlain, h.1.2.2.1, State.deleteWord, State.taken_spell, none, List.getLast?_nil]
end

section
/-! SUPPORT. What the correction actions choose, and what they delete in line mode. -/

-- One proof after another: the check's process cannot start a thread for each.
set_option Elab.async false

namespace Sys2Proof.Machine

/-! ## The order of a record by position (R1) -/

theorem Entry.before_pos {e x : Entry} (h : e.before x = true) : e.pos ≤ x.pos := by
  simp only [Entry.before, Bool.or_eq_true, Bool.and_eq_true, decide_eq_true_iff] at h
  omega

theorem Entry.not_before_pos {e x : Entry} (h : ¬e.before x = true) : x.pos ≤ e.pos := by
  simp only [Entry.before, Bool.or_eq_true, Bool.and_eq_true, decide_eq_true_iff] at h
  omega

theorem sorted_insertEntry {e : Entry} {l : List Entry} (h : l.Pairwise (fun a b => a.pos ≤ b.pos)) :
    (insertEntry e l).Pairwise (fun a b => a.pos ≤ b.pos) := by
  induction l with
  | nil => exact List.pairwise_singleton _ _
  | cons x xs ih =>
    obtain ⟨first, tail⟩ := List.pairwise_cons.mp h
    rw [insertEntry]
    split
    · next before =>
      refine List.pairwise_cons.mpr ⟨fun y hy => ?_, h⟩
      rcases List.mem_cons.mp hy with rfl | hy
      · exact Entry.before_pos before
      · exact le_trans (Entry.before_pos before) (first y hy)
    · next not =>
      refine List.pairwise_cons.mpr ⟨fun y hy => ?_, ih tail⟩
      rcases (mem_insertEntry _ _ _).mp hy with rfl | hy
      · exact Entry.not_before_pos not
      · exact first y hy

theorem sorted_sortEntries (l : List Entry) : (sortEntries l).Pairwise (fun a b => a.pos ≤ b.pos) := by
  suffices h : ∀ (l acc : List Entry), acc.Pairwise (fun a b => a.pos ≤ b.pos) →
      (l.foldl (fun acc e => insertEntry e acc) acc).Pairwise (fun a b => a.pos ≤ b.pos) from h l [] List.Pairwise.nil
  intro l
  induction l with
  | nil => exact fun _ h => h
  | cons e es ih => exact fun acc h => ih _ (sorted_insertEntry h)

theorem sorted_rightToLeft (l : List Entry) : (rightToLeft l).Pairwise (fun a b => b.pos ≤ a.pos) :=
  List.pairwise_reverse.mpr (sorted_sortEntries l)

theorem perm_rightToLeft (l : List Entry) : (rightToLeft l).Perm l :=
  (List.reverse_perm _).trans (perm_sortEntries l)

/-! ## Whole positions from the right (R101) -/

/-- The entries of the rightmost position, and the others, all left of it. -/
theorem rightmost_parts {e : Entry} {es : List Entry} (sorted : (e :: es).Pairwise (fun a b => b.pos ≤ a.pos)) :
    ∃ left : List Entry, e :: es = (e :: es).takeWhile (fun x => decide (x.pos = e.pos)) ++ left
      ∧ (e :: es).drop ((e :: es).takeWhile (fun x => decide (x.pos = e.pos))).length = left
      ∧ (∀ x ∈ (e :: es).takeWhile (fun x => decide (x.pos = e.pos)), x.pos = e.pos) ∧ (∀ x ∈ left, x.pos < e.pos)
      ∧ left.length ≤ es.length := by
  have parts := List.takeWhile_append_dropWhile (p := fun x : Entry => decide (x.pos = e.pos)) (l := e :: es)
  have here (x : Entry) (hx : x ∈ (e :: es).takeWhile (fun x => decide (x.pos = e.pos))) : x.pos = e.pos := by
    simpa using List.mem_takeWhile_imp hx
  refine ⟨_, parts.symm, ?_, here, fun x hx => ?_, ?_⟩
  · exact (congrArg (List.drop _) parts.symm).trans List.drop_left
  · generalize rest : (e :: es).dropWhile (fun x => decide (x.pos = e.pos)) = left at hx parts
    cases left with
    | nil => cases hx
    | cons y ys =>
      have other : y.pos ≠ e.pos := by
        have := List.head_dropWhile_not (l := e :: es) (fun x : Entry => decide (x.pos = e.pos)) (by rw [rest]; simp)
        simpa [rest] using this
      have y_left : y.pos < e.pos := by
        have le : y.pos ≤ e.pos := by
          have : y ∈ e :: es := by rw [← parts]; simp
          rcases List.mem_cons.mp this with rfl | hy
          · exact le_rfl
          · exact (List.pairwise_cons.mp sorted).1 y hy
        omega
      rw [← parts] at sorted
      have tail := (List.pairwise_append.mp sorted).2.1
      rcases List.mem_cons.mp hx with rfl | hx
      · exact y_left
      · exact lt_of_le_of_lt ((List.pairwise_cons.mp tail).1 x hx) y_left
  · rw [List.dropWhile_cons_of_pos (by simp)]
    exact List.length_dropWhile_le _ _

/-- What whole positions taken from the right hold, with `taken` entries taken before. -/
theorem mem_takePositions {n taken : Nat} {l : List Entry} (fuel : l.length ≤ n) (sorted : l.Pairwise (fun a b => b.pos ≤ a.pos))
    (x : Entry) :
    x ∈ takePositions n taken l ↔ x ∈ l ∧ taken + (l.filter (fun y => decide (x.pos ≤ y.pos))).length ≤ 32 := by
  induction n generalizing taken l with
  | zero =>
    rw [List.length_eq_zero_iff.mp (Nat.le_zero.mp fuel)]
    simp [takePositions]
  | succ n ih =>
    cases l with
    | nil => simp [takePositions]
    | cons e es =>
      obtain ⟨left, parts, drops, here, below, short⟩ := rightmost_parts sorted
      rw [List.length_cons] at fuel
      rw [takePositions]
      rw [drops]
      generalize (e :: es).takeWhile (fun x => decide (x.pos = e.pos)) = first at *
      have all_first (p : Nat) (hp : p ≤ e.pos) : first.filter (fun y => decide (p ≤ y.pos)) = first :=
        List.filter_eq_self.mpr (fun y hy => decide_eq_true (by rw [here y hy]; exact hp))
      have reached (hx : x ∈ e :: es) : x.pos ≤ e.pos := by
        rw [parts, List.mem_append] at hx
        rcases hx with hx | hx
        · exact le_of_eq (here x hx)
        · exact le_of_lt (below x hx)
      have tail : left.Pairwise (fun a b => b.pos ≤ a.pos) := by
        rw [parts] at sorted
        exact (List.pairwise_append.mp sorted).2.1
      rw [parts, List.filter_append, List.length_append]
      split
      · next fits =>
        rw [List.mem_append, List.mem_append, ih (by omega) tail]
        constructor
        · rintro (hx | ⟨hx, few⟩)
          · have none : left.filter (fun y => decide (x.pos ≤ y.pos)) = [] :=
              List.filter_eq_nil_iff.mpr (fun y hy => by have := below y hy; have := here x hx; simp; omega)
            refine ⟨.inl hx, ?_⟩
            rw [none, all_first _ (le_of_eq (here x hx))]
            exact fits
          · rw [all_first _ (le_of_lt (below x hx))]
            exact ⟨.inr hx, by omega⟩
        · rintro ⟨hx | hx, few⟩
          · exact .inl hx
          · rw [all_first _ (le_of_lt (below x hx))] at few
            exact .inr ⟨hx, by omega⟩
      · next long =>
        constructor
        · exact fun h => nomatch h
        · rintro ⟨hx, few⟩
          rw [all_first _ (reached (by rw [parts]; exact List.mem_append.mpr (List.mem_append.mp hx)))] at few
          omega

theorem takePositions_length (n taken : Nat) (l : List Entry) (h : taken ≤ 32) : taken + (takePositions n taken l).length ≤ 32 := by
  induction n generalizing taken l with
  | zero => simpa [takePositions] using h
  | succ n ih =>
    cases l with
    | nil => simpa [takePositions] using h
    | cons e es =>
      rw [takePositions]
      split
      · next fits =>
        rw [List.length_append]
        have := ih (taken + ((e :: es).takeWhile (fun x => decide (x.pos = e.pos))).length)
          ((e :: es).drop ((e :: es).takeWhile (fun x => decide (x.pos = e.pos))).length) fits
        omega
      · simpa using h

theorem takePositions_sublist (n taken : Nat) (l : List Entry) : (takePositions n taken l).Sublist l := by
  induction n generalizing taken l with
  | zero => exact List.nil_sublist _
  | succ n ih =>
    cases l with
    | nil => exact List.Sublist.refl _
    | cons e es =>
      rw [takePositions]
      split
      · have first := (List.takeWhile_prefix (fun x : Entry => decide (x.pos = e.pos)) (l := e :: es))
        rw [List.prefix_iff_eq_take] at first
        generalize (e :: es).takeWhile (fun x => decide (x.pos = e.pos)) = here at *
        have whole := List.take_append_drop here.length (e :: es)
        rw [← first] at whole
        rw [← whole, whole]
        exact (List.Sublist.append_left (ih _ _) here).trans (by rw [whole])
      · exact List.nil_sublist _

theorem mem_limited (l : List Entry) (e : Entry) :
    e ∈ limited l ↔ e ∈ l ∧ (l.filter (fun y => decide (e.pos ≤ y.pos))).length ≤ 32 := by
  have perm := perm_rightToLeft l
  rw [limited, mem_takePositions (le_of_eq perm.length_eq) (sorted_rightToLeft l), perm.mem_iff, (perm.filter _).length_eq,
    Nat.zero_add]

theorem limited_length (l : List Entry) : (limited l).length ≤ 32 := by
  have := takePositions_length l.length 0 (rightToLeft l) (by decide)
  rwa [Nat.zero_add] at this

theorem limited_sorted (l : List Entry) : (limited l).Pairwise (fun a b => b.pos ≤ a.pos) :=
  (sorted_rightToLeft l).sublist (takePositions_sublist _ _ _)

/-! ## What is handed over (R98 to R101) -/

/-- pp moves, and the chosen entries are handed to the correction unit. -/
def State.lifts (t : State) (p : Nat) (es : List Entry) : State :=
  if es = [] then { t with text := { t.text with pp := p } }
  else
    { t with
      text := { t.text with pp := p, waiting := some .correction },
      corr :=
        { lifting := true, items := (rightToLeft es).map (fun e => { owner := e.id, status := .fresh }),
          tapeMark := false, closingMark := false, closingFeeds := 0 } }

theorem State.startCorrection_setPp (t : State) (p : Nat) (es : List Entry) : (t.setPp p).startCorrection es = t.lifts p es := by
  unfold State.startCorrection State.lifts
  cases es <;> rfl

theorem State.startCorrection_here (t : State) (es : List Entry) : t.startCorrection es = t.lifts t.text.pp es :=
  State.startCorrection_setPp t t.text.pp es

theorem State.correctDirect_eq {t : State} (a : Action) (moving : t.engine.state ≠ .locked) :
    t.correctDirect a
      = if t.backRefused then t.refuse a else t.lifts t.backTarget (t.text.work.charsAt t.backTarget) := by
  rw [State.correctDirect, State.startCorrection_setPp]
  refine if_congr ?_ rfl rfl
  simp [State.isLocked, moving]

/-- The word point is pp where a character ends there. -/
theorem State.wordPoint_here {t : State} (h : t.text.work.newestEndingAt t.text.pp ≠ none) : t.wordPoint = some t.text.pp :=
  if_pos (Option.isSome_iff_ne_none.mpr h)

theorem State.wordPoint_none {t : State} (h : t.text.work.newestEndingAt t.text.pp = none)
    (right : ∀ e ∈ t.text.work.chars, t.text.pp ≤ e.endPos) : t.wordPoint = none := by
  have empty : t.text.work.chars.filter (fun e => decide (e.endPos < t.text.pp)) = [] :=
    List.filter_eq_nil_iff.mpr (fun e he => by simpa using right e he)
  rw [State.wordPoint, h, if_neg (by decide), empty]

/-- Where no character ends at pp, the word point is the greatest end left of it. -/
theorem State.wordPoint_left {t : State} {e : Entry} (h : t.text.work.newestEndingAt t.text.pp = none)
    (he : e ∈ t.text.work.chars) (left : e.endPos < t.text.pp)
    (greatest : ∀ y ∈ t.text.work.chars, y.endPos < t.text.pp → y.endPos ≤ e.endPos) : t.wordPoint = some e.endPos := by
  have among : e ∈ t.text.work.chars.filter (fun e => decide (e.endPos < t.text.pp)) :=
    List.mem_filter.mpr ⟨he, decide_eq_true left⟩
  obtain ⟨y, hy, top⟩ := greatestEnd_mem (d := 0) (List.ne_nil_of_mem among)
  have same : greatestEnd 0 (t.text.work.chars.filter (fun e => decide (e.endPos < t.text.pp))) = e.endPos := by
    refine le_antisymm ?_ (le_greatestEnd among)
    obtain ⟨hy, lt⟩ := List.mem_filter.mp hy
    rw [← top]
    exact greatest y hy (of_decide_eq_true lt)
  rw [State.wordPoint, h, if_neg (by decide)]
  generalize t.text.work.chars.filter (fun e => decide (e.endPos < t.text.pp)) = among_left at *
  cases among_left with
  | nil => cases among
  | cons x xs => exact congrArg some same

theorem State.wordCorrectDirect_lifts {t : State} {a : Action} {p : Nat} (moving : t.engine.state ≠ .locked)
    (h : t.wordPoint = some p) : t.wordCorrectDirect a = t.lifts p (limited (t.text.work.wordAt p)) := by
  rw [State.wordCorrectDirect, if_neg (by simpa [State.isLocked] using moving), h]
  exact State.startCorrection_setPp _ _ _

theorem State.wordCorrectDirect_refused {t : State} {a : Action} (h : t.wordPoint = none) :
    t.wordCorrectDirect a = t.refuse a := by
  rw [State.wordCorrectDirect, h]
  exact ite_self _

/-! ## What is deleted in line mode (R114, R115) -/

theorem State.removeOwners_slots_length (es : List Entry) (s : State) :
    (s.removeOwners es).engine.slots.length = s.engine.slots.length := by
  induction es generalizing s with
  | nil => rfl
  | cons e es ih =>
    refine (ih (s.removeOwner e)).trans ?_
    simp only [State.removeOwner, State.completeItem]
    split <;> exact List.length_map _

theorem State.removeOwners_bellGiven (es : List Entry) (s : State) :
    (s.removeOwners es).text.bellGiven = s.text.bellGiven := by
  induction es generalizing s with
  | nil => rfl
  | cons e es ih =>
    refine (ih (s.removeOwner e)).trans ?_
    simp only [State.removeOwner, State.completeItem]
    split
    · dsimp only
      split <;> rfl
    · rfl

/-- An entry that a removal leaves is one that stood, but for its mark, and neither the removed one nor a companion of it. -/
theorem State.removeOwner_back {s : State} {e z : Entry} (hz : z ∈ (s.removeOwner e).text.work.entries) :
    ∃ y ∈ s.text.work.entries, y.id = z.id ∧ y.owner = z.owner ∧ z.id ≠ e.id ∧ z.owner ≠ some e.id := by
  rw [State.removeOwner_work] at hz
  obtain ⟨y, hy, rfl⟩ := List.mem_map.mp hz
  obtain ⟨hy, left⟩ := List.mem_filter.mp hy
  have names : (if (s.text.letterRun e.id).contains (ownerId y) then { y with mark := SpellMark.plain } else y).id = y.id
      ∧ (if (s.text.letterRun e.id).contains (ownerId y) then { y with mark := SpellMark.plain } else y).owner = y.owner := by
    split <;> exact ⟨rfl, rfl⟩
  rw [Bool.not_eq_true', Bool.eq_false_iff, ne_eq, List.contains_iff_mem, List.mem_cons, not_or, TextUnit.mem_companions] at left
  refine ⟨y, hy, names.1.symm, names.2.symm, by rw [names.1]; exact left.1, ?_⟩
  rw [names.2]
  exact fun h => left.2 ⟨y, List.mem_append_left _ hy, h, rfl⟩

theorem State.removeOwners_gone (es : List Entry) {s : State} {z : Entry} (hz : z ∈ (s.removeOwners es).text.work.entries) :
    (∃ y ∈ s.text.work.entries, y.id = z.id ∧ y.owner = z.owner) ∧ ∀ i ∈ es.map Entry.id, z.id ≠ i ∧ z.owner ≠ some i := by
  induction es generalizing s with
  | nil => exact ⟨⟨z, hz, rfl, rfl⟩, fun i hi => nomatch hi⟩
  | cons e es ih =>
    obtain ⟨⟨y, hy, same, owner⟩, rest⟩ := ih (s := s.removeOwner e) hz
    obtain ⟨x, hx, same1, owner1, other, no_companion⟩ := State.removeOwner_back hy
    refine ⟨⟨x, hx, same1.trans same, owner1.trans owner⟩, fun i hi => ?_⟩
    rcases List.mem_cons.mp hi with rfl | hi
    · exact ⟨by rwa [← same], by rwa [← owner]⟩
    · exact rest i hi

theorem State.removeOwners_stands (es : List Entry) {s : State} (unique : (s.text.allEntries.map Entry.id).Nodup) {y : Entry}
    (hy : y ∈ s.text.work.entries) (other : y.id ∉ es.map Entry.id) (no_companion : ∀ i ∈ es.map Entry.id, y.owner ≠ some i) :
    ∃ z ∈ (s.removeOwners es).text.work.entries, z = { y with mark := z.mark } := by
  induction es generalizing s y with
  | nil => exact ⟨y, hy, rfl⟩
  | cons e es ih =>
    rw [List.map_cons, List.mem_cons, not_or] at other
    obtain ⟨z, hz, is_y⟩ := State.removeOwner_stands unique hy other.1 (no_companion _ (by simp))
    obtain ⟨w, hw, is_z⟩ := ih (unique.sublist (s.removeOwner_allEntries e)) hz (by rw [is_y]; exact other.2)
      (fun i hi => by rw [is_y]; exact no_companion i (List.mem_cons_of_mem _ hi))
    exact ⟨w, hw, by rw [is_z, is_y]⟩

theorem State.wordCorrectLine_deletes {t : State} {a : Action} {p : Nat} (h : t.wordPoint = some p) :
    t.wordCorrectLine a
      = ((t.removeOwners (t.text.work.wordAt p)).setPp (leastPos p (t.text.work.wordAt p))).edited := by
  simp only [State.wordCorrectLine, h]

theorem State.wordCorrectLine_refused {t : State} {a : Action} (h : t.wordPoint = none) : t.wordCorrectLine a = t.refuse a := by
  simp only [State.wordCorrectLine, h]

end Sys2Proof.Machine

open Sys2Proof Sys2Proof.Machine

/-- Settles O51. -/
theorem correctionsChoose : Obligations.CorrectionsChoose := by
  refine ⟨fun s a rest => ?_, fun l => ⟨limited_length l, mem_limited l, limited_sorted l⟩⟩
  intro x t pp stop lifts
  have text : t.text = s.text := State.taken_text s rest
  have engine : t.engine = s.engine := State.taken_engine s rest
  have spell : t.spell = s.spell := State.taken_spell s rest
  have left : t.text.settings.leftStop = stop := by rw [text]; rfl
  have refused : t.backRefused = true ↔ pp ≤ stop := by rw [State.backRefused_iff, left, text]
  have is_lifts (p : Nat) (es : List Entry) : t.lifts p es = lifts p es := by rw [State.lifts, text]
  have unlocked (moving : s.engine.state ≠ .locked) : t.engine.state ≠ .locked := by rwa [engine]
  have in_direct (mode : s.text.settings.mode = .direct) : (s.taken rest).text.settings.mode = .direct := by rwa [State.taken_text]
  have in_line (mode : s.text.settings.mode = .line) : (s.taken rest).text.settings.mode = .line := by rwa [State.taken_text]
  refine ⟨fun ⟨h, mode, moving, _⟩ => ?_, fun ⟨h, mode, moving, _⟩ => ?_, fun ⟨h, mode, moving, _⟩ => ?_, fun ⟨h, mode⟩ => ?_,
    fun ⟨h, mode⟩ => ?_, fun ⟨h, mode⟩ => ?_⟩
  · intro target
    have gives {u : State} (effect : t.correctDirect a = u) : exec .correct s = .next (u.finish s) :=
      exec_plain_free h rfl ((show (s.taken rest).performPlain a true = (s.taken rest).correctDirect a by
        simp only [State.performPlain, h.1.2.2.1, in_direct mode]).trans effect)
    have is_target : t.backTarget = target := by
      cases newest : s.text.work.newestEndingAt s.text.pp <;>
        simp only [State.backTarget, Settings.leftStop, text, newest, target, stop, pp, x]
    refine ⟨fun at_stop => gives ?_, fun right => gives ?_⟩ <;> rw [State.correctDirect_eq a (unlocked moving)]
    · exact if_pos (refused.mpr at_stop)
    · rw [if_neg (by rw [refused]; omega), is_target, is_lifts, text]
  · have gives {u : State} (effect : t.wordCorrectDirect a = u) : exec .wordCorrect s = .next (u.finish s) :=
      exec_plain_free h rfl ((show (s.taken rest).performPlain a true = (s.taken rest).wordCorrectDirect a by
        simp only [State.performPlain, h.1.2.2.1, in_direct mode]).trans effect)
    refine ⟨fun ends => gives ?_, fun none right => gives (State.wordCorrectDirect_refused ?_),
      fun e he none lt greatest => gives ?_⟩
    · rw [State.wordCorrectDirect_lifts (unlocked moving) (State.wordPoint_here (by rwa [text])), is_lifts, text]
    · exact State.wordPoint_none (by rwa [text]) (by rwa [text])
    · rw [State.wordCorrectDirect_lifts (unlocked moving)
        (State.wordPoint_left (e := e) (by rwa [text]) (by rwa [text]) (by rwa [text]) (by rwa [text])), is_lifts, text]
  · have gives {u : State} (effect : t.lineCorrectDirect a = u) : exec .lineCorrect s = .next (u.finish s) :=
      exec_plain_free h rfl ((show (s.taken rest).performPlain a true = (s.taken rest).lineCorrectDirect a by
        simp only [State.performPlain, h.1.2.2.1, in_direct mode]).trans effect)
    refine ⟨fun none => gives (if_pos (.inr (by rw [text, none]; rfl))), fun some => gives ?_⟩
    rw [State.lineCorrectDirect, if_neg, State.startCorrection_here, is_lifts, text]
    rw [text, List.isEmpty_iff, State.isLocked, decide_eq_true_iff, engine, not_or]
    exact ⟨moving, some⟩
  · have gives {u : State} (effect : t.backLine a = u) : exec .correct s = .next (u.finish s) :=
      exec_plain_free h rfl ((show (s.taken rest).performPlain a true = (s.taken rest).backLine a by
        simp only [State.performPlain, h.1.2.2.1, in_line mode]).trans effect)
    refine ⟨fun e newest => ⟨gives (State.backLine_deletes (by rwa [text])), fun unique owned => ?_⟩,
      fun none right => gives ?_, fun none at_stop => gives ?_⟩
    · have removed := State.removeOwner_removed (s := t) (by rwa [text]) (by rwa [text]) e
      rw [Removed, text, spell] at removed
      exact removed
    · rw [State.backLine_moves (by rwa [text]), if_neg (by rw [refused]; omega), left]
      show ({ t with
        text := { t.text with pp := max stop (t.text.pp - spaceWidth t.text.settings.pitch), armed := false } } : State) = _
      rw [text]
    · rw [State.backLine_moves (by rwa [text])]
      exact if_pos (refused.mpr at_stop)
  · intro deletes
    have gives {u : State} (effect : t.wordCorrectLine a = u) : exec .wordCorrect s = .next (u.finish s) :=
      exec_plain_free h rfl ((show (s.taken rest).performPlain a true = (s.taken rest).wordCorrectLine a by
        simp only [State.performPlain, h.1.2.2.1, in_line mode]).trans effect)
    have does {p : Nat} (point : t.wordPoint = some p) : deletes p := by
      let word := s.text.work.wordAt p
      have settings := (t.removeOwners_follows word).settings
      have bell := t.removeOwners_bellGiven word
      have slots := State.removeOwners_slots_length word t
      rw [text] at settings bell
      rw [engine] at slots
      have effect := State.wordCorrectLine_deletes (a := a) point
      rw [text] at effect
      refine ⟨_, gives effect, settings, rfl, rfl, slots, bell,
        fun e he hid => ((State.removeOwners_gone word he).2 _ hid).1 rfl,
        fun unique => ⟨fun e he i hi => ((State.removeOwners_gone word he).2 i hi).2, fun y hy other no_companion => ?_⟩,
        fun unique owned => ?_⟩
      · exact State.removeOwners_stands word (by rwa [text]) (by rwa [text]) other no_companion
      · have removed := State.removeOwners_removed word (s := t) (by rwa [text]) (by rwa [text])
        rw [Removed, text, spell] at removed
        exact removed
    refine ⟨fun ends => does ?_, fun none right => gives (State.wordCorrectLine_refused ?_), fun e he none lt greatest => does ?_⟩
    · rw [State.wordPoint_here (by rwa [text]), text]
    · exact State.wordPoint_none (by rwa [text]) (by rwa [text])
    · exact State.wordPoint_left (by rwa [text]) (by rwa [text]) (by rwa [text]) (by rwa [text])
  · have gives {u : State} (effect : t.lineCorrectLine a = u) : exec .lineCorrect s = .next (u.finish s) :=
      exec_plain_free h rfl ((show (s.taken rest).performPlain a true = (s.taken rest).lineCorrectLine a by
        simp only [State.performPlain, h.1.2.2.1, in_line mode]).trans effect)
    refine ⟨fun empty at_lm => gives (if_pos (by rw [text, empty]; exact ⟨rfl, at_lm⟩)), fun h => ?_⟩
    refine ⟨_, gives (if_neg ?_), ?_, ?_, rfl⟩
    · rintro ⟨empty, at_lm⟩
      rw [text] at empty at_lm
      exact h.elim (fun some => some (List.isEmpty_iff.mp empty)) (fun off => off at_lm)
    · show ({ t.text with work := LineRecord.empty, pp := t.text.settings.lm, armed := false, bellGiven := false } : TextUnit) = _
      rw [text]
    · show t.spell.dropNaming (t.text.work.entries.map Entry.id) = _
      rw [text, spell]
end

section
/-! SUPPORT. The correction unit: the disposal of its current item, the tape strikes and the closing. -/

-- One proof after another: the check's process cannot start a thread for each.
set_option Elab.async false

namespace Sys2Proof.Machine

/-! ## Entries that are taken out (R3, R4) -/

theorem TextUnit.find_eq_none_iff (t : TextUnit) (i : Nat) : t.find i = none ↔ ∀ x ∈ t.allEntries, x.id ≠ i := by
  simp [TextUnit.find]

theorem State.mem_takeOut (s : State) (ids : List Nat) (x : Entry) :
    x ∈ (s.takeOut ids).text.allEntries ↔ x ∈ s.text.allEntries ∧ x.id ∉ ids := by
  have keeps (r : LineRecord) : x ∈ (r.keep (fun e => !ids.contains e.id)).entries ↔ x ∈ r.entries ∧ x.id ∉ ids := by
    simp [LineRecord.keep]
  have out : (s.takeOut ids).text.allEntries = (s.text.mapRecords (fun r => r.keep (fun e => !ids.contains e.id))).allEntries := rfl
  rw [out, TextUnit.allEntries, TextUnit.allEntries, TextUnit.mapRecords]
  cases print : s.text.print with
  | none => simp only [Option.map_none, List.append_nil, keeps]
  | some p => simp only [Option.map_some, List.mem_append, keeps, or_and_right]

theorem TextUnit.setMarks_ids (t : TextUnit) (ids : List Nat) (m : SpellMark) :
    (t.setMarks ids m).allEntries.map Entry.id = t.allEntries.map Entry.id := by
  have keeps (l : List Entry) :
      (l.map (fun e => if ids.contains (ownerId e) then { e with mark := m } else e)).map Entry.id = l.map Entry.id := by
    rw [List.map_map]
    refine List.map_congr_left (fun e _ => ?_)
    rw [Function.comp_apply]
    split <;> rfl
  rw [TextUnit.allEntries, TextUnit.allEntries, TextUnit.setMarks, TextUnit.mapRecords]
  cases print : t.print with
  | none => simp only [Option.map_none, List.append_nil, keeps]
  | some p => simp only [Option.map_some, List.map_append, keeps]

theorem State.completeItem_allEntries (s : State) (e : Entry) : (s.completeItem e).text.allEntries = s.text.allEntries := by
  rw [TextUnit.allEntries, State.completeItem_work, State.completeItem_print, TextUnit.allEntries]

theorem State.completeItem_engine (s : State) (e : Entry) : (s.completeItem e).engine = s.engine := by
  unfold State.completeItem
  split <;> rfl

theorem State.completeItem_drive (s : State) (e : Entry) : (s.completeItem e).drive = s.drive := by
  unfold State.completeItem
  split <;> rfl

theorem State.removeOwner_engine (s : State) (e : Entry) :
    (s.removeOwner e).engine
      = { s.engine with
          slots := s.engine.slots.map (Op.forget (e.id :: s.text.companions e.id)),
          head := s.engine.head.map (Op.forget (e.id :: s.text.companions e.id)) } := by
  simp only [State.removeOwner, State.completeItem_engine]
  rfl

theorem State.removeOwner_drive (s : State) (e : Entry) : (s.removeOwner e).drive = s.drive := by
  simp only [State.removeOwner, State.completeItem_drive]
  rfl

theorem State.removeOwner_find {s : State} {e : Entry} {i : Nat} (h : i ∈ e.id :: s.text.companions e.id) :
    (s.removeOwner e).text.find i = none := by
  rw [TextUnit.find_eq_none_iff]
  intro x hx same
  have named : x.id ∈ (s.removeOwner e).text.allEntries.map Entry.id := List.mem_map_of_mem hx
  rw [State.removeOwner, State.completeItem_allEntries, TextUnit.setMarks_ids] at named
  obtain ⟨y, hy, y_id⟩ := List.mem_map.mp named
  exact ((s.mem_takeOut _ y).mp hy).2 (by rw [y_id, same]; exact h)

theorem State.completeItem_stands {s : State} {e : Entry} (up : s.isDown = false) (item : ∃ i ∈ s.corr.items, i.owner = e.id) :
    (s.completeItem e).corr = { s.corr with items := s.corr.items.filter (fun i => decide (i.owner ≠ e.id)) }
      ∧ (s.completeItem e).text.pp = e.pos := by
  have stands : s.corr.items.any (fun i => decide (i.owner = e.id)) = true := by
    obtain ⟨i, hi, owner⟩ := item
    exact List.any_eq_true.mpr ⟨i, hi, decide_eq_true owner⟩
  rw [State.completeItem, if_pos stands, up]
  exact ⟨rfl, rfl⟩

/-- The removal of the owner of a standing item completes the item, and pp becomes its position. -/
theorem State.removeOwner_completes {s : State} {e : Entry} (up : s.isDown = false) (item : ∃ i ∈ s.corr.items, i.owner = e.id) :
    (s.removeOwner e).corr = { s.corr with items := s.corr.items.filter (fun i => decide (i.owner ≠ e.id)) }
      ∧ (s.removeOwner e).text.pp = e.pos := by
  unfold State.removeOwner
  extract_lets run s1 s2
  exact State.completeItem_stands (s := s2) up item

theorem State.removeCompanions_find (es : List Entry) (s : State) {i : Nat} (h : i ∈ es.map Entry.id) :
    (es.foldl State.removeCompanion s).text.find i = none := by
  rw [TextUnit.find_eq_none_iff]
  suffices ∀ x ∈ (es.foldl State.removeCompanion s).text.allEntries, x ∈ s.text.allEntries ∧ x.id ∉ es.map Entry.id from
    fun x hx same => (this x hx).2 (by rwa [same])
  clear h
  induction es generalizing s with
  | nil => exact fun x hx => ⟨hx, List.not_mem_nil⟩
  | cons e es ih =>
    intro x hx
    obtain ⟨stood, rest⟩ := ih (s.removeCompanion e) x hx
    obtain ⟨stood, other⟩ := (s.mem_takeOut [e.id] x).mp stood
    exact ⟨stood, by rw [List.map_cons, List.mem_cons, not_or]; exact ⟨by simpa using other, rest⟩⟩

theorem State.removeCompanions_slots (es : List Entry) (s : State) :
    (es.foldl State.removeCompanion s).engine.slots.length = s.engine.slots.length := by
  induction es generalizing s with
  | nil => rfl
  | cons e es ih => exact (ih (s.removeCompanion e)).trans (List.length_map _)

theorem State.removeCompanions_pp (es : List Entry) (s : State) :
    (es.foldl State.removeCompanion s).text.pp = s.text.pp := by
  induction es generalizing s with
  | nil => rfl
  | cons e es ih => exact ih (s.removeCompanion e)

/-! ## The current item (R97, R103 to R105, R110) -/

theorem Engine.inProgress_iff (e : Engine) (i : Nat) :
    e.inProgress i = true ↔ e.progress ≠ none ∧ ∃ o, e.head = some o ∧ o.ref = some i := by
  unfold Engine.inProgress
  cases e.head <;> cases e.progress <;> simp

/-- No op refers to none of the entries. -/
theorem State.removeOps_none (s : State) : s.removeOps (Op.refersTo []) = s := by
  have kept (o : Op) : (!Op.refersTo [] o) = true := by
    unfold Op.refersTo
    cases o.ref <;> rfl
  have slots : s.engine.slots.filter (fun o => !Op.refersTo [] o) = s.engine.slots :=
    List.filter_eq_self.mpr (fun o _ => kept o)
  have head : s.engine.head.filter (fun o => !Op.refersTo [] o) = s.engine.head := by
    cases s.engine.head with
    | none => rfl
    | some o => exact Option.filter_some_pos (kept o)
  have same : s.removeOps (Op.refersTo []) = s.setQueue s.engine.slots s.engine.head := by
    cases progress : s.engine.progress <;> simp only [State.removeOps, progress, slots, head]
  rw [same, State.setQueue, Engine.emptyMark, if_pos (beq_self_eq_true _)]

theorem State.correcting_iff (s : State) :
    s.correcting = true ↔ s.corr.lifting = true ∧ s.engine.state ≠ .halted ∧ s.supply.phase = .running := by
  simp [State.correcting, State.isDown, and_assoc]

theorem State.disposeItem_gone {s : State} {i : Item} (h : ∀ e ∈ s.members i, e.id ≠ i.owner) :
    s.disposeItem i = { s with corr := { s.corr with items := s.corr.items.filter (fun x => decide (x.owner ≠ i.owner)) } } := by
  have none : (s.members i).find? (fun e => decide (e.id = i.owner)) = none :=
    List.find?_eq_none.mpr (fun e he => by simpa using h e he)
  simp only [State.disposeItem, none]

/-- The members of an item whose ops have not begun. -/
def State.unbegun (s : State) (i : Item) : List Entry :=
  (s.members i).filter (fun e => decide (e.state = .queued) && !s.engine.inProgress e.id)

theorem State.disposeItem_owner {s : State} {i : Item} {owner : Entry}
    (h : (s.members i).find? (fun e => decide (e.id = i.owner)) = some owner) :
    s.disposeItem i =
      if owner.state = .queued ∧ s.engine.inProgress owner.id = false then s.cancelItem owner ((s.unbegun i).map Entry.id)
      else s.awaitItem i (s.unbegun i) := by
  simp only [State.disposeItem, h]
  rfl

theorem State.awaitItem_removes (s : State) (i : Item) (es : List Entry) :
    (s.awaitItem i es).engine.slots.length
        = (s.engine.slots.filter (fun o => !o.refersTo (es.map Entry.id))).length
      ∧ (∀ e ∈ es.map Entry.id, (s.awaitItem i es).text.find e = none) ∧ (s.awaitItem i es).text.pp = s.text.pp := by
  unfold State.awaitItem
  extract_lets s1 s2 left
  have slots : s2.engine.slots.length = s1.engine.slots.length := State.removeCompanions_slots es s1
  have finds : ∀ e ∈ es.map Entry.id, s2.text.find e = none := fun e he => State.removeCompanions_find es s1 he
  have pp : s2.text.pp = s1.text.pp := State.removeCompanions_pp es s1
  split
  · exact ⟨slots, finds, pp⟩
  · split
    · exact ⟨slots, finds, pp⟩
    · exact ⟨slots, finds, pp⟩

/-- With no op left to remove, the item awaits a strike in progress, meets the wheel check, or stops the correction. -/
theorem State.awaitItem_all_begun (s : State) (i : Item) :
    s.awaitItem i [] =
      if (s.members i).any (fun e => decide (e.state = .queued)) then { s with corr := s.corr.setStatus i.owner .awaitStrike }
      else if (s.members i).all (fun e => onWheel s.engine.wheel e.char) then
        { s with corr := s.corr.setStatus i.owner .appending }
      else s.stopCorrection := by
  unfold State.awaitItem
  extract_lets s1 s2 left
  have same : s1 = s := s.removeOps_none
  have same2 : s2 = s := same
  rw [show left = s.members i from congrArg (State.members · i) same2, same2]

/-- What the correction unit does at once where it acts on an item that is not APPENDING. -/
theorem State.disposeItems_current {s : State} {i : Item} (n : Nat) (h : s.corr.current = some i) (status : i.status ≠ .appending) :
    s.disposeItems (n + 1) = (s.disposeItem i).disposeItems n := by
  simp only [State.disposeItems, h, if_neg status]

theorem State.disposeItems_none {s : State} (n : Nat) (h : s.corr.current = none) : s.disposeItems n = s := by
  cases n with
  | zero => rfl
  | succ n => simp only [State.disposeItems, h]

theorem State.disposeItems_appending {s : State} {i : Item} (n : Nat) (h : s.corr.current = some i) (status : i.status = .appending) :
    s.disposeItems n = s := by
  cases n with
  | zero => rfl
  | succ n => simp only [State.disposeItems, h, if_pos status]

end Sys2Proof.Machine

open Sys2Proof Sys2Proof.Machine

/-- Settles O52. -/
theorem correctionLifts : Obligations.CorrectionLifts := by
  refine ⟨fun s => ?_, fun s live lifting moving unlocked running => ?_⟩
  · intro acts
    have correcting : s.correcting = true ↔ acts := s.correcting_iff
    have does (h : acts) : s.correctionActs = (s.disposeItems (s.corr.items.length + 1)).closeUntaped :=
      if_pos (correcting.mpr h)
    have busy {i : Item} (h : s.corr.current = some i) : i ∈ s.corr.items := List.mem_of_find?_eq_some h
    refine ⟨fun not => if_neg (fun h => not (correcting.mp h)), fun h empty => ?_, fun i h current status => ?_,
      fun i h current status => ?_⟩
    · have none : s.corr.current = none := by rw [Correction.current, empty]; rfl
      rw [does h, State.disposeItems_none _ none, State.closeUntaped, empty]
      cases s.corr.tapeMark <;> rfl
    · have some : s.corr.items.isEmpty = false := List.isEmpty_eq_false_iff.mpr (List.ne_nil_of_mem (busy current))
      rw [does h, State.disposeItems_appending _ current status, State.closeUntaped, some]
      rfl
    · intro u ms begun others names
      have up : s.isDown = false := by simp [State.isDown, h.2.2]
      have steps (n : Nat) : s.disposeItems (n + 1) = u.disposeItems n := State.disposeItems_current n current status
      have is_begun (e : Nat) : s.engine.inProgress e = true ↔ begun e := s.engine.inProgress_iff e
      refine ⟨is_begun, steps, by rw [does h, steps], State.disposeItem_gone, fun owner found => ⟨fun queued new => ?_, fun under_way => ?_⟩⟩
      · have not : s.engine.inProgress owner.id = false := by rw [← Bool.not_eq_true, is_begun]; exact new
        have disposed : u = (s.removeOps (Op.refersTo names)).removeOwner owner :=
          (State.disposeItem_owner found).trans (if_pos ⟨queued, not⟩)
        have name : owner.id = i.owner := by simpa using List.find?_some found
        obtain ⟨corr, pp⟩ := State.removeOwner_completes (s := s.removeOps (Op.refersTo names)) (e := owner) up
          ⟨i, busy current, name.symm⟩
        rw [disposed]
        refine ⟨corr, pp, State.removeOwner_find List.mem_cons_self,
          fun e he => State.removeOwner_find (List.mem_cons_of_mem _ he), ?_, ?_, ?_⟩
        · rw [State.removeOwner_engine]
          rfl
        · exact (State.removeOwner_follows _ owner).settings
        · rw [State.removeOwner_drive]
          rfl
      · have disposed : u = s.awaitItem i others := by
          refine (State.disposeItem_owner found).trans (if_neg ?_)
          rintro ⟨queued, not⟩
          rcases under_way with other | begun
          · exact other queued
          · rw [(is_begun _).mpr begun] at not; cases not
        have settled (none : others = []) : u = s.awaitItem i [] := disposed.trans (by rw [none])
        have no_queued (none : ∀ e ∈ ms, e.state ≠ .queued) : ¬ms.any (fun e => decide (e.state = .queued)) = true := by
          simpa using none
        refine ⟨fun _ => ?_, fun none queued => ?_, fun none printed wheel => ?_, fun none printed missing => ?_⟩
        · rw [disposed]
          exact s.awaitItem_removes i others
        · rw [settled none, State.awaitItem_all_begun]
          exact if_pos (by simpa using queued)
        · rw [settled none, State.awaitItem_all_begun, if_neg (no_queued printed)]
          exact if_pos (by simpa using wheel)
        · rw [settled none, State.awaitItem_all_begun, if_neg (no_queued printed), if_neg (by simpa using missing)]
          rfl
  · have correcting : s.correcting = true := s.correcting_iff.mpr ⟨lifting, moving, running⟩
    refine ⟨fun i e more free current status order => ?_, fun empty tape closing slots head => ?_⟩
    · have appends : s.tapeAppend = s.appendTape i e := by
        rw [State.tapeAppend, if_pos ⟨correcting, free⟩]
        simp only [current, if_pos status, order]
      refine ⟨_, exec_finish live rfl appends, ?_⟩
      rw [State.appendTape, State.appendOp_told _ unlocked]
      refine ⟨rfl, rfl, ?_, ?_⟩
      · dsimp only
        split <;> rfl
      · dsimp only
        rw [Entry.isChar]
        by_cases char : e.kind = .character
        · rw [if_pos (decide_eq_true char), if_pos char]
          rfl
        · rw [if_neg (by simpa using char), if_neg char]
          rfl
    · have closes : s.correctionClosing =
          (let d := s.text.settings.rise - s.engine.paperRise
           if d = 0 then { s with corr := .idle }
           else
             let s1 := (List.replicate d.natAbs (feedOp (if 0 < d then 1 else -1) .correction)).foldl State.appendOp s
             { s1 with corr := { s1.corr with closingMark := true, closingFeeds := d.natAbs } }) :=
        if_pos ⟨correcting, by rw [empty]; rfl, tape, closing, by rw [Engine.emptyMark, slots, head]; rfl⟩
      refine ⟨fun level => exec_finish live rfl (closes.trans (if_pos (by omega))), fun differ => ?_⟩
      intro d
      refine ⟨_, exec_finish live rfl (closes.trans (if_neg (by omega))), ?_⟩
      obtain ⟨l, e⟩ := State.appendOps_eq (List.replicate d.natAbs (feedOp (if 0 < d then 1 else -1) .correction)) s unlocked
      dsimp only
      rw [e]
      refine ⟨?_, rfl, rfl⟩
      show s.engine.slots ++ _ = _
      rw [slots, List.nil_append]
end

section
/-! SUPPORT. Moving owners with their companions, and the bell over several entries. -/

-- One proof after another: the check's process cannot start a thread for each.
set_option Elab.async false

namespace Sys2Proof.Machine

/-! ## The order of a record (R1, R2) -/

theorem insertEntry_last {e : Entry} {l : List Entry} (h : ∀ x ∈ l, ¬e.before x = true) : insertEntry e l = l ++ [e] := by
  induction l with
  | nil => rfl
  | cons x xs ih =>
    rw [insertEntry, if_neg (h x List.mem_cons_self), ih (fun y hy => h y (List.mem_cons_of_mem _ hy))]
    rfl

/-- Entries that stand in the record's order stay as they stand. -/
theorem sortEntries_eq {l : List Entry} (h : l.Pairwise (fun y z => y.pos < z.pos ∨ (y.pos = z.pos ∧ y.order < z.order))) :
    sortEntries l = l := by
  suffices ∀ (l acc : List Entry), (acc ++ l).Pairwise (fun y z => y.pos < z.pos ∨ (y.pos = z.pos ∧ y.order < z.order)) →
      l.foldl (fun acc e => insertEntry e acc) acc = acc ++ l from this l [] h
  intro l
  induction l with
  | nil => exact fun acc _ => (List.append_nil acc).symm
  | cons e es ih =>
    intro acc sorted
    have behind : ∀ x ∈ acc, ¬e.before x = true := by
      intro x hx
      have := (List.pairwise_append.mp sorted).2.2 x hx e List.mem_cons_self
      simp only [Entry.before, Bool.or_eq_true, Bool.and_eq_true, decide_eq_true_iff]
      omega
    rw [List.foldl_cons, insertEntry_last behind, ih _ (by simpa using sorted)]
    simp

/-! ## Moving owners (R35) -/

theorem find?_id {l : List Entry} (unique : (l.map Entry.id).Nodup) {o : Entry} (ho : o ∈ l) :
    l.find? (fun x => decide (x.id = o.id)) = some o := by
  cases found : l.find? (fun x => decide (x.id = o.id)) with
  | none => exact absurd (List.find?_eq_none.mp found o ho) (by simp)
  | some x =>
    have same : x.id = o.id := by simpa using List.find?_some found
    rw [eq_of_id unique (List.mem_of_find?_eq_some found) ho same]

/-- Where an entry stands after its owner has moved by a shift. -/
def movedPos (shift : Entry → Int) (l : List Entry) (e : Entry) : Nat :=
  match l.find? (fun o => decide (o.id = ownerId e)) with
  | none => e.pos
  | some o =>
    if shift o = 0 then e.pos
    else if e.kind = .underscore then
      (strokePositions (shiftPos o.pos (shift o)) o.width).getD (strokeIndex l e) e.pos
    else shiftPos e.pos (shift o)

/-- Moving changes positions alone. -/
theorem moveOwners_eq (shift : Entry → Int) (l : List Entry) :
    moveOwners shift l = sortEntries (l.map (fun e => { e with pos := movedPos shift l e })) := by
  unfold moveOwners
  refine congrArg sortEntries (List.map_congr_left (fun e _ => ?_))
  cases found : l.find? (fun o => decide (o.id = ownerId e)) with
  | none => simp only [movedPos, found]
  | some o =>
    by_cases still : shift o = 0
    · simp only [movedPos, found, if_pos still]
    · cases kind : e.kind <;> simp [movedPos, found, still, kind]

theorem mem_moveOwners {shift : Entry → Int} {l : List Entry} {z : Entry} :
    z ∈ moveOwners shift l ↔ ∃ e ∈ l, { e with pos := movedPos shift l e } = z := by
  rw [moveOwners_eq, (perm_sortEntries _).mem_iff, List.mem_map]

theorem moveOwners_ids (shift : Entry → Int) (l : List Entry) : ((moveOwners shift l).map Entry.id).Perm (l.map Entry.id) := by
  rw [moveOwners_eq]
  refine ((perm_sortEntries _).map Entry.id).trans (List.Perm.of_eq ?_)
  rw [List.map_map]
  rfl

theorem shiftPos_zero (p : Nat) : shiftPos p 0 = p := by simp [shiftPos]

/-- An entry whose owner is not moved stands. -/
theorem movedPos_still {shift : Entry → Int} {l : List Entry} {e : Entry} (h : ∀ o ∈ l, o.id = ownerId e → shift o = 0) :
    movedPos shift l e = e.pos := by
  unfold movedPos
  cases found : l.find? (fun o => decide (o.id = ownerId e)) with
  | none => rfl
  | some o => exact if_pos (h o (List.mem_of_find?_eq_some found) (by simpa using List.find?_some found))

/-- An entry other than an UNDERSCORE companion goes with its owner. -/
theorem movedPos_goes {shift : Entry → Int} {l : List Entry} {e o : Entry} (unique : (l.map Entry.id).Nodup) (ho : o ∈ l)
    (owner : ownerId e = o.id) (kind : e.kind ≠ .underscore) : movedPos shift l e = shiftPos e.pos (shift o) := by
  have found : l.find? (fun x => decide (x.id = ownerId e)) = some o := by rw [owner]; exact find?_id unique ho
  simp only [movedPos, found, if_neg kind]
  by_cases still : shift o = 0
  · rw [if_pos still, still, shiftPos_zero]
  · rw [if_neg still]

/-- Moving entries in their order by nothing leaves them as they are. -/
theorem moveOwners_still {shift : Entry → Int} {l : List Entry} (h : ∀ e ∈ l, ∀ o ∈ l, o.id = ownerId e → shift o = 0)
    (sorted : l.Pairwise (fun y z => y.pos < z.pos ∨ (y.pos = z.pos ∧ y.order < z.order))) : moveOwners shift l = l := by
  have same : l.map (fun e => { e with pos := movedPos shift l e }) = l := by
    conv_rhs => rw [← List.map_id l]
    refine List.map_congr_left (fun e he => ?_)
    rw [movedPos_still (h e he)]
    rfl
  rw [moveOwners_eq, same, sortEntries_eq sorted]

theorem ownerId_of_character {r : LineRecord} (owned : r.Owned) {e : Entry} (he : e ∈ r.entries) (kind : e.kind = .character) :
    ownerId e = e.id := by
  rw [ownerId, owned.1 e he kind]
  rfl

/-- The companions stand with their owners after a move. -/
theorem owned_moveOwners {r : LineRecord} {n : Nat} (shift : Entry → Int) (owned : r.Owned) :
    LineRecord.Owned { entries := moveOwners shift r.entries, counter := n } := by
  constructor
  · intro z hz kind
    obtain ⟨e, he, rfl⟩ := mem_moveOwners.mp hz
    exact owned.1 e he kind
  · intro z hz kind
    obtain ⟨e, he, rfl⟩ := mem_moveOwners.mp hz
    obtain ⟨o, ho, owner, char⟩ := owned.2 e he kind
    exact ⟨_, mem_moveOwners.mpr ⟨o, ho, rfl⟩, owner, char⟩

/-! ## The bell over several entries (R36) -/

theorem State.bells_told (l : List Entry) (u : State) :
    l.foldl (fun acc e => acc.bell e.pos e.width) u =
      (let rings := l.any (fun e => entersBell u.text.settings.rm e.pos e.width)
       { u with
         text := { u.text with bellGiven := u.text.bellGiven || rings },
         line := if rings = true ∧ u.text.bellGiven = false then u.line.sound .bell else u.line }) := by
  induction l generalizing u with
  | nil => simp
  | cons e es ih =>
    rw [List.foldl_cons, State.bell_told]
    refine (ih _).trans ?_
    dsimp only
    rw [List.any_cons]
    generalize entersBell u.text.settings.rm e.pos e.width = r
    generalize es.any (fun e => entersBell u.text.settings.rm e.pos e.width) = rs
    cases given : u.text.bellGiven <;> cases r <;> cases rs <;> simp

end Sys2Proof.Machine
end

section
/-! SUPPORT. Held runs: what opens one, what joins it, and its end. -/

-- One proof after another: the check's process cannot start a thread for each.
set_option Elab.async false

namespace Sys2Proof.Machine

/-! ## A run that stands (R22, R23, R116) -/

theorem State.refuse_told (s : State) (a : Action) :
    s.refuse a = { s with line := if a.source = .keyboard then s.line.sound .click else s.line } := by
  rw [State.refuse_keyboard]
  split <;> rfl

theorem State.overLong_iff (s : State) (h : HeldRun) (p : Nat) :
    s.overLong h p = true ↔ runLimit h.kind s.text.settings.lm s.text.settings.rm h.startPp h.origin < p - h.origin :=
  decide_eq_true_iff

theorem State.openRun_here {s : State} (a : Action) {k : RunKind} (mode : s.text.settings.mode = .direct) (h : k ≠ .decimal) :
    s.openRun a k =
      { s with
        text :=
          { s.text with
            pp := s.text.pp, run := some { kind := k, startPp := s.text.pp, origin := s.text.pp, members := [] } } } := by
  cases k <;> first | exact absurd rfl h | simp only [State.openRun, mode]

theorem State.openRun_no_tab {s : State} {a : Action} (mode : s.text.settings.mode = .direct) (h : s.nextTab = none) :
    s.openRun a .decimal = s.refuse a := by
  simp only [State.openRun, mode, h]

theorem State.openRun_tab {s : State} {a : Action} {p : Nat} (mode : s.text.settings.mode = .direct) (h : s.nextTab = some p) :
    s.openRun a .decimal =
      { s with
        text :=
          { s.text with pp := p, run := some { kind := .decimal, startPp := s.text.pp, origin := p, members := [] } } } := by
  simp only [State.openRun, mode, h]

theorem State.openRun_line {s : State} (a : Action) (k : RunKind) (mode : s.text.settings.mode = .line) :
    s.openRun a k = s.refuse a := by
  simp only [State.openRun, mode]

theorem State.runChar_refused {s : State} {h : HeldRun} {a : Action}
    (no : s.noPlace a.code = true ∨ 40 ≤ h.members.length ∨ s.overLong h (s.text.pp + (s.placement a.code).width) = true) :
    s.runChar h a = s.refuse a := if_pos no

theorem State.runChar_joins {s : State} {h : HeldRun} {a : Action} (place : s.noPlace a.code = false)
    (room : h.members.length < 40) (short : s.overLong h (s.text.pp + (s.placement a.code).width) = false) :
    s.runChar h a =
      { s with
        nextId := s.nextId + (makeEntries s.nextId (s.placement a.code) .pending).length,
        text :=
          { s.text with
            work := s.text.work.addAll (makeEntries s.nextId (s.placement a.code) .pending),
            pp := s.text.pp + (s.placement a.code).width, run := some { h with members := h.members ++ [s.nextId] } } } := by
  refine if_neg ?_
  rintro (no | full | long)
  · rw [place] at no; cases no
  · omega
  · rw [show s.overLong h ((s.placement a.code).pos + (s.placement a.code).width) = false from short] at long; cases long

theorem State.runSpace_eq (s : State) (h : HeldRun) (a : Action) :
    s.runSpace h a =
      (let p := s.text.pp + spaceWidth s.text.settings.pitch
       if 1600 < p ∨ runLimit h.kind s.text.settings.lm s.text.settings.rm h.startPp h.origin < p - h.origin then s.refuse a
       else s.setPp p) := by
  unfold State.runSpace
  dsimp only
  exact if_congr (or_congr Iff.rfl (s.overLong_iff h _)) rfl rfl

theorem State.runDelete_moves {s : State} {h : HeldRun} {a : Action} (right : s.text.pp ≠ h.origin)
    (none : ∀ e ∈ s.runChars h, e.endPos ≠ s.text.pp) :
    s.runDelete h a
      = s.setPp (max (s.text.pp - spaceWidth s.text.settings.pitch) (max h.origin (greatestEnd 0 (s.runChars h)))) := by
  have empty : (s.runChars h).filter (fun e => decide (e.endPos = s.text.pp)) = [] :=
    List.filter_eq_nil_iff.mpr (fun e he => by simpa using none e he)
  rw [State.runDelete, if_neg right, empty]
  rfl

theorem State.runDelete_deletes {s : State} {h : HeldRun} {a : Action} {e : Entry} (right : s.text.pp ≠ h.origin)
    (some : newest ((s.runChars h).filter (fun e => decide (e.endPos = s.text.pp))) = some e) :
    s.runDelete h a = (s.removeOwner e).setPp e.pos := by
  rw [State.runDelete, if_neg right]
  simp only [some]

theorem State.removeOwner_run (s : State) (e : Entry) :
    (s.removeOwner e).text.run = s.text.run.map (fun h =>
      { h with members := h.members.filter (fun i => !(e.id :: s.text.companions e.id).contains i) }) := by
  simp only [State.removeOwner, State.completeItem]
  split
  · dsimp only
    split <;> rfl
  · rfl

/-- Where a run's BACKSPACE leaves pp. -/
theorem max_greatestEnd (p q : Nat) (l : List Entry) :
    p ≤ max p (max q (greatestEnd 0 l)) ∧ q ≤ max p (max q (greatestEnd 0 l))
      ∧ (∀ e ∈ l, e.endPos ≤ max p (max q (greatestEnd 0 l)))
      ∧ (max p (max q (greatestEnd 0 l)) = p ∨ max p (max q (greatestEnd 0 l)) = q
        ∨ ∃ e ∈ l, e.endPos = max p (max q (greatestEnd 0 l))) := by
  refine ⟨by omega, by omega, fun e he => by have := le_greatestEnd (d := 0) he; omega, ?_⟩
  by_cases some : l = []
  · rw [some, greatestEnd]
    omega
  · obtain ⟨e, he, top⟩ := greatestEnd_mem (d := 0) some
    rw [← top]
    by_cases first : max p (max q e.endPos) = p
    · exact .inl first
    · by_cases second : max p (max q e.endPos) = q
      · exact .inr (.inl second)
      · exact .inr (.inr ⟨e, he, by omega⟩)

/-! ## The end of a run (R25, R37) -/

theorem HeldRun.ownAction_iff (h : HeldRun) (k : ActionKind) :
    h.ownAction k = true ↔ (h.kind = .center ∧ k = .center) ∨ (h.kind = .flush ∧ k = .flushRight) := by
  unfold HeldRun.ownAction
  cases h.kind <;> simp

theorem State.endRun_eq {s : State} (h : HeldRun) (a : Action) (moving : s.engine.state ≠ .locked) :
    s.endRun h a =
      (let s1 := s.settleRun h a
       if s1.runEntries h = [] then (if h.ownAction a.kind then s1 else s1.afterRun a)
       else s1.feedRun (s1.runEntries h) a (if h.ownAction a.kind then .ownRun else .afterRun)) := by
  rw [State.endRun, if_neg (by simpa [State.isLocked] using moving)]
  dsimp only
  cases (s.settleRun h a).runEntries h <;> cases h.ownAction a.kind <;> rfl

/-- The working line with a run's entries moved to its final start. -/
def State.runMoved (s : State) (h : HeldRun) (final : Nat) : State :=
  s.setWork
    { s.text.work with
      entries := moveOwners (fun e => if h.members.contains e.id then (final : Int) - h.origin else 0) s.text.work.entries }

/-- The final start of a run that ends with pp where it is (Table 2-4). -/
def State.runFinal (s : State) (h : HeldRun) : Nat :=
  finalStart h.kind s.text.settings.lm s.text.settings.rm h.startPp h.origin (s.text.pp - h.origin)

/-- The run entries that share their final place with two others (log entry 33). -/
def State.runThirds (s : State) (h : HeldRun) : List Entry :=
  thirdEntries (s.runMoved h (s.runFinal h)).text.work h.members

theorem State.removeOwners_line (es : List Entry) (s : State) : (s.removeOwners es).line = s.line := by
  induction es generalizing s with
  | nil => rfl
  | cons e es ih =>
    refine (ih (s.removeOwner e)).trans ?_
    simp only [State.removeOwner, State.completeItem]
    split <;> rfl

/-- What the end of a run leaves of the unit: its entries at their places, less the third ones, pp behind it, and the bell. -/
theorem State.settleRun_told (s : State) (h : HeldRun) (a : Action) :
    s.settleRun h a =
      (let s2 := (s.runMoved h (s.runFinal h)).removeOwners (s.runThirds h)
       let rings := (s2.runChars h).any (fun e => entersBell s2.text.settings.rm e.pos e.width)
       let l := if s.runThirds h = [] then s2.line else (s2.refuse a).line
       { s2 with
         text :=
           { s2.text with
             run := none, pp := s.runFinal h + (s.text.pp - h.origin), bellGiven := s2.text.bellGiven || rings },
         line := if rings = true ∧ s2.text.bellGiven = false then l.sound .bell else l }) := by
  let s2 := (s.runMoved h (s.runFinal h)).removeOwners (s.runThirds h)
  let s3 : State :=
    { s2 with text := { s2.text with run := none, pp := s.runFinal h + (s.text.pp - h.origin) } }
  have clicks : (if (s.runThirds h).isEmpty then s3 else s3.refuse a)
      = { s3 with line := if s.runThirds h = [] then s2.line else (s2.refuse a).line } := by
    rw [State.refuse_told s3, State.refuse_told s2]
    cases s.runThirds h <;> rfl
  refine Eq.trans (b := (s3.runChars h).foldl (fun acc e => acc.bell e.pos e.width)
    (if (s.runThirds h).isEmpty then s3 else s3.refuse a)) rfl ?_
  rw [clicks, State.bells_told]
  rfl

/-- A run without entries leaves the lines as they are. -/
theorem State.settleRun_empty {s : State} {h : HeldRun} (a : Action) (empty : ∀ e ∈ s.text.work.entries, ownerId e ∉ h.members)
    (owned : s.text.work.Owned)
    (sorted : s.text.work.entries.Pairwise (fun y z => y.pos < z.pos ∨ (y.pos = z.pos ∧ y.order < z.order))) :
    s.settleRun h a = { s with text := { s.text with run := none, pp := s.runFinal h + (s.text.pp - h.origin) } } := by
  have still : s.runMoved h (s.runFinal h) = s := by
    have same := moveOwners_still
      (shift := fun e => if h.members.contains e.id then (s.runFinal h : Int) - h.origin else 0) (l := s.text.work.entries)
      (fun e he o _ owner => if_neg (by rw [List.contains_iff_mem, owner]; exact empty e he)) sorted
    rw [State.runMoved, same]
    rfl
  have chars {e : Entry} (he : e ∈ s.text.work.chars) : h.members.contains e.id = false := by
    obtain ⟨he, kind⟩ := LineRecord.mem_chars.mp he
    have not := empty e he
    rw [ownerId_of_character owned he kind] at not
    simpa using not
  have thirds : s.runThirds h = [] := by
    rw [State.runThirds, still, thirdEntries, List.filter_eq_nil_iff]
    intro e he
    rw [chars he]
    simp
  have none : s.runChars h = [] := by
    rw [State.runChars, List.filter_eq_nil_iff]
    intro e he
    rw [chars he]
    simp
  rw [State.settleRun_told, thirds, still]
  simp [State.removeOwners, none]

/-! ## Where the entries of an ended run stand -/

/-- The place of a CHARACTER entry after a run has moved to its final start. -/
def HeldRun.place (h : HeldRun) (final : Nat) (e : Entry) : Nat :=
  if h.members.contains e.id then final + (e.pos - h.origin) else e.pos

theorem shiftPos_run {p final origin : Nat} (right : origin ≤ p) : shiftPos p ((final : Int) - origin) = final + (p - origin) := by
  unfold shiftPos
  omega

section
variable {s : State} {h : HeldRun} (unique : (s.text.allEntries.map Entry.id).Nodup) (owned : s.text.work.Owned)
  (right : ∀ e ∈ s.text.work.entries, ownerId e ∈ h.members → h.origin ≤ e.pos)
include unique owned right

theorem State.runMoved_char {e : Entry} (he : e ∈ s.text.work.chars) (final : Nat) :
    movedPos (fun e => if h.members.contains e.id then (final : Int) - h.origin else 0) s.text.work.entries e
      = h.place final e := by
  obtain ⟨he, kind⟩ := LineRecord.mem_chars.mp he
  have own := ownerId_of_character owned he kind
  rw [movedPos_goes (nodup_work unique) he own (by rw [kind]; decide), HeldRun.place]
  split
  · next member => exact shiftPos_run (right e he (by rw [own]; simpa using member))
  · exact shiftPos_zero _

theorem State.mem_runMoved_chars {z : Entry} (final : Nat) :
    z ∈ (s.runMoved h final).text.work.chars ↔ ∃ e ∈ s.text.work.chars, { e with pos := h.place final e } = z := by
  rw [LineRecord.mem_chars]
  constructor
  · rintro ⟨hz, kind⟩
    obtain ⟨e, he, rfl⟩ := mem_moveOwners.mp hz
    have char := LineRecord.mem_chars.mpr ⟨he, kind⟩
    exact ⟨e, char, by rw [State.runMoved_char unique owned right char]⟩
  · rintro ⟨e, char, rfl⟩
    obtain ⟨he, kind⟩ := LineRecord.mem_chars.mp char
    refine ⟨mem_moveOwners.mpr ⟨e, he, ?_⟩, kind⟩
    rw [State.runMoved_char unique owned right char]

/-- How many CHARACTER entries share a place after the move. -/
theorem State.runMoved_charsAt (final q : Nat) :
    ((s.runMoved h final).text.work.charsAt q).length
      = (s.text.work.chars.filter (fun y => decide (h.place final y = q))).length := by
  have perm : ((s.runMoved h final).text.work.charsAt q).Perm
      (((s.text.work.entries.map (fun e => { e with
        pos := movedPos (fun e => if h.members.contains e.id then (final : Int) - h.origin else 0) s.text.work.entries e })).filter
          Entry.isChar).filter (fun e => decide (e.pos = q))) := by
    rw [LineRecord.charsAt, LineRecord.chars]
    exact ((Eq.symm (moveOwners_eq _ _) ▸ perm_sortEntries _).filter _).filter _
  rw [perm.length_eq, List.filter_map, List.filter_map, List.length_map]
  refine congrArg List.length ?_
  refine (List.filter_congr (fun e he => ?_) : _ = s.text.work.chars.filter (fun y => decide (h.place final y = q)))
  exact congrArg (fun p => decide (p = q)) (State.runMoved_char unique owned right he final)

omit owned right in
theorem State.runMoved_unique (final : Nat) : ((s.runMoved h final).text.allEntries.map Entry.id).Nodup := by
  refine List.Perm.nodup ?_ unique
  rw [TextUnit.allEntries, TextUnit.allEntries, List.map_append, List.map_append]
  exact (moveOwners_ids _ _).symm.append_right _

theorem State.mem_runThirds {z : Entry} :
    z ∈ s.runThirds h ↔ ∃ e ∈ s.text.work.chars, h.members.contains e.id = true
      ∧ 2 < (s.text.work.chars.filter (fun y => decide (h.place (s.runFinal h) y = h.place (s.runFinal h) e))).length
      ∧ { e with pos := h.place (s.runFinal h) e } = z := by
  rw [State.runThirds, thirdEntries, List.mem_filter, State.mem_runMoved_chars unique owned right]
  constructor
  · rintro ⟨⟨e, he, rfl⟩, test⟩
    rw [Bool.and_eq_true, decide_eq_true_iff, State.runMoved_charsAt unique owned right] at test
    exact ⟨e, he, test.1, test.2, rfl⟩
  · rintro ⟨e, he, member, third, rfl⟩
    refine ⟨⟨e, he, rfl⟩, ?_⟩
    rw [Bool.and_eq_true, decide_eq_true_iff, State.runMoved_charsAt unique owned right]
    exact ⟨member, third⟩

theorem State.mem_runThirds_ids {i : Nat} :
    i ∈ (s.runThirds h).map Entry.id ↔ ∃ e ∈ s.text.work.chars, h.members.contains e.id = true
      ∧ 2 < (s.text.work.chars.filter (fun y => decide (h.place (s.runFinal h) y = h.place (s.runFinal h) e))).length
      ∧ e.id = i := by
  rw [List.mem_map]
  constructor
  · rintro ⟨z, hz, rfl⟩
    obtain ⟨e, he, member, third, rfl⟩ := (State.mem_runThirds unique owned right).mp hz
    exact ⟨e, he, member, third, rfl⟩
  · rintro ⟨e, he, member, third, rfl⟩
    exact ⟨_, (State.mem_runThirds unique owned right).mpr ⟨e, he, member, third, rfl⟩, rfl⟩

omit owned right in
/-- An entry of the working line that is neither a third at its place nor a companion of one stands at its place. -/
theorem State.settled_stands {e : Entry} (he : e ∈ s.text.work.entries) (other : e.id ∉ (s.runThirds h).map Entry.id)
    (no_companion : ∀ i ∈ (s.runThirds h).map Entry.id, e.owner ≠ some i) :
    ∃ z ∈ ((s.runMoved h (s.runFinal h)).removeOwners (s.runThirds h)).text.work.entries,
      z = { e with
        pos := movedPos (fun e => if h.members.contains e.id then (s.runFinal h : Int) - h.origin else 0) s.text.work.entries e,
        mark := z.mark } :=
  State.removeOwners_stands (s.runThirds h) (State.runMoved_unique unique (s.runFinal h))
    (mem_moveOwners.mpr ⟨e, he, rfl⟩) other no_companion

/-- A CHARACTER entry that is no third at its place is not named among the thirds. -/
theorem State.not_third_id {e : Entry} (he : e ∈ s.text.work.chars)
    (few : ¬2 < (s.text.work.chars.filter (fun y => decide (h.place (s.runFinal h) y = h.place (s.runFinal h) e))).length) :
    e.id ∉ (s.runThirds h).map Entry.id := by
  rw [State.mem_runThirds_ids unique owned right]
  rintro ⟨y, hy, -, third, same⟩
  rw [eq_of_id (nodup_work unique) (LineRecord.mem_chars.mp hy).1 (LineRecord.mem_chars.mp he).1 same] at third
  exact few third

/-- The thirds are CHARACTER entries. -/
theorem State.companion_not_third {e : Entry} (he : e ∈ s.text.work.entries) (kind : e.kind ≠ .character) :
    e.id ∉ (s.runThirds h).map Entry.id := by
  rw [State.mem_runThirds_ids unique owned right]
  rintro ⟨y, hy, -, -, same⟩
  obtain ⟨hy, char⟩ := LineRecord.mem_chars.mp hy
  rw [eq_of_id (nodup_work unique) hy he same] at char
  exact kind char

theorem State.settled_char {e : Entry} (he : e ∈ s.text.work.chars)
    (few : ¬2 < (s.text.work.chars.filter (fun y => decide (h.place (s.runFinal h) y = h.place (s.runFinal h) e))).length) :
    ∃ z ∈ ((s.runMoved h (s.runFinal h)).removeOwners (s.runThirds h)).text.work.entries,
      z = { e with pos := h.place (s.runFinal h) e, mark := z.mark } := by
  obtain ⟨entry, char⟩ := LineRecord.mem_chars.mp he
  obtain ⟨z, hz, is_e⟩ := State.settled_stands unique entry (State.not_third_id unique owned right he few)
    (fun i _ => by rw [owned.1 e entry char]; exact fun none => nomatch none)
  rw [State.runMoved_char unique owned right he] at is_e
  exact ⟨z, hz, is_e⟩

/-- A BOLD companion stays with its owner. -/
theorem State.settled_bold {e b : Entry} (he : e ∈ s.text.work.chars) (member : h.members.contains e.id = true)
    (few : ¬2 < (s.text.work.chars.filter (fun y => decide (h.place (s.runFinal h) y = h.place (s.runFinal h) e))).length)
    (hb : b ∈ s.text.work.entries) (bold : b.kind = .bold) (owner : b.owner = some e.id) :
    ∃ z ∈ ((s.runMoved h (s.runFinal h)).removeOwners (s.runThirds h)).text.work.entries,
      z = { b with pos := s.runFinal h + (b.pos - h.origin), mark := z.mark } := by
  have named : ownerId b = e.id := by rw [ownerId, owner]; rfl
  obtain ⟨z, hz, is_b⟩ := State.settled_stands (h := h) unique hb
    (State.companion_not_third unique owned right hb (by rw [bold]; decide))
    (fun i hi same => State.not_third_id unique owned right he few (by
      rw [owner] at same
      rwa [← Option.some.inj same] at hi))
  have inside : h.origin ≤ b.pos := right b hb (by rw [named]; simpa using member)
  rw [movedPos_goes (nodup_work unique) (LineRecord.mem_chars.mp he).1 named (by rw [bold]; decide), if_pos member,
    shiftPos_run inside] at is_b
  exact ⟨z, hz, is_b⟩

/-- Nothing of a third at its place is left. -/
theorem State.settled_gone {e y : Entry} (he : e ∈ s.text.work.chars) (member : h.members.contains e.id = true)
    (many : 2 < (s.text.work.chars.filter (fun y => decide (h.place (s.runFinal h) y = h.place (s.runFinal h) e))).length)
    (hy : y ∈ ((s.runMoved h (s.runFinal h)).removeOwners (s.runThirds h)).text.work.entries) : ownerId y ≠ e.id := by
  obtain ⟨other, no_companion⟩ := (State.removeOwners_gone _ hy).2 e.id
    ((State.mem_runThirds_ids unique owned right).mpr ⟨e, he, member, many, rfl⟩)
  unfold ownerId
  cases owner : y.owner with
  | none => exact other
  | some o => exact fun same => no_companion (by rw [owner]; exact congrArg some same)

/-- The entries that are not the run's stand. -/
theorem State.settled_other {e : Entry} (he : e ∈ s.text.work.entries) (out : ownerId e ∉ h.members) :
    ∃ z ∈ ((s.runMoved h (s.runFinal h)).removeOwners (s.runThirds h)).text.work.entries, z = { e with mark := z.mark } := by
  have apart {i : Nat} (hi : i ∈ (s.runThirds h).map Entry.id) : i ∈ h.members := by
    obtain ⟨y, -, member, -, rfl⟩ := (State.mem_runThirds_ids unique owned right).mp hi
    simpa using member
  have other : e.id ∉ (s.runThirds h).map Entry.id := by
    by_cases char : e.kind = .character
    · exact fun hi => out (by rw [ownerId_of_character owned he char]; exact apart hi)
    · exact State.companion_not_third unique owned right he char
  obtain ⟨z, hz, is_e⟩ := State.settled_stands (h := h) unique he other
    (fun i hi same => out (by rw [ownerId, same]; exact apart hi))
  rw [movedPos_still (fun o _ same => if_neg (by rw [List.contains_iff_mem, same]; exact out))] at is_e
  exact ⟨z, hz, is_e⟩

/-- A run of which an entry is left has ops to feed. -/
theorem State.settled_feeds {a : Action} {e : Entry} (he : e ∈ s.text.work.chars) (member : h.members.contains e.id = true)
    (few : ¬2 < (s.text.work.chars.filter (fun y => decide (h.place (s.runFinal h) y = h.place (s.runFinal h) e))).length) :
    (s.settleRun h a).runEntries h ≠ [] := by
  obtain ⟨z, hz, is_e⟩ := State.settled_char unique owned right he few
  obtain ⟨entry, char⟩ := LineRecord.mem_chars.mp he
  have named : ownerId z = e.id := by
    rw [is_e]
    exact (ownerId_of_character owned entry char : ownerId e = e.id)
  have work : (s.settleRun h a).text.work = ((s.runMoved h (s.runFinal h)).removeOwners (s.runThirds h)).text.work := by
    rw [State.settleRun_told]
  rw [State.runEntries, work, ne_eq, List.map_eq_nil_iff, List.filter_eq_nil_iff]
  exact fun none => none z hz (by rw [named]; exact member)

/-- The CHARACTER entries of the run that are left after its end: those that are no thirds, at their places. -/
theorem State.mem_settled_runChars {z : Entry}
    (hz : z ∈ ((s.runMoved h (s.runFinal h)).removeOwners (s.runThirds h)).runChars h) :
    ∃ e ∈ s.text.work.chars, h.members.contains e.id = true
      ∧ ¬2 < (s.text.work.chars.filter (fun y => decide (h.place (s.runFinal h) y = h.place (s.runFinal h) e))).length
      ∧ z.pos = h.place (s.runFinal h) e ∧ z.width = e.width := by
  obtain ⟨hz, member⟩ := List.mem_filter.mp hz
  obtain ⟨hz, kind⟩ := LineRecord.mem_chars.mp hz
  have moved_unique := State.runMoved_unique (h := h) unique (s.runFinal h)
  have removed := State.removeOwners_removed (s.runThirds h) moved_unique (owned_moveOwners _ owned)
  have left_unique : ((((s.runMoved h (s.runFinal h)).removeOwners (s.runThirds h)).text.work.entries).map Entry.id).Nodup := by
    rw [State.removeOwners_ids (s.runThirds h) moved_unique (owned_moveOwners _ owned)]
    · exact (nodup_work moved_unique).sublist (List.filter_sublist.map _)
    · intro y hy third
      obtain ⟨x, hx, same⟩ := List.mem_map.mp third
      obtain ⟨e, he, -, -, rfl⟩ := (State.mem_runThirds unique owned right).mp hx
      obtain ⟨w, hw, rfl⟩ := mem_moveOwners.mp hy
      rw [eq_of_id (nodup_work unique) (LineRecord.mem_chars.mp he).1 hw same] at he
      exact (LineRecord.mem_chars.mp he).2
  obtain ⟨y, hy, is_y, left⟩ := removed.back left_unique hz
  rw [is_y] at kind member
  obtain ⟨e, he, rfl⟩ := (State.mem_runMoved_chars unique owned right _).mp (LineRecord.mem_chars.mpr ⟨hy, kind⟩)
  refine ⟨e, he, member, fun third => left (.inl ?_), by rw [is_y], by rw [is_y]⟩
  exact (State.mem_runThirds_ids unique owned right).mpr ⟨e, he, member, third, rfl⟩

theorem State.settled_rings (rm : Nat) :
    (((s.runMoved h (s.runFinal h)).removeOwners (s.runThirds h)).runChars h).any (fun e => entersBell rm e.pos e.width)
      = ((s.text.work.chars.filter (fun e => h.members.contains e.id)).filter (fun e => decide
          ((s.text.work.chars.filter (fun y => decide (h.place (s.runFinal h) y = h.place (s.runFinal h) e))).length ≤ 2))).any
          (fun e => entersBell rm (h.place (s.runFinal h) e) e.width) := by
  rw [Bool.eq_iff_iff, List.any_eq_true, List.any_eq_true]
  constructor
  · rintro ⟨z, hz, rings⟩
    obtain ⟨e, he, member, few, pos, width⟩ := State.mem_settled_runChars unique owned right hz
    rw [pos, width] at rings
    exact ⟨e, List.mem_filter.mpr ⟨List.mem_filter.mpr ⟨he, member⟩, decide_eq_true (Nat.le_of_not_lt few)⟩, rings⟩
  · rintro ⟨e, he, rings⟩
    obtain ⟨he, few⟩ := List.mem_filter.mp he
    obtain ⟨he, member⟩ := List.mem_filter.mp he
    have kind := (LineRecord.mem_chars.mp he).2
    obtain ⟨z, hz, is_e⟩ := State.settled_char unique owned right he (Nat.not_lt.mpr (of_decide_eq_true few))
    refine ⟨z, List.mem_filter.mpr ⟨LineRecord.mem_chars.mpr ⟨hz, by rw [is_e]; exact kind⟩, by rw [is_e]; exact member⟩, ?_⟩
    rw [is_e]
    exact rings

end

theorem State.endRun_feeds {s : State} {h : HeldRun} {a : Action} (moving : s.engine.state ≠ .locked)
    (some : (s.settleRun h a).runEntries h ≠ []) :
    s.endRun h a
      = (s.settleRun h a).feedRun ((s.settleRun h a).runEntries h) a (if h.ownAction a.kind then .ownRun else .afterRun) := by
  rw [State.endRun_eq h a moving]
  exact if_neg some

theorem State.afterRun_eq (s : State) (a : Action) :
    s.afterRun a = if s.freeSlots < s.slotsNeeded a then
      { s with
        text :=
          { s.text with waiting := some (.queueRoom (s.slotsNeeded a)), resume := some { action := a, stage := .afterRun } } }
      else s.performPlain a false := rfl

/-- An action that has no place in a CENTER or FLUSH run (R24). -/
theorem State.performCentred_refused {s : State} {h : HeldRun} {a : Action}
    (among : a.kind ∉ [.char, .space, .backspace, .correct, .underline, .bold, .impression, .carriageReturn])
    (other : h.ownAction a.kind = false) : s.performCentred h a = s.refuse a := by
  unfold State.performCentred
  split
  case h_9 => rw [if_neg (by simp [other])]
  all_goals
    next kind => exact absurd (by rw [kind]; decide) among

theorem State.perform_runChar {s : State} {h : HeldRun} {a : Action} (run : s.text.run = some h) (kind : a.kind = .char)
    (other : h.kind = .decimal → a.code ≠ s.intake.decimal) : s.perform a = s.runChar h a := by
  by_cases decimal : h.kind = .decimal
  · rw [State.perform_decimal a run decimal]
    simp only [State.performDecimal, kind, if_neg (other decimal)]
  · rw [State.perform_centred a run decimal]
    simp only [State.performCentred, kind]

theorem State.perform_runDelete {s : State} {h : HeldRun} {a : Action} (run : s.text.run = some h)
    (kind : a.kind = .backspace ∨ a.kind = .correct) : s.perform a = s.runDelete h a := by
  by_cases decimal : h.kind = .decimal
  · rw [State.perform_decimal a run decimal]
    obtain kind | kind := kind <;> simp only [State.performDecimal, kind]
  · rw [State.perform_centred a run decimal]
    obtain kind | kind := kind <;> simp only [State.performCentred, kind]

end Sys2Proof.Machine

open Sys2Proof Sys2Proof.Machine

/-- Settles O53. -/
theorem heldRunsStand : Obligations.HeldRunsStand := by
  intro s a rest x t pp sw opened
  have text : t.text = s.text := State.taken_text s rest
  have engine : t.engine = s.engine := State.taken_engine s rest
  have spell : t.spell = s.spell := State.taken_spell s rest
  have next : t.nextId = s.nextId := State.taken_nextId s rest
  have decimal : t.intake.decimal = s.intake.decimal := by
    show (s.taken rest).intake.decimal = _
    unfold State.taken
    split <;> rfl
  have opens {k : ActionKind} {r : RunKind} {u : State} (h : s.plain k a rest) (free : k.needsNone = true)
      (does : t.performPlain a true = t.openRun a r) (effect : t.openRun a r = u) : exec k.command s = .next (u.finish s) :=
    exec_plain_free h free (does.trans effect)
  have center (kind : a.kind = .center) : t.performPlain a true = t.openRun a .center := by
    simp only [State.performPlain, kind]
  have flush (kind : a.kind = .flushRight) : t.performPlain a true = t.openRun a .flush := by
    simp only [State.performPlain, kind]
  have tab (kind : a.kind = .decimalTab) : t.performPlain a true = t.openRun a .decimal := by
    simp only [State.performPlain, kind]
  have in_direct (mode : x.mode = .direct) : t.text.settings.mode = .direct := by rw [text]; exact mode
  have in_line (mode : x.mode = .line) : t.text.settings.mode = .line := by rw [text]; exact mode
  refine ⟨fun h mode => opens h rfl (center h.1.2.2.1) ?_, fun h mode => opens h rfl (flush h.1.2.2.1) ?_, fun h mode rises => ?_,
    fun k hk h => ?_, fun k h offers run free => ?_⟩
  · rw [State.openRun_here _ (in_direct mode) (by decide), text]
  · rw [State.openRun_here _ (in_direct mode) (by decide), text]
  · refine ⟨fun beyond => opens h rfl (tab h.1.2.2.1) ?_, fun u hu low high least => opens h rfl (tab h.1.2.2.1) ?_⟩
    · refine State.openRun_no_tab (in_direct mode) ?_
      rw [State.nextTab, text, List.find?_eq_none]
      intro u hu
      have : u ≤ s.text.pp ∨ s.text.settings.rm ≤ u := beyond u hu
      simp only [Bool.and_eq_true, decide_eq_true_eq]
      omega
    · have found : t.nextTab = some u := by rw [State.nextTab, text]; exact find?_rising rises hu low high least
      rw [State.openRun_tab (in_direct mode) found, text]
  · obtain ⟨h, mode⟩ := h
    have refused (r : RunKind) : t.openRun a r = t.refuse a := State.openRun_line a r (in_line mode)
    simp only [List.mem_cons, List.not_mem_nil, or_false] at hk
    obtain rfl | rfl | rfl := hk
    · exact opens h rfl (center h.1.2.2.1) (refused _)
    · exact opens h rfl (flush h.1.2.2.1) (refused _)
    · exact opens h rfl (tab h.1.2.2.1) (refused _)
  · intro limit w chars own inRun
    have kind : a.kind = k := offers.2.2.1
    have t_run : t.text.run = some h := by rwa [text]
    have gives {u : State} (effect : t.perform a = u) : exec k.command s = .next (u.finish s) :=
      (exec_offers offers free).trans (by rw [effect])
    have is_limit : runLimit h.kind x.lm x.rm h.startPp h.origin = limit := by
      cases r_kind : h.kind <;> simp only [limit, r_kind, runLimit]
    have width : (t.placement a.code).width = w := by rw [State.placement, text, engine]
    have long (p : Nat) : t.overLong h p = true ↔ limit < p - h.origin := by rw [State.overLong_iff, text, is_limit]
    have run_chars : t.runChars h = chars := by rw [State.runChars, text]
    refine ⟨fun centred => ?_, fun char other => ?_, fun deletes => ?_, fun ends moving fed => ?_⟩
    · have does : t.perform a = t.performCentred h a := State.perform_centred a t_run centred
      refine ⟨fun among not => gives (does.trans ?_), fun is => ?_, fun is => ?_, fun is => ?_, fun is inside short => ?_,
        fun is no => ?_⟩
      · have no_own : h.ownAction a.kind = false := by
          rw [← Bool.not_eq_true, HeldRun.ownAction_iff, kind]
          exact not
        exact State.performCentred_refused (by rwa [kind]) no_own
      · subst is
        refine gives (does.trans ?_)
        simp only [State.performCentred, kind, State.toggleUnderline, text, x]
      · subst is
        refine gives (does.trans ?_)
        simp only [State.performCentred, kind, State.toggleBold, text, x]
      · subst is
        refine gives (does.trans ?_)
        simp only [State.performCentred, kind]
        cases value : a.value with
        | none =>
          simp only [State.setImpression, value, text, x]
          cases s.text.settings.impression <;> rfl
        | some v => rw [State.setImpression_value value, impressionOf_eq, text]
      · subst is
        refine gives (does.trans ?_)
        simp only [State.performCentred, kind]
        rw [State.runSpace_eq, text]
        refine if_neg ?_
        rw [is_limit]
        show ¬(1600 < pp + sw ∨ limit < pp + sw - h.origin)
        omega
      · subst is
        refine gives (does.trans ?_)
        simp only [State.performCentred, kind]
        rw [State.runSpace_eq, text]
        refine if_pos ?_
        rw [is_limit]
        exact no
    · subst char
      have does : t.perform a = t.runChar h a := State.perform_runChar t_run kind (by rw [decimal]; exact other)
      refine ⟨fun no => gives (does.trans (State.runChar_refused ?_)), fun place room short => ?_⟩
      · rw [width, long, text]
        exact no
      · have joins := State.runChar_joins (s := t) (h := h) (a := a) place room
          (by rw [width, ← Bool.not_eq_true, long, text]; exact Nat.not_lt.mpr short)
        refine ⟨_, gives (does.trans joins), ?_⟩
        dsimp only
        rw [width, text, next]
        exact ⟨rfl, rfl, rfl, engine⟩
    · have does : t.perform a = t.runDelete h a := State.perform_runDelete t_run (by rwa [kind])
      refine ⟨fun at_origin => gives (does.trans (if_pos (by rw [text]; exact at_origin))), fun right none => ?_, fun e right some => ?_⟩
      · have moves := State.runDelete_moves (s := t) (a := a) (h := h) (by rw [text]; exact right)
          (by rw [run_chars, text]; exact none)
        rw [run_chars, text] at moves
        exact ⟨_, gives (does.trans moves), max_greatestEnd _ _ _⟩
      · have deletes := State.runDelete_deletes (s := t) (a := a) (h := h) (e := e) (by rw [text]; exact right)
          (by rw [run_chars, text]; exact some)
        have settings := (t.removeOwner_follows e).settings
        have runs := t.removeOwner_run e
        rw [text] at settings runs
        refine ⟨_, gives (does.trans deletes), rfl, State.removeOwner_find List.mem_cons_self, settings, ?_,
          fun unique y hy other no_companion => State.removeOwner_stands (by rwa [text]) (by rwa [text]) other no_companion,
          fun unique owned => ?_⟩
        · exact runs.trans (by rw [run]; rfl)
        · have removed := State.removeOwner_removed (s := t) (by rwa [text]) (by rwa [text]) e
          rw [Removed, text, spell] at removed
          exact removed
    · intro len final ended
      have is_final : t.runFinal h = final := by
        cases r_kind : h.kind <;> simp only [State.runFinal, finalStart, final, r_kind, text, x, len, pp]
      have is_own : h.ownAction a.kind = true ↔ own := by rw [HeldRun.ownAction_iff, kind]
      have unlocked : t.engine.state ≠ .locked := by rwa [engine]
      have does : t.perform a = t.endRun h a := by
        refine State.perform_ends t_run ?_
        rw [kind, decimal]
        rcases ends with (⟨c, k⟩ | ⟨f, k⟩) | ⟨-, k⟩ | d
        · exact .inr (.inl ⟨k, c⟩)
        · exact .inr (.inr (.inl ⟨k, f⟩))
        · exact .inl k
        · exact .inr (.inr (.inr d))
      refine ⟨fun empty owned sorted => ?_, fun unique owned right => ?_⟩
      · have settled := State.settleRun_empty (s := t) (h := h) a (by rwa [text]) (by rwa [text]) (by rwa [text])
        rw [is_final, text] at settled
        have none : (t.settleRun h a).runEntries h = [] := by
          rw [settled, State.runEntries, List.map_eq_nil_iff, List.filter_eq_nil_iff]
          intro e he
          simpa using empty e he
        have eq := State.endRun_eq (s := t) h a unlocked
        dsimp only at eq
        rw [if_pos none, settled] at eq
        have slots : ended.freeSlots = s.freeSlots := State.taken_freeSlots s rest
        refine ⟨fun mine => gives (does.trans (eq.trans (if_pos (is_own.mpr mine)))),
          fun not enough => gives (does.trans (eq.trans ((if_neg (by rwa [is_own])).trans ?_))),
          fun not short => gives (does.trans (eq.trans ((if_neg (by rwa [is_own])).trans ?_)))⟩
        · exact (State.afterRun_eq ended a).trans (if_neg (by rw [slots]; exact Nat.not_lt.mpr enough))
        · exact (State.afterRun_eq ended a).trans (if_pos (by rwa [slots]))
      · intro place third remains
        have unique : (t.text.allEntries.map Entry.id).Nodup := by rwa [text]
        have owned : t.text.work.Owned := by rwa [text]
        have right : ∀ e ∈ t.text.work.entries, ownerId e ∈ h.members → h.origin ≤ e.pos := by rwa [text]
        have is_place (e : Entry) : h.place (t.runFinal h) e = place e := by rw [is_final]; rfl
        have shared (e : Entry) : (t.text.work.chars.filter (fun y =>
            decide (h.place (t.runFinal h) y = h.place (t.runFinal h) e))).length
            = (s.text.work.chars.filter (fun y => decide (place y = place e))).length := by
          rw [text]
          simp only [is_place]
        have char_of {e : Entry} (he : e ∈ chars) : e ∈ t.text.work.chars ∧ h.members.contains e.id = true := by
          rw [text]
          exact List.mem_filter.mp he
        have is_third (e : Entry) : 2 < (t.text.work.chars.filter (fun y =>
            decide (h.place (t.runFinal h) y = h.place (t.runFinal h) e))).length ↔ third e := by rw [shared e]
        have told := t.settleRun_told h a
        have feeds : (t.settleRun h a).runEntries h ≠ [] := by
          obtain ⟨e, he, few⟩ := remains
          exact State.settled_feeds unique owned right (char_of he).1 (char_of he).2 (by rwa [is_third])
        have settings : ((t.runMoved h (t.runFinal h)).removeOwners (t.runThirds h)).text.settings = x :=
          (State.removeOwners_follows _ _).settings.trans (show t.text.settings = x by rw [text])
        have bell : ((t.runMoved h (t.runFinal h)).removeOwners (t.runThirds h)).text.bellGiven = s.text.bellGiven :=
          (State.removeOwners_bellGiven _ _).trans (show t.text.bellGiven = _ by rw [text])
        have line : ((t.runMoved h (t.runFinal h)).removeOwners (t.runThirds h)).line = t.line := State.removeOwners_line _ _
        refine ⟨_, gives (does.trans (State.endRun_feeds unlocked feeds)), ?_⟩
        rw [told]
        refine ⟨rfl, by rw [← is_final, text]; rfl, settings, rfl, fun mine => ?_, fun not => ?_, rfl, fun e he few => ?_,
          fun e he few b hb bold owner => ?_, fun e he many y hy => ?_, fun e he out => ?_, ?_⟩
        · show some (⟨a, if h.ownAction a.kind then .ownRun else .afterRun⟩ : Resume) = _
          rw [if_pos (is_own.mpr mine)]
        · show some (⟨a, if h.ownAction a.kind then .ownRun else .afterRun⟩ : Resume) = _
          rw [if_neg (by rwa [is_own])]
        · rw [← is_place]
          exact State.settled_char unique owned right (char_of he).1 (by rwa [is_third])
        · rw [← is_final]
          exact State.settled_bold unique owned right (char_of he).1 (char_of he).2 (by rwa [is_third]) (by rwa [text]) bold owner
        · exact State.settled_gone unique owned right (char_of he).1 (char_of he).2 (by rwa [is_third]) hy
        · exact State.settled_other unique owned right (by rwa [text]) out
        · intro enters
          have rings : (((t.runMoved h (t.runFinal h)).removeOwners (t.runThirds h)).runChars h).any
              (fun e => entersBell x.rm e.pos e.width) = enters := by
            rw [State.settled_rings unique owned right, text]
            simp only [is_place]
            rfl
          refine ⟨?_, fun l clicks quiet => ?_⟩
          · show (_ || _) = _
            rw [settings, bell, rings]
          · have clicked : (if t.runThirds h = [] then ((t.runMoved h (t.runFinal h)).removeOwners (t.runThirds h)).line
                else (((t.runMoved h (t.runFinal h)).removeOwners (t.runThirds h)).refuse a).line) = l := by
              split
              · next empty =>
                rw [line, quiet (fun e he many => ?_)]
                have among := (State.mem_runThirds_ids unique owned right).mpr
                  ⟨e, (char_of he).1, (char_of he).2, (is_third e).mpr many, rfl⟩
                rw [empty] at among
                cases among
              · next some =>
                obtain ⟨z, hz⟩ := List.exists_mem_of_ne_nil _ some
                obtain ⟨e, he, member, many, -⟩ := (State.mem_runThirds unique owned right).mp hz
                rw [text] at he
                rw [clicks ⟨e, List.mem_filter.mpr ⟨he, member⟩, (is_third e).mp many⟩, State.refuse_told, State.refuse_told t, line]
            show (if _ ∧ _ then LineInterface.sound _ _ else _) = _
            rw [clicked, settings, bell, rings]
end

section
/-! SUPPORT. What follows a command where the engine and the correction unit stand still, the feeding of ops, and the actions
that go on after a wait. -/

-- One proof after another: the check's process cannot start a thread for each.
set_option Elab.async false

namespace Sys2Proof.Machine

/-! ## An engine and a correction unit that stand still (R55, R67, R68, R97) -/

theorem State.correctionActs_unlifting {s : State} (h : s.corr.lifting = false) : s.correctionActs = s :=
  if_neg (by rw [State.correcting, h]; exact Bool.false_ne_true)

theorem State.advanceHoming_elsewhere {s : State} (h : s.engine.state ≠ .homing) : s.advanceHoming = s :=
  if_neg (fun c => h c.1)

theorem State.idleEngine_elsewhere {s : State} (ready : s.engine.state ≠ .ready) (held : s.engine.state ≠ .held) :
    s.idleEngine = s := if_neg (fun c => c.1.elim ready held)

theorem State.takeOps_elsewhere {s : State} (n : Nat) (h : s.engine.state ≠ .ready) : s.takeOps n = s := by
  cases n with
  | zero => rfl
  | succ n => exact if_neg (by simp [State.mayTake, h])

/-- The state of an engine that neither takes an op nor begins a motion. -/
theorem State.still_state {s : State} (h : s.still) :
    s.engine.state ≠ .ready ∧ s.engine.state ≠ .held ∧ s.engine.state ≠ .homing := by
  obtain ⟨-, e | e | e | e | e⟩ := h <;> rw [e] <;> decide

theorem State.engineActs_still {s : State} (h : s.still) : s.engineActs = s := by
  obtain ⟨ready, held, homing⟩ := s.still_state h
  rw [State.engineActs, State.advanceHoming_elsewhere homing, State.takeOps_elsewhere _ ready,
    State.idleEngine_elsewhere ready held, State.advanceHoming_elsewhere homing]

/-- Nothing marks the image but a change. -/
theorem dirtied_self (s : State) : dirtied s s = false := by simp [dirtied]

theorem State.marking_same {s : State} {f : State → State} (h : f s = s) : s.marking f = s := by
  rw [State.marking, h, State.markDirty, dirtied_self, Bool.or_false]

theorem State.blocksAct_still {s : State} (h : s.still) : s.blocksAct = s := by
  rw [State.blocksAct, State.marking_same (State.correctionActs_unlifting h.1), State.marking_same (State.engineActs_still h),
    State.marking_same (State.correctionActs_unlifting h.1)]

theorem State.finishIn_still {s : State} (old : State) (frame : Bool) (h : s.still) :
    s.finishIn old frame = ((s.markDirty old).marking State.endWait).beginComposition frame := by
  rw [State.finishIn, State.blocksAct_still (s := s.markDirty old) h]

@[simp] theorem State.beginComposition_text (s : State) (frame : Bool) : (s.beginComposition frame).text = s.text := by
  obtain ⟨d, e⟩ := s.beginComposition_eq frame
  rw [e]

/-! ## The end of a wait (R12, Table 1-5) -/

theorem endOwn_eq (r : Option Resume) : endOwn r = r.filter (fun r => decide (r.stage ≠ .ownRun)) := by
  cases r with
  | none => rfl
  | some r =>
    simp only [endOwn, Option.filter]
    by_cases h : r.stage = .ownRun <;> simp [h]

theorem State.endWait_over {s : State} {w : Waiting} (waits : s.text.waiting = some w) (h : s.waitOver w = true) :
    s.endWait.text
      = { s.text with waiting := none, resume := s.text.resume.filter (fun r => decide (r.stage ≠ .ownRun)) } := by
  simp only [State.endWait, waits, if_pos h, endOwn_eq]

theorem State.endWait_stands {s : State} {w : Waiting} (waits : s.text.waiting = some w) (h : s.waitOver w = false) :
    s.endWait = s := by
  simp only [State.endWait, waits, h, Bool.false_eq_true, if_false]

theorem Spelling.lineSettled_iff (sp : Spelling) : sp.lineSettled = true
    ↔ ∀ r ∈ sp.records, r.line = .working → r.state = .known ∨ r.state = .unknown ∨ r.state = .unchecked := by
  unfold Spelling.lineSettled
  simp only [List.all_eq_true]
  refine forall₂_congr (fun r _ => ?_)
  cases line : r.line <;> cases state : r.state <;> simp [WordRecord.settled, state]

/-! ## Feeding (R25, R28) -/

theorem State.heldRunFeed_next {s : State} {id : Nat} {more : List Nat} {e : Entry} (phase : s.supply.phase = .running)
    (free : 1 ≤ s.freeSlots) (waits : s.text.waiting = some .runFeeding)
    (feeding : s.text.feeding = id :: more) (found : s.text.find id = some e) :
    s.heldRunFeed = (State.appendOp { s with text := { s.text with feeding := more } }
      (strikeOp e s.text.settings.impression)).setEntryState id .queued := by
  rw [State.heldRunFeed, if_pos ⟨waits, free, by simp [State.isDown, phase]⟩]
  simp only [feeding, found]

theorem State.printLineFeed_next {s : State} {p : PrintLine} {e : Entry} {more : List Entry} (phase : s.supply.phase = .running)
    (free : 1 ≤ s.freeSlots) (print : s.text.print = some p) (unfed : p.unfed = e :: more) :
    s.printLineFeed = (s.appendOp (strikeOp e p.impression)).setEntryState e.id .queued := by
  rw [State.printLineFeed, if_pos ⟨free, by simp [State.isDown, phase]⟩]
  simp only [print, unfed]

theorem State.printLineFeed_last {s : State} {p : PrintLine} (phase : s.supply.phase = .running)
    (free : 1 ≤ s.freeSlots) (print : s.text.print = some p) (unfed : p.unfed = []) :
    s.printLineFeed = if p.returnAppended then s else
      State.appendOp { s with text := { s.text with print := some { p with returnAppended := true } } }
        (returnOp s.text.settings.lm p.returnFeed) := by
  rw [State.printLineFeed, if_pos ⟨free, by simp [State.isDown, phase]⟩]
  simp only [print, unfed]

theorem unfed_nil {p : PrintLine} (fed : ∀ e ∈ p.record.entries, e.state ≠ .pending) : p.unfed = [] :=
  List.filter_eq_nil_iff.mpr (fun e he => by simpa using fed e he)

/-! ## Going on (R12) -/

theorem State.returnDispatch_goes {s : State} {a : Action} (print : s.text.print = none) (moving : s.engine.state ≠ .locked) :
    s.returnDispatch a = s.dispatch false [] := by
  rw [State.returnDispatch, print, if_neg (by decide), if_neg (by simpa [State.isLocked] using moving)]

theorem State.spaceDispatch_goes {s : State} {a : Action} (print : s.text.print = none) (moving : s.engine.state ≠ .locked) :
    s.spaceDispatch a true = (s.wordEnd s.text.pp).dispatch true [] := by
  rw [State.spaceDispatch, print, if_neg (by decide), if_neg (by simpa [State.isLocked] using moving)]
  rfl

theorem State.actionResume_goes {s : State} {r : Resume} (phase : s.supply.phase = .running) (waits : s.text.waiting = none)
    (resume : s.text.resume = some r) :
    s.actionResume = State.continueAt { s with text := { s.text with resume := none } } r := by
  simp only [State.actionResume, waits, resume, State.isDown, phase]
  rfl

theorem State.actionResume_stands {s : State} (h : s.text.waiting ≠ none ∨ s.text.resume = none) : s.actionResume = s := by
  unfold State.actionResume
  cases waits : s.text.waiting with
  | some w => rfl
  | none =>
    cases resume : s.text.resume with
    | none => rfl
    | some r => simp [waits, resume] at h

/-- The wrap of a CHAR whose dispatch need not wait (R42). -/
theorem State.charWrap_open {s : State} {a : Action} (print : s.text.print = none) (moving : s.engine.state ≠ .locked) :
    let x := s.text.settings
    let w := widthAt x.pitch s.engine.wheel a.code
    let fits : Prop := onWheel s.engine.wheel a.code = true ∧ (x.underline = true → onWheel s.engine.wheel 95 = true)
      ∧ x.lm + w ≤ x.rm
    let word := s.text.work.wordAt s.text.pp
    let ws := leastPos x.lm word
    let carries : Prop := x.lm < ws ∧ word.length < s.text.work.chars.length ∧ (s.text.pp - ws) + w ≤ x.rm - x.lm
      ∧ (s.text.work.entries.filter (fun e => (word.map Entry.id).contains (ownerId e))).length
          + entryCount w x.bold x.underline ≤ 320
    (¬fits → s.charWrap a = s.refuse a)
      ∧ (fits → s.text.work.newestEndingAt s.text.pp = none → s.charWrap a = (s.dispatch true []).placePending a.code)
      ∧ (fits → s.text.work.newestEndingAt s.text.pp ≠ none → ¬carries → s.charWrap a = s.refuse a)
      ∧ (fits → s.text.work.newestEndingAt s.text.pp ≠ none → carries →
        s.charWrap a
          = ((if continuesWord a.code then s else s.wordEnd s.text.pp).dispatch true word).placePending a.code) := by
  intro x w fits word ws carries
  have fit : fits ↔ s.offWheel a.code = false ∧ x.lm + w ≤ x.rm := by rw [State.offWheel_eq_false_iff, and_assoc]
  have does : s.carries a.code ↔ fits ∧ carries := by rw [fit, and_assoc]; exact Iff.rfl
  refine ⟨fun not => ?_, fun fits none => ?_, fun _ word not => ?_, fun fits word goes => ?_⟩
  · by_cases none : s.text.work.newestEndingAt s.text.pp = none
    · exact (State.charWrap_alone none).2 (fun h => not (fit.mpr h))
    · exact (State.charWrap_word none).2 (fun h => not (does.mp h).1)
  · rw [(State.charWrap_alone none).1 (fit.mp fits), State.wrapChar_carries print moving, State.wordEnd_nowhere none, ite_self]
  · exact (State.charWrap_word word).2 (fun h => not (does.mp h).2)
  · rw [(State.charWrap_word word).1 (does.mpr ⟨fits, goes⟩), State.wrapChar_carries print moving]

theorem State.unknownStands_iff (s : State) : s.unknownStands = true
    ↔ ∃ e ∈ s.text.work.entries, e.kind = .character ∧ e.mark = .unknown := by
  simp only [State.unknownStands, List.any_eq_true, LineRecord.chars, List.mem_filter, Entry.isChar, decide_eq_true_iff,
    and_assoc]

end Sys2Proof.Machine

open Sys2Proof Sys2Proof.Machine

/-- Settles O54. -/
theorem feedsContinue : Obligations.FeedsContinue := by
  refine ⟨fun s live phase moving free => ?_, fun s r live phase waits resume => ?_, fun s old frame w still waits => ?_⟩
  · intro strike
    refine ⟨fun id more e waits feeding found => ?_, fun p print => ⟨fun e more unfed => ?_, fun fed fresh => ?_, fun fed done => ?_⟩,
      fun r waits resume => ?_, fun idle => ?_⟩
    · have joins := State.appendOp_told (s := { s with text := { s.text with feeding := more } })
        (strikeOp e s.text.settings.impression) moving
      refine ⟨_, exec_finish live rfl ((State.heldRunFeed_next phase free waits feeding found).trans
        (congrArg (fun u => State.setEntryState u id .queued) joins)), rfl, rfl⟩
    · have joins := State.appendOp_told (strikeOp e p.impression) moving
      exact ⟨_, exec_finish live rfl ((State.printLineFeed_next phase free print unfed).trans
        (congrArg (fun u => State.setEntryState u e.id .queued) joins)), rfl, rfl⟩
    · have joins := State.appendOp_told (s := { s with text := { s.text with print := some { p with returnAppended := true } } })
        (returnOp s.text.settings.lm p.returnFeed) moving
      refine ⟨_, exec_finish live rfl (((State.printLineFeed_last phase free print (unfed_nil fed)).trans ?_).trans joins), rfl, rfl⟩
      rw [fresh]
      rfl
    · refine exec_finish live rfl ((State.printLineFeed_last phase free print (unfed_nil fed)).trans ?_)
      rw [done]
      rfl
    · intro on
      have open_engine : on.isLocked = false := by simpa [State.isLocked] using moving
      have gives {u : State} (effect : on.continueAt r = u) : exec .actionResume s = .next (u.finish s) :=
        exec_finish live rfl ((State.actionResume_goes phase waits resume).trans effect)
      refine ⟨fun stage print kind => gives ?_, fun stage print kind => gives ?_, fun stage => gives ?_,
        fun stage kind print => ?_, fun stage kind value mode empty run print => gives ?_⟩
      · simp only [State.continueAt, stage, kind]
        exact State.returnDispatch_goes print moving
      · simp only [State.continueAt, stage, kind]
        exact State.spaceDispatch_goes print moving
      · simp only [State.continueAt, stage]
        rfl
      · intro x c w fits word ws carries
        have wraps : on.continueAt r = on.charWrap r.action := by simp only [State.continueAt, stage]
        obtain ⟨off, alone, stays, carried⟩ := State.charWrap_open (s := on) (a := r.action) print moving
        exact ⟨fun not => gives (wraps.trans (off not)), fun fits none => gives (wraps.trans (alone fits none)),
          fun fits word not => gives (wraps.trans (stays fits word not)),
          fun fits word goes => gives (wraps.trans (carried fits word goes))⟩
      · simp only [State.continueAt, stage, State.performPlain, kind]
        have other : r.action.asksOther on.text.settings.mode := by
          rw [Action.asksOther, mode]
          exact value.imp_right (fun v => .inr ⟨v, rfl⟩)
        refine (State.setMode_changes other).trans ((State.changeMode_made (u := on) empty run (fun _ => print)).trans ?_)
        rw [show on.text.settings.mode = .line from mode]
        rfl
    · exact exec_finish live rfl (State.actionResume_stands idle)
  · intro on waits_
    have gives {u : State} (effect : on.continueAt r = u) : exec .actionResume s = .next (u.finish s) :=
      exec_finish live rfl ((State.actionResume_goes phase waits resume).trans effect)
    refine ⟨fun stage => ?_, fun stage => gives ?_, fun n stage kind => ?_⟩
    · intro unknown
      have goes : on.continueAt r = on.verdictsIn r.action := by simp only [State.continueAt, stage]
      have stands : on.unknownStands = true ↔ unknown := State.unknownStands_iff on
      refine ⟨fun h => gives (goes.trans (if_pos (stands.mpr h))), fun not _ => ?_⟩
      have goes := goes.trans (if_neg (fun h => not (stands.mp h)))
      refine ⟨fun print => gives (goes.trans (if_pos (Option.isSome_iff_ne_none.mpr print))),
        fun print moving => gives (goes.trans (State.returnDispatch_goes print moving)),
        fun print locked => gives (goes.trans ?_)⟩
      have print : on.text.print = none := print
      rw [State.returnDispatch, print, if_neg (by decide), if_pos (by simpa [State.isLocked] using locked)]
    · simp only [State.continueAt, stage]
    · intro busy
      have goes : on.continueAt r = on.indexPlain r.action n := by
        obtain ⟨kind, rfl⟩ | ⟨kind, rfl⟩ := kind <;>
          simp only [State.continueAt, stage, State.performPlain, kind] <;> rfl
      refine ⟨fun locked => gives (goes.trans (if_pos (by simpa [State.isLocked] using locked))),
        fun moving busy => gives (goes.trans (State.indexPlain_waits n moving busy.1 busy.2)),
        fun moving idle full => gives (goes.trans ?_), fun moving idle free => gives (goes.trans ?_)⟩
      · rw [State.indexPlain, if_neg (by simpa [State.isLocked] using moving),
          if_neg (fun h => idle ⟨h.1, Option.isSome_iff_ne_none.mp h.2⟩), if_pos (show on.freeSlots = 0 from full)]
        rfl
      · rw [State.indexPlain, if_neg (by simpa [State.isLocked] using moving),
          if_neg (fun h => idle ⟨h.1, Option.isSome_iff_ne_none.mp h.2⟩),
          if_neg (show ¬on.freeSlots = 0 from Nat.ne_of_gt free)]
        exact State.appendOp_told (s := on) _ moving
  · intro over_
    have ended : s.waitOver w = true ↔ over_ := by
      cases w with
      | queueRoom n => exact decide_eq_true_iff
      | runFeeding => exact List.isEmpty_iff
      | printLineBusy => exact Option.isNone_iff_eq_none
      | verdicts => exact s.spell.lineSettled_iff
      | correction => simp only [State.waitOver, still.1, over_, Bool.not_false]
    have finished : (s.finishIn old frame).text = (s.markDirty old).endWait.text := by
      rw [State.finishIn_still old frame still, State.beginComposition_text, State.marking_text]
    rw [finished]
    exact ⟨fun h => State.endWait_over (s := s.markDirty old) waits (ended.mpr h),
      fun h => (congrArg State.text (State.endWait_stands (s := s.markDirty old) waits
        (Bool.eq_false_iff.mpr (fun e => h (ended.mp e))))).trans rfl⟩
end

section
/-! SUPPORT. The image of a composition: the walk over the line's positions, the line cells, the cursor and the window. -/

-- One proof after another: the check's process cannot start a thread for each.
set_option Elab.async false

namespace Sys2Proof.Machine

/-! ## The walk (R142) -/

theorem mem_distinct {l : List Nat} {q : Nat} : q ∈ distinct l ↔ q ∈ l := by
  induction l with
  | nil => exact Iff.rfl
  | cons x xs ih =>
    rw [distinct]
    split
    · next again =>
      rw [ih, List.mem_cons]
      exact ⟨.inr, fun h => h.elim (fun e => e ▸ List.contains_iff_mem.mp again) (fun h => h)⟩
    · rw [List.mem_cons, List.mem_cons, ih]

theorem rising_distinct {l : List Nat} (h : l.Pairwise (· ≤ ·)) : (distinct l).Pairwise (· < ·) := by
  induction l with
  | nil => exact List.Pairwise.nil
  | cons x xs ih =>
    obtain ⟨first, tail⟩ := List.pairwise_cons.mp h
    rw [distinct]
    split
    · exact ih tail
    · next new =>
      refine List.pairwise_cons.mpr ⟨fun y hy => ?_, ih tail⟩
      have hy := mem_distinct.mp hy
      exact lt_of_le_of_ne (first y hy) (fun e => new (List.contains_iff_mem.mpr (e ▸ hy)))

/-- The running end before a position: the greatest end of the characters left of it, or the origin. -/
structure RunningEnd (o : Nat) (chars : List Entry) (p r : Nat) : Prop where
  origin : o ≤ r
  covers : ∀ e ∈ chars, e.pos < p → e.endPos ≤ r
  reached : r = o ∨ ∃ e ∈ chars, e.pos < p ∧ e.endPos = r

/-- The running end passes the characters of a position. -/
theorem RunningEnd.passes {o r q p : Nat} {chars : List Entry} (h : RunningEnd o chars q r) (less : q < p)
    (stands : ∃ e ∈ chars, e.pos = q) (none : ∀ e ∈ chars, e.pos < p → e.pos ≤ q) :
    RunningEnd o chars p (max r (greatestEnd q (chars.filter (fun e => decide (e.pos = q))))) := by
  obtain ⟨x, hx, at_q⟩ := stands
  have here {e : Entry} : e ∈ chars.filter (fun e => decide (e.pos = q)) ↔ e ∈ chars ∧ e.pos = q := by
    rw [List.mem_filter, decide_eq_true_iff]
  refine ⟨le_trans h.origin (le_max_left _ _), fun e he left => ?_, ?_⟩
  · rcases lt_or_eq_of_le (none e he left) with less | same
    · exact le_trans (h.covers e he less) (le_max_left _ _)
    · exact le_trans (le_greatestEnd (here.mpr ⟨he, same⟩)) (le_max_right _ _)
  · rcases le_total r (greatestEnd q (chars.filter (fun e => decide (e.pos = q)))) with le | le
    · rw [max_eq_right le]
      obtain ⟨e, he, ends⟩ := greatestEnd_mem (d := q) (List.ne_nil_of_mem (here.mpr ⟨hx, at_q⟩))
      exact .inr ⟨e, (here.mp he).1, (here.mp he).2 ▸ less, ends⟩
    · rw [max_eq_left le]
      exact h.reached.imp_right (fun ⟨e, he, left, ends⟩ => ⟨e, he, lt_trans left less, ends⟩)

theorem walk_positions (sw : Nat) (chars : List Entry) (qs : List Nat) (r n : Nat) : (walk sw chars r n qs).map Spot.pos = qs := by
  induction qs generalizing r n with
  | nil => rfl
  | cons q qs ih => rw [walk, List.map_cons, ih]

/-- The spots of a walk over the positions of the characters that are not passed yet. -/
theorem walk_spots {sw o : Nat} {chars : List Entry} {qs : List Nat} {r n : Nat} (rises : qs.Pairwise (· < ·))
    (stand : ∀ q ∈ qs, ∃ e ∈ chars, e.pos = q) (all : ∀ e ∈ chars, e.pos ∈ qs ∨ ∀ q ∈ qs, e.pos < q)
    (start : ∀ q, qs.head? = some q → RunningEnd o chars q r) {i : Nat} {x : Spot}
    (h : (walk sw chars r n qs)[i]? = some x) :
    RunningEnd o chars x.pos x.before ∧ x.blanks = gapCells sw x.before x.pos ∧ (i = 0 → x.cell = n + x.blanks)
      ∧ ∀ y, (walk sw chars r n qs)[i - 1]? = some y → 0 < i → x.cell = y.cell + 1 + x.blanks := by
  induction qs generalizing r n i with
  | nil => cases h
  | cons q qs ih =>
    obtain ⟨first, tail⟩ := List.pairwise_cons.mp rises
    have here := start q rfl
    cases i with
    | zero =>
      cases h
      exact ⟨here, rfl, fun _ => rfl, fun _ _ none => absurd none (Nat.lt_irrefl 0)⟩
    | succ i =>
      rw [walk, List.getElem?_cons_succ] at h
      have next := ih tail (fun p hp => stand p (List.mem_cons_of_mem _ hp))
        (fun e he => (all e he).elim
          (fun among => (List.mem_cons.mp among).elim (fun same => .inr (fun p hp => same ▸ first p hp)) .inl)
          (fun left => .inr (fun p hp => left p (List.mem_cons_of_mem _ hp))))
        (fun p hp => here.passes (first p (List.mem_of_mem_head? hp)) (stand q List.mem_cons_self)
          (fun e he left => by
            rcases all e he with among | before
            · rcases List.mem_cons.mp among with same | among
              · exact le_of_eq same
              · cases qs with
                | nil => cases among
                | cons z zs =>
                  cases hp
                  rcases List.mem_cons.mp among with same | among
                  · omega
                  · have := (List.pairwise_cons.mp tail).1 _ among
                    omega
            · exact le_of_lt (before q List.mem_cons_self)))
        h
      obtain ⟨before, blanks, zero, succ⟩ := next
      refine ⟨before, blanks, fun e => absurd e (Nat.succ_ne_zero i), fun y hy _ => ?_⟩
      rw [Nat.add_sub_cancel, walk] at hy
      cases i with
      | zero =>
        cases hy
        rw [zero rfl]
      | succ i => exact succ y hy (Nat.succ_pos i)

theorem foldl_min_spec (l : List Nat) (m : Nat) :
    l.foldl min m ≤ m ∧ (∀ x ∈ l, l.foldl min m ≤ x) ∧ (l.foldl min m = m ∨ l.foldl min m ∈ l) := by
  induction l generalizing m with
  | nil => exact ⟨le_refl m, by simp, .inl rfl⟩
  | cons x xs ih =>
    obtain ⟨start, rest, among⟩ := ih (min m x)
    rw [List.foldl_cons]
    refine ⟨le_trans start (min_le_left _ _), fun y hy => ?_, ?_⟩
    · rcases List.mem_cons.mp hy with rfl | hy
      · exact le_trans start (min_le_right _ _)
      · exact rest y hy
    · rcases among with same | among
      · rw [same]
        rcases le_total m x with le | le
        · exact .inl (min_eq_left le)
        · exact .inr (by rw [min_eq_right le]; exact List.mem_cons_self)
      · exact .inr (List.mem_cons_of_mem _ among)

/-- The walk of a composition. -/
def TextUnit.spots (t : TextUnit) : List Spot :=
  walk (spaceWidth t.settings.pitch) t.work.chars (walkOrigin t.settings.lm t.pp t.work.chars) 0
    (distinct ((sortEntries t.work.chars).map Entry.pos))

theorem TextUnit.mem_positions (t : TextUnit) (q : Nat) :
    q ∈ distinct ((sortEntries t.work.chars).map Entry.pos) ↔ ∃ e ∈ t.work.chars, e.pos = q := by
  rw [mem_distinct, List.mem_map]
  exact exists_congr (fun e => and_congr_left (fun _ => (perm_sortEntries _).mem_iff))

theorem TextUnit.walked (t : TextUnit) :
    Walked t (walkOrigin t.settings.lm t.pp t.work.chars)
      (walkEnd (walkOrigin t.settings.lm t.pp t.work.chars) t.work.chars) t.spots := by
  obtain ⟨low, least, among⟩ := foldl_min_spec (t.work.chars.map Entry.pos) (min t.settings.lm t.pp)
  obtain ⟨high, greatest⟩ := foldl_max_le (t.work.chars.map Entry.endPos) (walkOrigin t.settings.lm t.pp t.work.chars)
  have rises : (distinct ((sortEntries t.work.chars).map Entry.pos)).Pairwise (· < ·) :=
    rising_distinct (List.pairwise_map.mpr (sorted_sortEntries _))
  have positions : t.spots.map Spot.pos = distinct ((sortEntries t.work.chars).map Entry.pos) := walk_positions _ _ _ _ _
  refine ⟨le_trans low (min_le_left _ _), le_trans low (min_le_right _ _), fun e he => least _ (List.mem_map_of_mem he), ?_,
    fun e he => greatest _ (List.mem_map_of_mem he), ?_, high, ?_, fun q => ?_, fun i x hx => ?_⟩
  · rcases among with same | among
    · rcases le_total t.settings.lm t.pp with le | le
      · exact .inl (same.trans (min_eq_left le))
      · exact .inr (.inl (same.trans (min_eq_right le)))
    · obtain ⟨e, he, same⟩ := List.mem_map.mp among
      exact .inr (.inr ⟨e, he, same.symm⟩)
  · rcases foldl_max_mem (t.work.chars.map Entry.endPos) (walkOrigin t.settings.lm t.pp t.work.chars) with same | among
    · exact .inl same
    · obtain ⟨e, he, same⟩ := List.mem_map.mp among
      exact .inr ⟨e, he, same⟩
  · rw [← positions] at rises
    exact List.pairwise_map.mp rises
  · rw [← t.mem_positions, ← positions, List.mem_map]
  · have start (q : Nat) (hq : (distinct ((sortEntries t.work.chars).map Entry.pos)).head? = some q) :
        RunningEnd (walkOrigin t.settings.lm t.pp t.work.chars) t.work.chars q (walkOrigin t.settings.lm t.pp t.work.chars) := by
      refine ⟨le_refl _, fun e he left => ?_, .inl rfl⟩
      have among := (t.mem_positions _).mpr ⟨e, he, rfl⟩
      cases eq : distinct ((sortEntries t.work.chars).map Entry.pos) with
      | nil => rw [eq] at hq; cases hq
      | cons z zs =>
        rw [eq] at hq among rises
        cases hq
        rcases List.mem_cons.mp among with same | among
        · omega
        · have := (List.pairwise_cons.mp rises).1 _ among
          omega
    obtain ⟨before, blanks, zero, succ⟩ := walk_spots rises (fun q hq => (t.mem_positions q).mp hq)
      (fun e he => .inl ((t.mem_positions _).mpr ⟨e, he, rfl⟩)) start hx
    exact ⟨before.origin, before.covers, before.reached, blanks, fun h => by rw [zero h, Nat.zero_add], succ⟩

/-! ## The cursor cell (R143) -/

theorem spot_unique {spots : List Spot} (rises : spots.Pairwise (fun x y => x.pos < y.pos)) {x y : Spot} (hx : x ∈ spots)
    (hy : y ∈ spots) (same : x.pos = y.pos) : x = y :=
  List.inj_on_of_nodup_map (List.pairwise_map.mpr (rises.imp Nat.ne_of_lt)) hx hy same

/-- Where spots rise, a test that one spot alone passes finds it. -/
theorem find?_spot {spots : List Spot} {f : Spot → Bool} {x : Spot} (hx : x ∈ spots) (passes : f x = true)
    (alone : ∀ y ∈ spots, f y = true → y = x) : spots.find? f = some x := by
  cases found : spots.find? f with
  | none => exact absurd passes (List.find?_eq_none.mp found x hx)
  | some y => rw [alone y (List.mem_of_find?_eq_some found) (List.find?_some found)]

theorem le_getLast? {spots : List Spot} (rises : spots.Pairwise (fun x y => x.pos < y.pos)) {x z : Spot}
    (last : spots.getLast? = some z) (hx : x ∈ spots) : x.pos ≤ z.pos := by
  obtain ⟨front, rfl⟩ := List.getLast?_eq_some_iff.mp last
  rcases List.mem_append.mp hx with hx | hx
  · exact le_of_lt ((List.pairwise_append.mp rises).2.2 x hx z (List.mem_singleton_self z))
  · rw [List.mem_singleton.mp hx]

theorem TextUnit.cursorAt {t : TextUnit} {o r : Nat} {spots : List Spot} (wide : ∀ e ∈ t.work.chars, 0 < e.width)
    (h : Walked t o r spots) : CursorAt t r spots (cursorCell (spaceWidth t.settings.pitch) t.pp r spots) := by
  obtain ⟨-, -, -, -, -, -, -, rises, stands, each⟩ := h
  have covers {x y : Spot} (hx : x ∈ spots) (hy : y ∈ spots) (left : x.pos < y.pos) : x.pos < y.before := by
    obtain ⟨e, he, at_x⟩ := (stands x.pos).mp ⟨x, hx, rfl⟩
    obtain ⟨i, hi⟩ := List.mem_iff_getElem?.mp hy
    have ends := (each i y hi).2.1 e he (by omega)
    have := wide e he
    unfold Entry.endPos at ends
    omega
  refine ⟨fun beyond => ?_, fun within => ?_⟩
  · have cell : cursorCell (spaceWidth t.settings.pitch) t.pp r spots
        = walkCells spots + (t.pp - r) / spaceWidth t.settings.pitch := if_pos beyond
    refine ⟨fun none => ?_, fun x last => ?_⟩
    · rw [cell, none, walkCells]
      exact Nat.zero_add _
    · rw [cell, walkCells, last]
  · unfold cursorCell
    rw [if_neg (by omega)]
    have no_spot {x : Spot} (hx : x ∈ spots) (low : x.before ≤ t.pp) (high : t.pp < x.pos) :
        spots.find? (fun x => decide (x.pos = t.pp)) = none := by
      refine List.find?_eq_none.mpr (fun y hy at_pp => ?_)
      have at_pp := of_decide_eq_true at_pp
      have := covers hy hx (by omega)
      omega
    refine ⟨fun x hx at_pp => ?_, fun x hx low high => ?_, fun neither x hx left greatest => ?_⟩
    · rw [find?_spot hx (decide_eq_true at_pp)
        (fun y hy at_y => spot_unique rises hy hx ((of_decide_eq_true at_y).trans at_pp.symm))]
    · rw [no_spot hx low high, find?_spot hx (by simp [low, high]) (fun y hy between => ?_)]
      simp only [Bool.and_eq_true, decide_eq_true_iff] at between
      refine spot_unique rises hy hx ?_
      rcases Nat.lt_trichotomy y.pos x.pos with less | same | more
      · have := covers hy hx less
        omega
      · exact same
      · have := covers hx hy more
        omega
    · rw [List.find?_eq_none.mpr (fun y hy at_pp => (neither y hy).1 (of_decide_eq_true at_pp)),
        List.find?_eq_none.mpr (fun y hy between => (neither y hy).2 (by simpa using between))]
      have among : x ∈ spots.filter (fun x => decide (x.pos < t.pp)) := List.mem_filter.mpr ⟨hx, decide_eq_true left⟩
      cases last : (spots.filter (fun x => decide (x.pos < t.pp))).getLast? with
      | none => rw [List.getLast?_eq_none_iff.mp last] at among; cases among
      | some z =>
        obtain ⟨hz, less⟩ := List.mem_filter.mp (List.mem_of_getLast? last)
        have le := le_getLast? (rises.sublist List.filter_sublist) last among
        dsimp only
        rw [spot_unique rises hz hx (le_antisymm (greatest z hz (of_decide_eq_true less)) le)]

/-! ## The line cells (R142) -/

theorem walk_cells_ge {sw : Nat} {chars : List Entry} {qs : List Nat} {r n : Nat} {x : Spot}
    (h : x ∈ walk sw chars r n qs) : n ≤ x.cell := by
  induction qs generalizing r n with
  | nil => cases h
  | cons q qs ih =>
    rcases List.mem_cons.mp h with rfl | h
    · exact Nat.le_add_right _ _
    · have := ih h
      omega

/-- The line cell of a number: that of the spot which has it, or a blank. -/
theorem lineCells_walk {sw : Nat} {chars entries : List Entry} (qs : List Nat) (r n k : Nat) :
    (∀ x ∈ walk sw chars r n qs, x.cell = n + k →
        (lineCells entries (walk sw chars r n qs)).getD k .blank = cellAt entries x.pos)
      ∧ ((∀ x ∈ walk sw chars r n qs, x.cell ≠ n + k) →
        (lineCells entries (walk sw chars r n qs)).getD k .blank = .blank) := by
  induction qs generalizing r n k with
  | nil => simp [walk, lineCells]
  | cons q qs ih =>
    have cells (tail : List Spot) (b : Nat) : lineCells entries ({ pos := q, before := r, blanks := b, cell := n + b } :: tail)
        = List.replicate b .blank ++ cellAt entries q :: lineCells entries tail := by
      simp [lineCells]
    rw [walk]
    simp only [cells]
    set b := gapCells sw r q
    set tail := walk sw chars (max r (greatestEnd q (chars.filter (fun e => decide (e.pos = q))))) (n + b + 1) qs with def_tail
    rcases Nat.lt_trichotomy k b with less | rfl | more
    · have blank : (List.replicate b GlassCell.blank ++ cellAt entries q :: lineCells entries tail).getD k .blank = .blank := by
        rw [List.getD_append _ _ _ _ (by simpa using less)]
        simp [List.getD_eq_getElem?_getD, less]
      refine ⟨fun x hx cell => ?_, fun _ => blank⟩
      rcases List.mem_cons.mp hx with rfl | hx
      · have : n + b = n + k := cell
        omega
      · have := walk_cells_ge hx
        omega
    · have here : (List.replicate b GlassCell.blank ++ cellAt entries q :: lineCells entries tail).getD b .blank
          = cellAt entries q := by
        simp [List.getD_eq_getElem?_getD]
      refine ⟨fun x hx cell => ?_, fun none => absurd rfl (none _ List.mem_cons_self)⟩
      rcases List.mem_cons.mp hx with rfl | hx
      · exact here
      · have := walk_cells_ge hx
        omega
    · have later : (List.replicate b GlassCell.blank ++ cellAt entries q :: lineCells entries tail).getD k .blank
          = (lineCells entries tail).getD (k - b - 1) .blank := by
        rw [List.getD_append_right _ _ _ _ (by simpa using le_of_lt more), List.length_replicate]
        obtain ⟨m, hm⟩ : ∃ m, k - b = m + 1 := ⟨k - b - 1, by omega⟩
        rw [hm]
        rfl
      obtain ⟨stands, blank⟩ := ih (max r (greatestEnd q (chars.filter (fun e => decide (e.pos = q))))) (n + b + 1) (k - b - 1)
      rw [later]
      refine ⟨fun x hx cell => ?_, fun none => blank (fun x hx => ?_)⟩
      · rcases List.mem_cons.mp hx with rfl | hx
        · have : n + b = n + k := cell
          omega
        · exact stands x hx (by omega)
      · have := none x (List.mem_cons_of_mem _ hx)
        omega

/-! ## The newest character of a position (R2, R142) -/

theorem foldl_newest (es : List Entry) (e : Entry) :
    (es.foldl (fun a b => if a.order < b.order then b else a) e) ∈ e :: es
      ∧ ∀ y ∈ e :: es, y.order ≤ (es.foldl (fun a b => if a.order < b.order then b else a) e).order := by
  induction es generalizing e with
  | nil => simp
  | cons x xs ih =>
    rw [List.foldl_cons]
    obtain ⟨among, most⟩ := ih (if e.order < x.order then x else e)
    have le : e.order ≤ (if e.order < x.order then x else e).order
        ∧ x.order ≤ (if e.order < x.order then x else e).order := by split <;> omega
    have first := most _ List.mem_cons_self
    constructor
    · rcases List.mem_cons.mp among with same | among
      · rw [same]; split <;> simp
      · exact List.mem_cons_of_mem _ (List.mem_cons_of_mem _ among)
    · intro y hy
      rcases List.mem_cons.mp hy with rfl | hy
      · exact le_trans le.1 first
      · rcases List.mem_cons.mp hy with rfl | hy
        · exact le_trans le.2 first
        · exact most y (List.mem_cons_of_mem _ hy)

theorem newest_of_greatest {l : List Entry} {e : Entry} (he : e ∈ l) (distinct : (l.map Entry.order).Nodup)
    (most : ∀ y ∈ l, y.order ≤ e.order) : newest l = some e := by
  cases l with
  | nil => cases he
  | cons x xs =>
    obtain ⟨among, greatest⟩ := foldl_newest xs x
    rw [newest, List.inj_on_of_nodup_map distinct among he (le_antisymm (most _ among) (greatest e he))]

/-- The cell of a position shows its newest character (R142). -/
theorem cellAt_newest {r : LineRecord} {e : Entry} {q : Nat} (he : e ∈ r.chars) (at_q : e.pos = q)
    (distinct : (r.chars.map Entry.order).Nodup) (most : ∀ y ∈ r.chars, y.pos = q → y.order ≤ e.order) :
    (cellAt r.entries q).glyph = some e.char ∧ (cellAt r.entries q).flash = decide (e.mark = .unknown)
      ∧ (cellAt r.entries q).inverted = false
      ∧ ((cellAt r.entries q).underline = true ↔
        ∃ u ∈ r.entries, u.kind = .underscore ∧ ∃ y ∈ r.chars, y.pos = q ∧ ownerId u = y.id) := by
  have here : r.entries.filter (fun e => e.isChar && decide (e.pos = q)) = r.chars.filter (fun e => decide (e.pos = q)) := by
    rw [LineRecord.chars, List.filter_filter]
    exact List.filter_congr (fun e _ => Bool.and_comm _ _)
  have mem {y : Entry} : y ∈ r.chars.filter (fun e => decide (e.pos = q)) ↔ y ∈ r.chars ∧ y.pos = q := by
    rw [List.mem_filter, decide_eq_true_iff]
  have is_newest : newest (r.chars.filter (fun e => decide (e.pos = q))) = some e :=
    newest_of_greatest (mem.mpr ⟨he, at_q⟩) (distinct.sublist (List.filter_sublist.map _))
      (fun y hy => most y (mem.mp hy).1 (mem.mp hy).2)
  have cell : cellAt r.entries q =
      { glyph := some e.char,
        underline := r.entries.any (fun u => decide (u.kind = .underscore)
          && ((r.chars.filter (fun e => decide (e.pos = q))).map Entry.id).contains (ownerId u)),
        flash := decide (e.mark = .unknown), inverted := false } := by
    simp only [cellAt, here, is_newest]
  rw [cell]
  refine ⟨rfl, rfl, rfl, ?_⟩
  simp only [List.any_eq_true, Bool.and_eq_true, decide_eq_true_iff, List.contains_iff_mem, List.mem_map, mem]
  exact exists_congr (fun u => and_congr_right (fun _ => and_congr_right (fun _ =>
    exists_congr (fun y => by rw [and_assoc, eq_comm (a := y.id)]))))

theorem TextUnit.cellShows {t : TextUnit} (n : Nat) (distinct : (t.work.chars.map Entry.order).Nodup) :
    CellShows t t.spots n ((lineCells t.work.entries t.spots).getD n .blank) := by
  obtain ⟨stands, blank⟩ := lineCells_walk (sw := spaceWidth t.settings.pitch) (chars := t.work.chars) (entries := t.work.entries)
    _ (walkOrigin t.settings.lm t.pp t.work.chars) 0 n
  rw [Nat.zero_add] at stands blank
  refine ⟨fun x hx cell e he at_x most => ?_, blank⟩
  have shows_ : (lineCells t.work.entries t.spots).getD n .blank = cellAt t.work.entries x.pos := stands x hx cell
  rw [shows_]
  exact cellAt_newest he at_x distinct most

/-! ## The image (R141, R144, R147, R150, R151) -/

/-- The cursor cell of a composition. -/
def TextUnit.cursor (t : TextUnit) : Nat :=
  cursorCell (spaceWidth t.settings.pitch) t.pp (walkEnd (walkOrigin t.settings.lm t.pp t.work.chars) t.work.chars) t.spots

/-- The window origin after a composition. -/
def State.windowed (s : State) : Nat := moveWindow s.display.w0 s.text.cursor

theorem moveWindow_eq (w0 c : Nat) : moveWindow w0 c = if c < w0 then c - 8 else if w0 + 39 < c then c - 31 else w0 := rfl

theorem State.compose_window (s : State) : s.compose.2 = s.windowed := by
  unfold State.compose
  cases s.display.phase <;> rfl

theorem State.compose_message {s : State} {m : Message} (phase : s.display.phase = .message m) :
    s.compose.1 = { cells := messageRow m, indicators := s.indicators, cursor := none } := by
  simp only [State.compose, phase]

/-- The 40 cells of the window, in the blink phase. -/
def State.windowCells (s : State) : List GlassCell :=
  let row := ((lineCells s.text.work.entries s.text.spots).drop s.windowed).take 40
  (row ++ List.replicate (40 - row.length) GlassCell.blank).map (fun c => c.inPhase s.display.blinkOdd)

/-- The cursor record of a composition. -/
def State.cursorRecord (s : State) : CursorRecord :=
  { cell := s.text.cursor - s.windowed, shape := if s.text.run.isSome then .block else .under,
    manner := if s.text.waiting.isSome then .steady else .blink }

theorem State.compose_line {s : State} (phase : s.display.phase = .line) :
    s.compose.1 =
      { cells := drawCursor s.cursorRecord s.display.blinkOdd s.windowCells, indicators := s.indicators,
        cursor := some s.cursorRecord } := by
  simp only [State.compose, phase]
  rfl

theorem State.windowCells_getElem? (s : State) {g : Nat} (h : g < 40) : s.windowCells[g]? =
    some (((lineCells s.text.work.entries s.text.spots).getD (s.windowed + g) .blank).inPhase s.display.blinkOdd) := by
  unfold State.windowCells
  set l := lineCells s.text.work.entries s.text.spots
  dsimp only
  rw [List.getElem?_map]
  by_cases inside : s.windowed + g < l.length
  · rw [List.getElem?_append_left (by simp; omega)]
    simp [h, List.getElem?_drop, inside]
  · rw [List.getElem?_append_right (by simp; omega), List.getElem?_replicate, if_pos (by simp; omega)]
    simp [inside]

theorem State.windowCells_length (s : State) : s.windowCells.length = 40 := by
  unfold State.windowCells
  simp

theorem drawCursor_length (r : CursorRecord) (odd : Bool) (cells : List GlassCell) :
    (drawCursor r odd cells).length = cells.length := by
  unfold drawCursor
  split
  · exact List.length_modify _ _ _
  · rfl

theorem drawCursor_getElem? {r : CursorRecord} {odd : Bool} {cells : List GlassCell} {g : Nat} {c : GlassCell}
    (h : cells[g]? = some c) : (drawCursor r odd cells)[g]? =
      some (if g = r.cell ∧ (r.manner = .steady ∨ odd = false) then
        (match r.shape with
          | .under => { c with underline := true }
          | .block => { c with inverted := true })
      else c) := by
  unfold drawCursor
  by_cases drawn : r.manner = .steady ∨ odd = false
  · rw [if_pos drawn, List.getElem?_modify, h]
    by_cases here : g = r.cell
    · cases shape : r.shape <;> simp [here, drawn]
    · simp [here, Ne.symm here]
  · rw [if_neg drawn, h, if_neg (fun both => drawn both.2)]

theorem messageRow_shows (m : Message) : (messageRow m).length = 40
    ∧ ∀ g < 40, (messageRow m)[g]? = some
      { glyph := (m.text[g]?).bind (fun l => if l = ' ' then none else some l.toNat), underline := false,
        flash := false, inverted := false } := by
  cases m <;> decide

theorem State.indicators_eq (s : State) : s.indicators =
    (let x := s.text.settings
     let odd := s.display.blinkOdd
     let run (k : RunKind) : Bool := decide (s.text.run.map HeldRun.kind = some k)
     [decide (x.pitch = .p10), decide (x.pitch = .p12), decide (x.pitch = .p15), decide (x.pitch = .ps),
       decide (x.mode = .line), x.justify, run .center, run .flush, run .decimal, x.underline, x.bold,
       decide (x.spell = .check) || decide (x.spell = .checkStop) && odd, x.marginRelease,
       decide (s.supply.source = some .battery) && (decide (3 ≤ s.supply.battery) || odd),
       decide (s.supply.region = .warm) || decide (s.supply.region = .hot) && odd,
       decide (s.engine.state = .locked) || decide (s.engine.state = .halted) && odd]) := by
  have run (k : RunKind) : (match s.text.run with
      | some h => decide (h.kind = k)
      | none => false) = decide (s.text.run.map HeldRun.kind = some k) := by
    cases s.text.run <;> simp
  have spell : (match s.text.settings.spell with
      | .off => false
      | .check => true
      | .checkStop => s.display.blinkOdd)
      = (decide (s.text.settings.spell = .check) || decide (s.text.settings.spell = .checkStop) && s.display.blinkOdd) := by
    cases s.text.settings.spell <;> simp
  have battery : (match s.supply.source with
      | some .battery => decide (3 ≤ s.supply.battery) || s.display.blinkOdd
      | _ => false)
      = (decide (s.supply.source = some .battery) && (decide (3 ≤ s.supply.battery) || s.display.blinkOdd)) := by
    cases source : s.supply.source with
    | none => simp
    | some x => cases x <;> simp
  have region : (match s.supply.region with
      | .cool => false
      | .warm => true
      | .hot => s.display.blinkOdd)
      = (decide (s.supply.region = .warm) || decide (s.supply.region = .hot) && s.display.blinkOdd) := by
    cases s.supply.region <;> simp
  have engine : (match s.engine.state with
      | .locked => true
      | .halted => s.display.blinkOdd
      | _ => false)
      = (decide (s.engine.state = .locked) || decide (s.engine.state = .halted) && s.display.blinkOdd) := by
    cases s.engine.state <;> simp
  simp only [← run, ← spell, ← battery, ← region, ← engine]
  rfl

/-- What a composition shows of the state that it reads (R141 to R144, R147, R151). -/
theorem State.compose_shows {s : State} (wide : ∀ e ∈ s.text.work.chars, 0 < e.width)
    (distinct : (s.text.work.chars.map Entry.order).Nodup) : Shows s s.compose.1 s.compose.2 := by
  have indicators : s.compose.1.indicators = s.indicators := by
    cases phase : s.display.phase with
    | message m => rw [State.compose_message phase]
    | line => rw [State.compose_line phase]
  refine ⟨indicators.trans s.indicators_eq, ?_, _, _, _, _, s.text.walked, TextUnit.cursorAt wide s.text.walked, ?_,
    fun m phase => ?_, fun phase => ?_⟩
  · cases phase : s.display.phase with
    | message m => rw [State.compose_message phase]; exact (messageRow_shows m).1
    | line => rw [State.compose_line phase]; exact (drawCursor_length _ _ _).trans s.windowCells_length
  · exact s.compose_window
  · rw [State.compose_message phase]
    exact ⟨rfl, (messageRow_shows m).2⟩
  · rw [State.compose_line phase, s.compose_window]
    refine ⟨rfl, fun g hg => ⟨_, TextUnit.cellShows (s.windowed + g) distinct, ?_⟩⟩
    refine (drawCursor_getElem? (s.windowCells_getElem? hg)).trans ?_
    set c := (lineCells s.text.work.entries s.text.spots).getD (s.windowed + g) .blank
    have seen : c.inPhase s.display.blinkOdd
        = if c.flash && !s.display.blinkOdd then { c with glyph := none, underline := false } else c := rfl
    rw [← seen]
    have manner : s.cursorRecord.manner = .steady ↔ s.text.waiting.isSome = true := by
      unfold State.cursorRecord
      cases s.text.waiting <;> simp
    have drawn (x : GlassCell) : (match s.cursorRecord.shape with
        | .under => { x with underline := true }
        | .block => { x with inverted := true })
        = if s.text.run.isSome then { x with inverted := true } else { x with underline := true } := by
      unfold State.cursorRecord
      cases s.text.run <;> rfl
    simp only [manner]
    exact congrArg some (if_congr Iff.rfl (drawn _) rfl)

end Sys2Proof.Machine
end

section
/-! SUPPORT. The marks of the dirty image, the beginning of a composition, and the message list. -/

-- One proof after another: the check's process cannot start a thread for each.
set_option Elab.async false

namespace Sys2Proof.Machine

/-! ## The dirty mark (R146) -/

/-- What the image is marked for differs between two states. -/
def State.Changed (a b : State) : Prop :=
  a.text.work ≠ b.text.work ∨ a.text.print ≠ b.text.print ∨ a.text.pp ≠ b.text.pp
    ∨ a.text.settings ≠ b.text.settings ∨ a.text.run ≠ b.text.run ∨ a.text.waiting.isSome ≠ b.text.waiting.isSome
    ∨ a.engine.state.shown ≠ b.engine.state.shown ∨ a.supply.source ≠ b.supply.source
    ∨ ¬(a.supply.battery < 3 ↔ b.supply.battery < 3) ∨ a.supply.region ≠ b.supply.region
    ∨ a.supply.ceiling ≠ b.supply.ceiling ∨ a.display.messages ≠ b.display.messages
    ∨ a.display.blinkOdd ≠ b.display.blinkOdd ∨ a.display.phase ≠ b.display.phase

theorem dirtied_iff (a b : State) : dirtied a b = true ↔ a.Changed b := by
  simp only [dirtied, Bool.or_eq_true, decide_eq_true_iff, or_assoc, ne_eq, eq_iff_iff, State.Changed]

/-- Where the first and the last of three states differ, two neighbours do. -/
theorem State.Changed.between {a b c : State} (h : a.Changed c) : a.Changed b ∨ b.Changed c := by
  by_contra none
  simp only [State.Changed, ne_eq, not_or, not_not] at none
  obtain ⟨⟨a1, a2, a3, a4, a5, a6, a7, a8, a9, a10, a11, a12, a13, a14⟩,
    ⟨b1, b2, b3, b4, b5, b6, b7, b8, b9, b10, b11, b12, b13, b14⟩⟩ := none
  simp [State.Changed, a1, a2, a3, a4, a5, a6, a7, a8, a9, a10, a11, a12, a13, a14,
    b1, b2, b3, b4, b5, b6, b7, b8, b9, b10, b11, b12, b13, b14] at h

theorem State.markDirty_dirty (s old : State) : (s.markDirty old).display.dirty = true ↔ s.display.dirty = true ∨ old.Changed s := by
  rw [← dirtied_iff]
  exact Bool.or_eq_true_iff

/-! ## The beginning of a composition (R147, R148) -/

/-- A composition begins in the event, or at its frame start. -/
abbrev State.begins (s : State) (frame : Bool) : Prop :=
  s.display.dirty = true ∧ s.display.composer = .idle ∧ s.supply.phase = .running
    ∧ ((3 ≤ s.supply.ceiling ∧ s.supply.source ≠ some .battery) ∨ (frame = true ∧ s.display.frameCount % 4 = 0))

theorem State.mayCompose_iff (s : State) (frame : Bool) : s.mayCompose frame = true ↔
    (3 ≤ s.supply.ceiling ∧ s.supply.source ≠ some .battery) ∨ (frame = true ∧ s.display.frameCount % 4 = 0) := by
  simp only [State.mayCompose, Supply.batching, Bool.or_eq_true, Bool.and_eq_true, Bool.not_eq_true', Bool.or_eq_false_iff,
    decide_eq_false_iff_not, decide_eq_true_iff, not_le, Nat.lt_iff_add_one_le]

theorem State.beginComposition_begins {s : State} {frame : Bool} (h : s.begins frame) : s.beginComposition frame =
    { s with display := { s.display with dirty := false, composer := .composing s.compose.1, w0 := s.compose.2 } } :=
  if_pos ⟨h.1, h.2.1, h.2.2.1, (s.mayCompose_iff frame).mpr h.2.2.2⟩

theorem State.beginComposition_stands {s : State} {frame : Bool} (h : ¬s.begins frame) : s.beginComposition frame = s :=
  if_neg (fun c => h ⟨c.1, c.2.1, c.2.2.1, (s.mayCompose_iff frame).mp c.2.2.2⟩)

/-- A composition is marked for none of its own changes. -/
theorem State.beginComposition_unchanged (s : State) (frame : Bool) : ¬s.Changed (s.beginComposition frame) := by
  unfold State.beginComposition
  split <;> simp [State.Changed]

/-! ## A change in an event (R146) -/

/-- From `s` on the event has come to `t`, whose mark is set or whose composition has begun. -/
def State.Marked (s t : State) : Prop :=
  t.display.dirty = true ∨ s.display.composer = .idle ∧ ∃ image, t.display.composer = .composing image

theorem State.Marked.follows {s a t : State} (before : s.Follows a) (marked : a.display.dirty = true) (after : a.Follows t) :
    s.Marked t := by
  rcases after.glass.dirty marked with dirty | ⟨idle, begun⟩
  · exact .inl dirty
  · exact .inr ⟨before.glass.composer.elim (fun same => same ▸ idle) And.left, begun⟩

/-- A change by a part of an event is marked. -/
theorem State.marking_dirty {a : State} {f : State → State} (changed : a.Changed (a.marking f)) :
    (a.marking f).display.dirty = true := ((f a).markDirty_dirty a).mpr (.inr changed)

/-- Of the parts of an event, each following the one before, one has changed what is shown. -/
theorem State.marked_chain {s a b c d e t : State} (to_a : s.Follows a) (to_b : a.Follows b) (to_c : b.Follows c) (to_d : c.Follows d)
    (to_e : d.Follows e) (to_t : e.Follows t)
    (changed : a.display.dirty = true ∨ b.display.dirty = true ∨ c.display.dirty = true ∨ d.display.dirty = true
      ∨ e.display.dirty = true) : s.Marked t := by
  rcases changed with dirty | dirty | dirty | dirty | dirty
  · exact State.Marked.follows to_a dirty (to_b.trans (to_c.trans (to_d.trans (to_e.trans to_t))))
  · exact State.Marked.follows (to_a.trans to_b) dirty (to_c.trans (to_d.trans (to_e.trans to_t)))
  · exact State.Marked.follows (to_a.trans (to_b.trans to_c)) dirty (to_d.trans (to_e.trans to_t))
  · exact State.Marked.follows (to_a.trans (to_b.trans (to_c.trans to_d))) dirty (to_e.trans to_t)
  · exact State.Marked.follows (to_a.trans (to_b.trans (to_c.trans (to_d.trans to_e)))) dirty to_t

/-- Where two states differ, so do two neighbours of the states between them. -/
theorem State.Changed.stages {a b c d e t : State} (h : a.Changed t) (same : ¬e.Changed t) :
    a.Changed b ∨ b.Changed c ∨ c.Changed d ∨ d.Changed e := by
  rcases h.between (b := e) with h | h
  swap
  · exact absurd h same
  exact (h.between (b := b)).imp_right (fun h => (h.between (b := c)).imp_right (fun h => h.between (b := d)))

theorem State.finishIn_marked {s old : State} {frame : Bool} (h : old.Changed s ∨ s.Changed (s.finishIn old frame)) :
    s.Marked (s.finishIn old frame) := by
  refine State.marked_chain (s.markDirty_follows old) (State.marking_follows (State.correctionActs_follows _))
    (State.marking_follows (State.engineActs_follows _)) (State.marking_follows (State.correctionActs_follows _))
    (State.marking_follows (State.endWait_follows _)) (State.beginComposition_follows _ frame) ?_
  rcases h with changed | changed
  · exact .inl ((s.markDirty_dirty old).mpr (.inr changed))
  · refine .inr ?_
    have from_a : (s.markDirty old).Changed (s.finishIn old frame) := changed
    exact (from_a.stages (State.beginComposition_unchanged _ frame)).imp State.marking_dirty
      (Or.imp State.marking_dirty (Or.imp State.marking_dirty State.marking_dirty))

/-! ## The message list (R152, R153, R156) -/

/-- The faults of a list and its transients. -/
theorem filter_parts {faults transients : List Message} (high : ∀ x ∈ faults, x.isFault = true)
    (low : ∀ x ∈ transients, x.isFault = false) :
    (faults ++ transients).filter Message.isFault = faults
      ∧ (faults ++ transients).filter (fun x => !x.isFault) = transients := by
  have a : faults.filter Message.isFault = faults := List.filter_eq_self.mpr high
  have b : transients.filter Message.isFault = [] := List.filter_eq_nil_iff.mpr (fun x hx => by rw [low x hx]; decide)
  have c : faults.filter (fun x => !x.isFault) = [] := List.filter_eq_nil_iff.mpr (fun x hx => by rw [high x hx]; decide)
  have e : transients.filter (fun x => !x.isFault) = transients :=
    List.filter_eq_self.mpr (fun x hx => by rw [low x hx]; decide)
  rw [List.filter_append, List.filter_append, a, b, c, e, List.append_nil, List.nil_append]
  exact ⟨rfl, rfl⟩

theorem hasTransient_parts {faults transients : List Message} (high : ∀ x ∈ faults, x.isFault = true)
    (low : ∀ x ∈ transients, x.isFault = false) : hasTransient (faults ++ transients) = true ↔ transients ≠ [] := by
  rw [hasTransient, List.any_append, List.any_eq_false.mpr (by simpa using high), Bool.false_or, List.any_eq_true]
  constructor
  · rintro ⟨x, hx, -⟩ rfl
    cases hx
  · intro some
    obtain ⟨x, hx⟩ := List.exists_mem_of_ne_nil _ some
    exact ⟨x, hx, by rw [low x hx]; rfl⟩

/-- A new fault joins the faults. -/
theorem Display.post_fault {d : Display} {m : Message} (fault : m.isFault = true) (new : m ∉ d.standing) :
    Relisted d (m :: d.standing) (withFault d.messages m) none (d.post m) := by
  rw [Display.post, if_pos fault, if_neg (by simpa using new)]
  have relisted := d.setMessages_relisted (m :: d.standing) (withFault d.messages m) none
  rwa [Option.isSome_none, Bool.or_false] at relisted

/-- A transient joins, in place of its older copy. -/
theorem Display.post_transient {d : Display} {m : Message} (transient : m.isFault = false) :
    Relisted d d.standing (withTransient d.messages m) (if m ∈ d.messages then some m else none) (d.post m) := by
  have post : d.post m = if d.messages.contains m then
      ({ d with dirty := true } : Display).setMessages (withTransient d.messages m) (some m)
      else d.setMessages (withTransient d.messages m) none := if_neg (by rw [transient]; decide)
  rw [post]
  by_cases again : m ∈ d.messages
  · rw [if_pos (List.contains_iff_mem.mpr again), if_pos again]
    have relisted := d.setMessages_relisted d.standing (withTransient d.messages m) (some m)
    rwa [Option.isSome_some, Bool.or_true] at relisted
  · rw [if_neg (fun h => again (List.contains_iff_mem.mp h)), if_neg again]
    have relisted := d.setMessages_relisted d.standing (withTransient d.messages m) none
    rwa [Option.isSome_none, Bool.or_false] at relisted

/-- A listed fault leaves. -/
theorem Display.unpost_listed {d : Display} {m : Message} (stands : m ∈ d.standing) (listed : m ∈ d.messages) :
    Relisted d (d.standing.erase m) (withoutFault (d.standing.erase m) d.messages m) none (d.unpost m) := by
  rw [Display.unpost, if_pos (List.contains_iff_mem.mpr stands)]
  dsimp only
  rw [if_pos (List.contains_iff_mem.mpr listed)]
  have relisted := d.setMessages_relisted (d.standing.erase m) (withoutFault (d.standing.erase m) d.messages m) none
  rwa [Option.isSome_none, Bool.or_false] at relisted

/-- The messages of a list, faults before transients, and what stands. -/
structure Display.Parts (d : Display) (faults transients : List Message) : Prop where
  list : d.messages = faults ++ transients
  high : ∀ x ∈ faults ++ d.standing, x.isFault = true
  low : ∀ x ∈ transients, x.isFault = false

section
variable {d : Display} {faults transients : List Message} {m : Message}

theorem Display.Parts.highs (h : d.Parts faults transients) : ∀ x ∈ faults, x.isFault = true :=
  fun x hx => h.high x (List.mem_append_left _ hx)

theorem Display.Parts.withFault_room (h : d.Parts faults transients) (room : (faults ++ transients).length < 4) :
    withFault d.messages m = m :: faults ++ transients := by
  rw [withFault, h.list, if_pos room]
  rfl

theorem Display.Parts.withFault_full {more : List Message} {x : Message} (h : d.Parts faults transients)
    (full : 4 ≤ (faults ++ transients).length) (last : transients = more ++ [x]) :
    withFault d.messages m = m :: faults ++ more := by
  rw [withFault, h.list, if_neg (by omega),
    if_pos ((hasTransient_parts h.highs h.low).mpr (by rw [last]; simp)), last, ← List.append_assoc,
    List.dropLast_concat]
  rfl

theorem Display.Parts.withFault_faults (h : d.Parts faults transients) (full : 4 ≤ faults.length) (none : transients = []) :
    withFault d.messages m = faults := by
  rw [withFault, h.list, if_neg (by simp; omega), if_neg (fun c => (hasTransient_parts h.highs h.low).mp c none), none,
    List.append_nil]

theorem Display.Parts.withTransient_eq (h : d.Parts faults transients) (transient : m.isFault = false) :
    withTransient d.messages m =
      if (faults ++ transients.erase m).length < 4 then faults ++ m :: transients.erase m
      else if (transients.erase m).isEmpty then faults ++ transients.erase m
      else faults ++ m :: (transients.erase m).dropLast := by
  have out : m ∉ faults := fun among => by
    have := h.highs m among
    rw [transient] at this
    cases this
  obtain ⟨high, low⟩ := filter_parts (transients := transients.erase m) h.highs (fun x hx => h.low x (List.mem_of_mem_erase hx))
  rw [withTransient, h.list, List.erase_append_right _ out]
  simp only [high, low]

theorem Display.Parts.again_iff (h : d.Parts faults transients) (transient : m.isFault = false) :
    m ∈ d.messages ↔ m ∈ transients := by
  rw [h.list, List.mem_append]
  refine or_iff_right (fun among => ?_)
  have := h.highs m among
  rw [transient] at this
  cases this

theorem Display.Parts.listed_iff (h : d.Parts faults transients) (fault : m.isFault = true) : m ∈ d.messages ↔ m ∈ faults := by
  rw [h.list, List.mem_append]
  refine or_iff_left (fun among => ?_)
  have := h.low m among
  rw [fault] at this
  cases this

/-- The list less a fault holds a fault exactly where the faults less it do. -/
theorem Display.Parts.erase_contains (h : d.Parts faults transients) (listed : m ∈ faults) {f : Message}
    (stands : f ∈ d.standing) : ((d.messages.erase m).contains f = true) ↔ f ∈ faults.erase m := by
  rw [List.contains_iff_mem, h.list, List.erase_append_left _ listed, List.mem_append]
  refine or_iff_left (fun among => ?_)
  have := h.low f among
  rw [h.high f (List.mem_append_right _ stands)] at this
  cases this

theorem Display.Parts.withoutFault_alone (h : d.Parts faults transients) (listed : m ∈ faults)
    (all : ∀ f ∈ d.standing.erase m, f ∈ faults.erase m) :
    withoutFault (d.standing.erase m) d.messages m = faults.erase m ++ transients := by
  have none : (d.standing.erase m).find? (fun f => !(d.messages.erase m).contains f) = none := by
    refine List.find?_eq_none.mpr (fun f hf => ?_)
    rw [(h.erase_contains listed (List.mem_of_mem_erase hf)).mpr (all f hf)]
    decide
  simp only [withoutFault, none]
  rw [h.list, List.erase_append_left _ listed]

theorem Display.Parts.withoutFault_joined {newer older : List Message} {f : Message} (h : d.Parts faults transients)
    (listed : m ∈ faults) (split : d.standing.erase m = newer ++ f :: older) (all : ∀ x ∈ newer, x ∈ faults.erase m)
    (out : f ∉ faults.erase m) :
    withoutFault (d.standing.erase m) d.messages m =
      (d.standing.erase m).filter (fun x => decide (x ∈ faults.erase m ∨ x = f)) ++ transients := by
  have stands {x : Message} (hx : x ∈ d.standing.erase m) : x ∈ d.standing := List.mem_of_mem_erase hx
  have found : (d.standing.erase m).find? (fun f => !(d.messages.erase m).contains f) = some f := by
    rw [split, List.find?_append, List.find?_eq_none.mpr (fun x hx => ?_)]
    · have not : ¬(d.messages.erase m).contains f = true := fun c =>
        out ((h.erase_contains listed (stands (by rw [split]; simp))).mp c)
      rw [List.find?_cons_of_pos (by simpa using not)]
      rfl
    · rw [(h.erase_contains listed (stands (by rw [split]; simp [hx]))).mpr (all x hx)]
      decide
  simp only [withoutFault, found]
  congr 1
  · refine List.filter_congr (fun x hx => ?_)
    rw [Bool.eq_iff_iff, Bool.or_eq_true, h.erase_contains listed (stands hx), decide_eq_true_iff, decide_eq_true_iff]
  · rw [h.list, List.erase_append_left _ listed]
    exact (filter_parts (fun x hx => h.highs x (List.mem_of_mem_erase hx)) h.low).2

end

/-! ## The frame start and the end of a composition (R140, R147, R149, R150, R154, R155) -/

theorem Display.swap_done {d : Display} (h : d.composer = .done) :
    d.swap = { d with composer := .idle, shown := if d.shown = .a then .b else .a } := by
  unfold Display.swap
  rw [h]
  cases d.shown <;> rfl

theorem Display.swap_stands {d : Display} (h : d.composer ≠ .done) : d.swap = d := by
  unfold Display.swap
  split
  · next done => exact absurd done h
  · rfl

theorem Display.swap_eq (d : Display) : ∃ c w, d.swap = { d with composer := c, shown := w } := by
  by_cases h : d.composer = .done
  · exact ⟨_, _, Display.swap_done h⟩
  · exact ⟨_, _, Display.swap_stands h⟩

theorem Display.advanceCycle_eq (d : Display) : ∃ (p : ShowPhase) (n : Nat) (due empty : Bool) (l : List Message),
    d.advanceCycle = { d with phase := p, phaseCount := n, messageDue := due, emptySince := empty, messages := l } := by
  unfold Display.advanceCycle
  dsimp only
  split
  · split
    · exact ⟨_, _, _, _, _, rfl⟩
    · exact ⟨_, _, _, _, _, rfl⟩
  · split
    · split <;> exact ⟨_, _, _, _, _, rfl⟩
    · exact ⟨_, _, _, _, _, rfl⟩

/-- The advance of the showing cycle, phase by phase. -/
theorem Display.advanceCycle_told (d : Display) :
    (∀ m rest, d.phase = .line → d.messages = m :: rest → (d.messageDue = true ∨ 79 ≤ d.phaseCount) →
        d.advanceCycle.phase = .message m ∧ d.advanceCycle.phaseCount = 0 ∧ d.advanceCycle.messages = d.messages)
      ∧ (d.phase = .line → (d.messages = [] ∨ (d.messageDue = false ∧ d.phaseCount < 79)) →
        d.advanceCycle.phase = .line ∧ d.advanceCycle.phaseCount = d.phaseCount + 1 ∧ d.advanceCycle.messages = d.messages)
      ∧ (∀ m, d.phase = .message m → d.phaseCount < 47 →
        d.advanceCycle.phase = .message m ∧ d.advanceCycle.phaseCount = d.phaseCount + 1
          ∧ d.advanceCycle.messages = d.messages)
      ∧ (∀ m, d.phase = .message m → 47 ≤ d.phaseCount →
        d.advanceCycle.phase = .line ∧ d.advanceCycle.phaseCount = 0
          ∧ d.advanceCycle.messages = (if m.isFault then d.messages else d.messages.erase m)) := by
  have line (phase : d.phase = .line) {m : Message} {rest : List Message} (list : d.messages = m :: rest) : d.advanceCycle =
      if d.messageDue ∨ 80 ≤ d.phaseCount + 1 then ({ d with phaseCount := d.phaseCount + 1 } : Display).beginMessage m
      else { d with phaseCount := d.phaseCount + 1 } := by simp only [Display.advanceCycle, phase, list]
  have shown (m : Message) (phase : d.phase = .message m) : d.advanceCycle =
      if 48 ≤ d.phaseCount + 1 then ({ d with phaseCount := d.phaseCount + 1 } : Display).endMessage m
      else { d with phaseCount := d.phaseCount + 1 } := by simp only [Display.advanceCycle, phase]
  refine ⟨fun m rest phase list due => ?_, fun phase quiet => ?_, fun m phase short => ?_, fun m phase full => ?_⟩
  · rw [line phase list, if_pos (due.imp_right (fun h => by omega))]
    exact ⟨rfl, rfl, rfl⟩
  · cases list : d.messages with
    | nil =>
      have stays : d.advanceCycle = { d with phaseCount := d.phaseCount + 1 } := by
        simp only [Display.advanceCycle, phase, list]
      rw [stays]
      exact ⟨phase, rfl, list⟩
    | cons m rest =>
      rw [line phase list, if_neg]
      · exact ⟨phase, rfl, list⟩
      · obtain none | ⟨due, few⟩ := quiet
        · rw [list] at none; cases none
        · rw [due]; simp; omega
  · rw [shown m phase, if_neg (by omega)]
    exact ⟨phase, rfl, rfl⟩
  · rw [shown m phase, if_pos (by omega)]
    exact ⟨rfl, rfl, rfl⟩

theorem Display.frameStart_cycle (d : Display) :
    (∀ m rest, d.phase = .line → d.messages = m :: rest → (d.messageDue = true ∨ 79 ≤ d.phaseCount) →
        d.frameStart.phase = .message m ∧ d.frameStart.phaseCount = 0 ∧ d.frameStart.messages = d.messages)
      ∧ (d.phase = .line → (d.messages = [] ∨ (d.messageDue = false ∧ d.phaseCount < 79)) →
        d.frameStart.phase = .line ∧ d.frameStart.phaseCount = d.phaseCount + 1 ∧ d.frameStart.messages = d.messages)
      ∧ (∀ m, d.phase = .message m → d.phaseCount < 47 →
        d.frameStart.phase = .message m ∧ d.frameStart.phaseCount = d.phaseCount + 1 ∧ d.frameStart.messages = d.messages)
      ∧ (∀ m, d.phase = .message m → 47 ≤ d.phaseCount →
        d.frameStart.phase = .line ∧ d.frameStart.phaseCount = 0
          ∧ d.frameStart.messages = (if m.isFault then d.messages else d.messages.erase m)) := by
  obtain ⟨c, w, swapped⟩ := d.swap_eq
  have told := d.swap.advanceFrame.advanceCycle_told
  rw [swapped] at told
  rw [Display.frameStart, swapped]
  exact told

theorem Display.compositionEnd_done {d : Display} {image : Image} (h : d.composer = .composing image) :
    d.compositionEnd =
      { d with
        composer := .done, bufferA := if d.shown = .b then image else d.bufferA,
        bufferB := if d.shown = .a then image else d.bufferB } := by
  unfold Display.compositionEnd
  rw [h]
  cases d.shown <;> rfl

end Sys2Proof.Machine

open Sys2Proof Sys2Proof.Machine

/-- Settles O26. -/
theorem glassFrames : Obligations.GlassFrames := by
  refine ⟨fun s frame => ⟨State.beginComposition_stands, fun begins => ⟨_, _, State.beginComposition_begins begins,
    State.compose_shows⟩⟩, fun d faults transients m list high low => ?_, fun s live => ⟨fun phase => ?_, fun phase => ?_,
    fun image composing => ?_⟩⟩
  · have parts : d.Parts faults transients := ⟨list, high, low⟩
    refine ⟨fun fault stands => ?_, fun fault new => ⟨fun room => ?_, fun more x full last => ?_, fun full none => ?_⟩,
      fun transient => ?_, fun none => ?_, fun stands out fault => ?_, fun stands listed => ⟨fun all => ?_,
      fun newer older f split all out => ?_⟩, ?_⟩
    · rw [Display.post, if_pos fault, if_pos (List.contains_iff_mem.mpr stands)]
    · exact parts.withFault_room room ▸ Display.post_fault fault new
    · exact parts.withFault_full full last ▸ Display.post_fault fault new
    · exact parts.withFault_faults full none ▸ Display.post_fault fault new
    · intro again others
      have relisted := Display.post_transient (d := d) transient
      have same : (if m ∈ d.messages then some m else none) = again := if_congr (parts.again_iff transient) rfl rfl
      rw [same, parts.withTransient_eq transient] at relisted
      refine ⟨fun room => ?_, fun more x full last => ?_, fun full none => ?_⟩
      · rwa [if_pos room] at relisted
      · have last : transients.erase m = more ++ [x] := last
        rwa [if_neg (Nat.not_lt.mpr full), last, if_neg (by simp), List.dropLast_concat] at relisted
      · have none : transients.erase m = [] := none
        rwa [none, List.append_nil, if_neg (Nat.not_lt.mpr full), if_pos List.isEmpty_nil] at relisted
    · rw [Display.unpost, if_neg (fun c => none (List.contains_iff_mem.mp c))]
    · have unlisted : ¬d.messages.contains m = true := fun c => out ((parts.listed_iff fault).mp (List.contains_iff_mem.mp c))
      rw [Display.unpost, if_pos (List.contains_iff_mem.mpr stands)]
      exact if_neg unlisted
    · exact parts.withoutFault_alone listed all ▸ Display.unpost_listed stands (list ▸ List.mem_append_left _ listed)
    · exact parts.withoutFault_joined listed split all out ▸
        Display.unpost_listed stands (list ▸ List.mem_append_left _ listed)
    · have kept : d.messages.filter Message.isFault = faults := by rw [list, (filter_parts parts.highs low).1]
      have relisted := d.setMessages_relisted d.standing faults none
      rw [Option.isSome_none, Bool.or_false] at relisted
      rwa [Display.clearTransients, kept]
  · have steps : s.frameStart = { s with display := s.display.frameStart } :=
      if_neg (by simp [State.isDown, phase])
    obtain ⟨p, n, due, empty, l, cycle⟩ := s.display.swap.advanceFrame.advanceCycle_eq
    obtain ⟨c, shown, swapped⟩ := s.display.swap_eq
    have cycled := s.display.frameStart_cycle
    refine ⟨s.display.frameStart, ?_, ?_, ?_, ?_, ?_, ?_, fun done => ?_, fun other => ?_, cycled⟩
    · rw [← steps]
      exact congrArg Host.Outcome.next (if_pos live)
    · rw [Display.frameStart, cycle, swapped]
      rfl
    · rw [Display.frameStart, cycle, swapped]
      rfl
    · rw [Display.frameStart, cycle, swapped]
      rfl
    · rw [Display.frameStart, cycle, swapped]
      rfl
    · rw [Display.frameStart, cycle, swapped]
      rfl
    · rw [Display.frameStart, cycle, Display.swap_done done]
      exact ⟨rfl, rfl⟩
    · rw [Display.frameStart, cycle, Display.swap_stands other]
      exact ⟨rfl, rfl⟩
  · have stays : s.frameStart = s := if_pos (by simpa [State.isDown] using phase)
    exact congrArg Host.Outcome.next ((if_pos live).trans (by rw [stays]))
  · exact exec_finish live rfl (by rw [State.compositionEnd, Display.compositionEnd_done composing])

/-- Settles O4. -/
theorem followUpStill : Obligations.FollowUpStill := by
  intro s old frame shown changed
  have same : shown = EngineState.shown := funext (fun e => by cases e <;> rfl)
  have is_changed (a b : State) : changed a b ↔ a.Changed b := by simp only [changed, same, State.Changed]
  refine ⟨fun still waits => ?_, fun h => ?_⟩
  · have waited : (s.markDirty old).endWait = s.markDirty old := by
      unfold State.endWait
      rw [show (s.markDirty old).text.waiting = none from waits]
    have whole : s.finishIn old frame = (s.markDirty old).beginComposition frame := by
      rw [State.finishIn_still old frame still, State.marking_same waited]
    rw [whole]
    have is_marked : (s.markDirty old).display.dirty = true ↔ s.display.dirty = true ∨ changed old s := by
      rw [s.markDirty_dirty old, is_changed]
    by_cases begins : (s.markDirty old).begins frame
    · refine ⟨_, State.beginComposition_begins begins, rfl, ?_⟩
      intro marks begins_
      have holds : begins_ := ⟨is_marked.mp begins.1, begins.2⟩
      exact ⟨⟨fun none => (nomatch none), fun h => absurd holds h.2⟩, fun none => absurd holds none,
        fun _ => ⟨_, rfl, fun wide distinct => State.compose_shows (s := s.markDirty old) wide distinct⟩⟩
    · refine ⟨_, (State.beginComposition_stands begins).trans rfl, rfl, ?_⟩
      intro marks begins_
      have fails : ¬begins_ := fun h => begins ⟨is_marked.mpr h.1, h.2⟩
      exact ⟨is_marked.trans ⟨fun h => ⟨h, fails⟩, And.left⟩, fun _ => ⟨rfl, rfl⟩, fun h => absurd h fails⟩
  · rw [is_changed, is_changed] at h
    exact State.finishIn_marked h
end

section
/-! SUPPORT. The hold reasons, which decide between READY and HELD, and the sensors that set and clear them. -/

-- One proof after another: the check's process cannot start a thread for each.
set_option Elab.async false

namespace Sys2Proof.Machine

/-! ## A hold reason set or cleared (R56, R59) -/

/-- The engine's state under some hold reasons. -/
def State.holdState (s : State) (h : Holds) : EngineState :=
  if s.engine.state = .ready ∨ s.engine.state = .held then (if h.any then .held else .ready) else s.engine.state

/-- The line interface once the hold reasons have become these. -/
def State.holdLine (s : State) (h : Holds) : LineInterface :=
  let l := if h = s.engine.holds then s.line else s.line.askState
  if s.holdState h = s.engine.state then l else l.askState

theorem State.setHold_told (s : State) (r : HoldReason) (b : Bool) :
    s.setHold r b =
      { s with
        engine := { s.engine with holds := s.engine.holds.set r b, state := s.holdState (s.engine.holds.set r b) },
        line := s.holdLine (s.engine.holds.set r b) } := by
  unfold State.setHold State.holdLine State.holdState
  dsimp only
  split
  · simp only [State.setEngine, eq_comm]
  · simp only [eq_comm, if_true]

/-- A sensor's report at a live controller. -/
theorem exec_sensed {c : Instr} {f : State → State} {s t : State} (live : s.live) (arm : exec c s = .next (s.sensed f))
    (h : f s = t) : exec c s = .next (t.finish s) := by
  rw [arm, State.sensed_live live, h]

/-! ## The cover (R57, R71, R89) -/

theorem State.suspendHoming_some {s : State} {m : Homing} (h : s.engine.homing = some m) :
    s.suspendHoming =
      { s with
        drive := ({ s.drive with carriage := s.drive.carriage.stop, wheel := .idle } : Drive).stopDeadlines,
        engine :=
          { s.engine with
            homing := some { m with phase := if m.kind = .wheelOnly then .wheelDue else .carriageDue, interrupted := true },
            petal := if s.drive.wheel = .idle then s.engine.petal else none } } := by
  have first : m.kind.firstPhase = if m.kind = .wheelOnly then .wheelDue else .carriageDue := by cases m.kind <;> rfl
  simp only [State.suspendHoming, h, first]

theorem State.suspendHoming_none {s : State} (h : s.engine.homing = none) : s.suspendHoming = s := by
  simp only [State.suspendHoming, h]

theorem Engine.closeCover_waited {e : Engine} (h : ∀ m, e.homing = some m → m.interrupted = false) :
    e.closeCover = { e with rehome := e.rehome || e.state.takesRehome } := by
  unfold Engine.closeCover
  cases homing : e.homing with
  | none => rfl
  | some m => simp only [h m homing, Bool.false_eq_true, if_false]

theorem Engine.closeCover_interrupted {e : Engine} {m : Homing} (h : e.homing = some m) (interrupted : m.interrupted = true) :
    e.closeCover = { e with rehome := false, homing := some { m with interrupted := false } } := by
  simp only [Engine.closeCover, h, interrupted, if_true]

theorem State.holdState_takesRehome (s : State) (h : Holds) :
    (s.holdState h).takesRehome = !(decide (s.engine.state = .locked) || decide (s.engine.state = .down)) := by
  unfold State.holdState
  cases state : s.engine.state <;> cases h.any <;> simp [EngineState.takesRehome]

theorem State.coverOpens_shut {s : State} (h : s.pins.coverOpen = false) :
    s.coverOpens =
      ({ s with
        engine :=
          { s.engine with
            holds := s.engine.holds.set .cover true, state := s.holdState (s.engine.holds.set .cover true) },
        display := s.display.post .cover, pins := { s.pins with coverOpen := true },
        line := s.holdLine (s.engine.holds.set .cover true) } : State).suspendHoming := by
  rw [State.coverOpens, if_neg (by rw [h]; decide)]
  dsimp only
  rw [State.setHold_told]
  rfl

theorem State.coverCloses_open {s : State} {e : Engine} (h : s.pins.coverOpen = true)
    (closes : ({ s.engine with
      holds := s.engine.holds.set .cover false, state := s.holdState (s.engine.holds.set .cover false) } : Engine).closeCover = e) :
    s.coverCloses =
      { s with
        engine := e, display := s.display.unpost .cover, pins := { s.pins with coverOpen := false },
        line := s.holdLine (s.engine.holds.set .cover false) } := by
  rw [State.coverCloses, if_pos h, ← closes]
  dsimp only
  rw [State.setHold_told]
  rfl

end Sys2Proof.Machine

open Sys2Proof Sys2Proof.Machine

/-- Settles O60. -/
theorem sensorsHold : Obligations.SensorsHold := by
  intro s live state told gives h
  refine ⟨fun shut none => ?_, fun m shut homing => ?_, fun opened waited => ?_, fun m opened homing interrupted => ?_, ?_, ?_,
    fun spent => ?_⟩
  · exact exec_sensed live rfl ((State.coverOpens_shut shut).trans (State.suspendHoming_none none))
  · exact ⟨_, exec_sensed live rfl ((State.coverOpens_shut shut).trans (State.suspendHoming_some homing)),
      rfl, rfl, rfl, rfl, rfl, rfl, rfl, rfl, rfl, rfl, rfl⟩
  · refine exec_sensed live rfl ((State.coverCloses_open opened (Engine.closeCover_waited waited)).trans ?_)
    rw [State.holdState_takesRehome]
    rfl
  · exact exec_sensed live rfl (State.coverCloses_open opened (Engine.closeCover_interrupted homing interrupted))
  · refine exec_sensed live rfl (Eq.trans (b := (State.setHold _ _ _).post _) rfl ?_)
    rw [State.setHold_told]
    rfl
  · refine exec_sensed live rfl (Eq.trans (b := (State.setHold _ _ _).unpost _) rfl ?_)
    rw [State.setHold_told]
    rfl
  · exact exec_sensed live rfl rfl
end

section
/-! SUPPORT. A supply report that is taken while RUNNING. -/

-- One proof after another: the check's process cannot start a thread for each.
set_option Elab.async false

namespace Sys2Proof.Machine

/-! ## The ceiling and LOW (R195, R197) -/

/-- Asks for a STATE, if it is to be asked for. -/
def LineInterface.askedIf (b : Bool) (l : LineInterface) : LineInterface := if b then l.askState else l

theorem LineInterface.askedIf_eq {p : Prop} [Decidable p] (l : LineInterface) :
    (if p then l else l.askState) = LineInterface.askedIf (decide ¬p) l := by
  unfold LineInterface.askedIf
  by_cases h : p <;> simp [h]

@[simp] theorem LineInterface.askedIf_roster (b : Bool) (l : LineInterface) : (l.askedIf b).roster = l.roster := by
  unfold LineInterface.askedIf
  split <;> simp

/-- The figures of a report are taken, but for its sag mark and LOW. -/
def State.reported (s : State) (src : PowerSource) (level limit c : Nat) (sag : Bool) : State :=
  { s with
    supply := { s.supply with ceiling := c, limit := limit, source := some src, battery := level, sagRunning := sag },
    line := s.line.askedIf (decide (c ≠ s.supply.ceiling)),
    display :=
      { s.display with
        dirty := s.display.dirty || decide (s.supply.source ≠ some src) || decide (s.supply.ceiling ≠ c)
          || decide (s.supply.battery < 3) != decide (level < 3) } }

theorem dirtied_reported (s : State) (src : PowerSource) (level limit c : Nat) (sag : Bool) (l : LineInterface) :
    dirtied s { s with
      supply := { s.supply with ceiling := c, limit := limit, source := some src, battery := level, sagRunning := sag }, line := l }
      = (decide (s.supply.source ≠ some src) || decide (s.supply.ceiling ≠ c)
          || decide (s.supply.battery < 3) != decide (level < 3)) := by
  rw [Bool.eq_iff_iff, dirtied_iff]
  simp only [State.Changed, ne_eq, not_true_eq_false, false_or, or_false, Bool.or_eq_true, decide_eq_true_iff, bne_iff_ne,
    decide_eq_decide]
  tauto

/-- What a report takes away for its sag mark (R195). -/
def sagged (sag : Bool) (c : Nat) : Nat := if sag = true ∧ 1 < c then c - 1 else c

theorem State.setCeiling_told (s : State) (n : Nat) : s.setCeiling n =
    { s with supply := { s.supply with ceiling := n }, line := s.line.askedIf (decide (n ≠ s.supply.ceiling)) } := by
  rw [State.setCeiling, LineInterface.askedIf_eq]
  simp only [ne_eq, eq_comm]

theorem State.takeReport_told (s : State) (src : PowerSource) (level : Nat) (sag : Bool) :
    let c := (s.supply.newCeiling src (sourceLimit src level)).1
    let u := s.reported src level (sourceLimit src level) c
      (s.supply.sagRunning || (s.supply.newCeiling src (sourceLimit src level)).2 || sag)
    s.takeReport src level sag =
      State.setLow
        { u with
          supply := { u.supply with ceiling := sagged sag c },
          line := u.line.askedIf (decide (sagged sag c ≠ c)) }
        (decide (src = .battery) && decide (level = 0)) := by
  intro c u
  have first : State.markDirty
      { s.setCeiling c with
        supply :=
          { (s.setCeiling c).supply with
            limit := sourceLimit src level, source := some src, battery := level,
            sagRunning := s.supply.sagRunning || (s.supply.newCeiling src (sourceLimit src level)).2 || sag } } s = u := by
    rw [State.setCeiling_told, State.markDirty, dirtied_reported, ← Bool.or_assoc, ← Bool.or_assoc]
    rfl
  have whole : s.takeReport src level sag =
      (if sag then u.setCeiling (if c ≤ 1 then c else c - 1) else u).setLow (decide (src = .battery) && decide (level = 0)) := by
    rw [← first]
    rfl
  rw [whole]
  congr 1
  cases sag with
  | false =>
    have none : sagged false c = c := if_neg (fun h => Bool.false_ne_true h.1)
    rw [none, if_neg Bool.false_ne_true]
    simp [LineInterface.askedIf]
    rfl
  | true =>
    have falls : (if c ≤ 1 then c else c - 1) = sagged true c := by
      unfold sagged
      by_cases low : c ≤ 1
      · rw [if_pos low, if_neg (by omega)]
      · rw [if_neg low, if_pos ⟨rfl, by omega⟩]
    rw [if_pos rfl, falls]
    exact u.setCeiling_told _

/-- LOW becomes what a report says (R197). -/
theorem State.setLow_told {s : State} (on : Bool) (agrees : s.engine.holds.low = s.supply.low) :
    s.setLow on =
      { s with
        supply := { s.supply with low := on },
        engine :=
          { s.engine with
            holds := { s.engine.holds with low := on },
            state := if s.supply.low = on then s.engine.state else s.holdState { s.engine.holds with low := on } },
        display := if s.supply.low = on then s.display else if on then s.display.post .low else s.display.unpost .low,
        line := if s.supply.low = on then s.line else s.holdLine { s.engine.holds with low := on } } := by
  unfold State.setLow
  by_cases same : s.supply.low = on
  · have stands : ({ s.engine.holds with low := on } : Holds) = s.engine.holds := by rw [← same, ← agrees]
    rw [stands, if_pos same, if_pos same, if_pos same, if_pos same, ← same]
  · simp only [if_neg same]
    rw [State.setHold_told]
    cases on <;> rfl

/-- Where the line interface has been asked for the change of LOW and of the state that it brings. -/
theorem State.holdLine_low {s : State} {on : Bool} (agrees : s.engine.holds.low = s.supply.low) :
    (if s.supply.low = on then s.line else s.holdLine { s.engine.holds with low := on }) =
      LineInterface.askedIf
        (decide ((if s.supply.low = on then s.engine.state else s.holdState { s.engine.holds with low := on }) ≠ s.engine.state))
        (s.line.askedIf (decide ¬s.supply.low = on)) := by
  by_cases same : s.supply.low = on
  · simp [same, LineInterface.askedIf]
  · have changes : ({ s.engine.holds with low := on } : Holds) ≠ s.engine.holds := by
      intro e
      have low : on = s.engine.holds.low := congrArg Holds.low e
      exact same (by rw [low, agrees])
    rw [if_neg same, if_neg same, State.holdLine, if_neg changes, LineInterface.askedIf_eq]
    simp [same, LineInterface.askedIf]

theorem State.lowState_eq (s : State) (on : Bool) (h : Holds) :
    (if s.supply.low = on then s.engine.state else s.holdState h) =
      if s.supply.low = on ∨ (s.engine.state ≠ .ready ∧ s.engine.state ≠ .held) then s.engine.state
      else if h.cover || h.ribbon || h.wheel || h.low || h.heat then .held else .ready := by
  unfold State.holdState
  by_cases still : s.supply.low = on
  · rw [if_pos still, if_pos (.inl still)]
  · rw [if_neg still]
    by_cases idle : s.engine.state = .ready ∨ s.engine.state = .held
    · have not : ¬(s.supply.low = on ∨ (s.engine.state ≠ .ready ∧ s.engine.state ≠ .held)) := fun c =>
        c.elim still (fun c => idle.elim c.1 c.2)
      rw [if_pos idle, if_neg not]
      rfl
    · rw [if_neg idle, if_pos (.inr (not_or.mp idle))]

/-- A report that is taken while RUNNING (R195, R197). -/
theorem State.takeReport_eq {s : State} {src : PowerSource} {level limit c : Nat} {sag on : Bool}
    (agrees : s.engine.holds.low = s.supply.low) (is_limit : sourceLimit src level = limit)
    (is_c : (s.supply.newCeiling src limit).1 = c) (is_on : (decide (src = .battery) && decide (level = 0)) = on) :
    let state := if s.supply.low = on then s.engine.state else s.holdState { s.engine.holds with low := on }
    let shown : Display :=
      { s.display with
        dirty := s.display.dirty || decide (s.supply.source ≠ some src) || decide (s.supply.ceiling ≠ c)
          || decide (s.supply.battery < 3) != decide (level < 3) }
    s.takeReport src level sag =
      { s with
        supply :=
          { s.supply with
            ceiling := sagged sag c, limit := limit, source := some src, battery := level,
            sagRunning := s.supply.sagRunning || (s.supply.newCeiling src limit).2 || sag, low := on },
        engine := { s.engine with holds := { s.engine.holds with low := on }, state := state },
        display := if s.supply.low = on then shown else if on then shown.post .low else shown.unpost .low,
        line := LineInterface.askedIf (decide (state ≠ s.engine.state)) (LineInterface.askedIf (decide ¬s.supply.low = on)
          (LineInterface.askedIf (decide (sagged sag c ≠ c)) (s.line.askedIf (decide (c ≠ s.supply.ceiling))))) } := by
  intro state shown
  have told := s.takeReport_told src level sag
  rw [is_limit, is_c, is_on] at told
  let u := s.reported src level limit c (s.supply.sagRunning || (s.supply.newCeiling src limit).2 || sag)
  let v : State :=
    { u with supply := { u.supply with ceiling := sagged sag c }, line := u.line.askedIf (decide (sagged sag c ≠ c)) }
  have low := State.setLow_told (s := v) on agrees
  rw [State.holdLine_low (s := v) agrees] at low
  exact told.trans low

/-! ## The report as a frame (R180, R192) -/

/-- The supply frame as the report meets the controller: the frame end, the time, the silence timer, and the roster's mark. -/
def State.supplyHeard (s : State) (time : Nat) : State :=
  { s with
    clock := max s.clock time,
    line :=
      { s.line with
        receiver := .waiting, silenceRunning := true, roster := (((s.frameEnd).atTime time).markPresent .power).line.roster } }

theorem State.takeSupply_running {s : State} (r : Byte) (time : Nat) (rostered : s.line.rostered .power = true)
    (phase : s.supply.phase = .running) :
    s.takeSupply r time = (s.supplyHeard time).takeReport (reportSource r) (reportLevel r) (reportSag r) := by
  have up : s.isDown = false := by simp [State.isDown, phase]
  rw [State.takeSupply, if_pos rostered]
  dsimp only
  rw [up, if_neg Bool.false_ne_true]
  congr 1
  have marked := ((s.frameEnd).atTime time).markPresent_eq .power
  rw [marked, State.supplyHeard]
  have line : { (((s.frameEnd).atTime time).markPresent .power).line with silenceRunning := true } =
      { s.line with
        receiver := .waiting, silenceRunning := true,
        roster := (((s.frameEnd).atTime time).markPresent .power).line.roster } := by
    unfold State.markPresent
    split
    · split <;> rfl
    · rfl
  rw [← line]
  rfl

theorem sourceLimit_eq (src : PowerSource) (level : Nat) :
    sourceLimit src level = if src = .adapter then 4 else if 6 ≤ level then 3 else if 3 ≤ level then 2 else 1 := by
  cases src <;> rfl

theorem Supply.newCeiling_eq (u : Supply) (src : PowerSource) (limit : Nat) :
    (u.newCeiling src limit).1 =
        (if u.source ≠ some src then limit else if limit < u.limit then min u.ceiling limit else u.ceiling)
      ∧ ((u.newCeiling src limit).2 = true ↔ u.source = some src ∧ u.limit < limit) := by
  unfold Supply.newCeiling
  by_cases source : u.source = some src
  · rw [if_neg (not_not.mpr source), if_neg (not_not.mpr source)]
    by_cases falls : limit < u.limit
    · rw [if_pos falls, if_pos falls]
      exact ⟨rfl, fun h => absurd h Bool.false_ne_true, fun h => absurd h.2 (by omega)⟩
    · rw [if_neg falls, if_neg falls]
      exact ⟨rfl, by simp [source]⟩
  · rw [if_pos source, if_pos source]
    exact ⟨rfl, fun h => absurd h Bool.false_ne_true, fun h => absurd h.1 source⟩

end Sys2Proof.Machine

open Sys2Proof Sys2Proof.Machine

/-- Settles O22. -/
theorem supplyReport : Obligations.SupplyReport := by
  intro s r time live rostered phase agrees
  have report := State.takeReport_eq (s := s.supplyHeard time) (sag := reportSag r) agrees
    (sourceLimit_eq (reportSource r) (reportLevel r)) (Supply.newCeiling_eq _ _ _).1 (Bool.decide_and _ _).symm
  refine ⟨_, exec_finish live rfl ((State.takeSupply_running r time rostered phase).trans report), ?_⟩
  intro src level limit c climbs
  have is_climbs : (s.supply.newCeiling src limit).2 = true ↔ climbs := (s.supply.newCeiling_eq src limit).2
  refine ⟨rfl, rfl, rfl, rfl, ?_, rfl, rfl, rfl, phase, ?_, ?_⟩
  · rw [← is_climbs, ← or_assoc, ← Bool.or_eq_true, ← Bool.or_eq_true]
    rfl
  · intro same h asked heard shown
    have roster (a b e f : Bool) (l : LineInterface) :
        (LineInterface.askedIf a (LineInterface.askedIf b (LineInterface.askedIf e (LineInterface.askedIf f l)))).roster = l.roster := by
      simp only [LineInterface.askedIf_roster]
    refine ⟨rfl, ?_, rfl, ?_⟩
    · exact (s.supplyHeard time).lowState_eq _ _
    · simp only [heard, roster]
      rfl
  · rfl
end

section
/-! SUPPORT. The restart pin, the loss of power, and the start sequence. -/

-- One proof after another: the check's process cannot start a thread for each.
set_option Elab.async false

namespace Sys2Proof.Machine

/-! ## Retained memory that is cut (R201, R203) -/

theorem State.cutRetained_eq (s : State) (p : SavePoint) :
    s.cutRetained p =
      { (if s.supply.phase = .saving ∧ s.supply.saveBegun = true then s.cutSave p else s.retained) with
        words := if s.spell.writing = none then s.retained.words else cutRecord } := by
  have words : (if s.supply.phase = .saving ∧ s.supply.saveBegun = true then s.cutSave p else s.retained).words
      = s.retained.words := by
    unfold State.cutSave
    split
    · split <;> rfl
    · rfl
  unfold State.cutRetained
  dsimp only
  cases writing : s.spell.writing with
  | none =>
    simp only [Option.isSome_none, Bool.false_eq_true, if_false, if_true, ← words]
  | some b => simp

/-- A record whose write was cut is none that its check takes. -/
theorem cutRecord_invalid : parseSettings cutRecord = none ∧ parseWords cutRecord = none ∧ parseSavedLine cutRecord = none := by
  decide

theorem markNames_cutRecord (line : List Byte) : markNames cutRecord line = false := by
  simp [markNames, recordOk, cutRecord, byteAt]

/-- A save that is cut in DIRECT mode, or before the saved line is begun, has written the settings record at most. -/
theorem State.cutSave_first {s : State} {p : SavePoint} (next : p ≠ .settingsNext) (record : p ≠ .settingsRecord)
    (early : s.text.settings.mode = .direct ∨ p = .lineNext) : s.cutSave p = { s.retained with settings := s.settingsRecord } := by
  unfold State.cutSave
  rcases early with mode | rfl
  · rw [mode]
    cases p <;> first | rfl | exact absurd rfl next | exact absurd rfl record
  · cases s.text.settings.mode <;> rfl

theorem State.cutSave_settings {s : State} {p : SavePoint} (next : p ≠ .settingsNext) (record : p ≠ .settingsRecord) :
    (s.cutSave p).settings = s.settingsRecord := by
  unfold State.cutSave
  cases p <;> cases s.text.settings.mode <;> first | rfl | exact absurd rfl next | exact absurd rfl record

theorem State.cutSave_line {s : State} (mode : s.text.settings.mode = .line) :
    s.cutSave .savedLine = { s.retained with settings := s.settingsRecord, savedLine := cutRecord }
      ∧ s.cutSave .markNext = { s.retained with settings := s.settingsRecord, savedLine := s.savedLineRecord }
      ∧ s.cutSave .savedMark =
        { s.retained with
          settings := s.settingsRecord, savedLine := s.savedLineRecord,
          savedMark := if s.savedEntries.isEmpty then s.retained.savedMark else cutRecord } := by
  simp only [State.cutSave, mode]
  exact ⟨trivial, trivial, trivial⟩

end Sys2Proof.Machine

open Sys2Proof Sys2Proof.Machine

/-- Settles O19. -/
theorem restartAndPowerLoss : Obligations.RestartAndPowerLoss := by
  intro s p left
  have is_left : left (s.cutRetained p) := by
    rw [State.cutRetained_eq]
    refine ⟨fun none => if_pos none, fun writing => ?_, fun not => ?_, fun saving at_ => ?_, fun saving at_ => ?_,
      fun saving next record => ⟨?_, fun early => ?_, fun line at_ => ?_, fun line at_ => ?_, fun line at_ => ?_⟩⟩
    · rw [if_neg writing]
      exact cutRecord_invalid.2.1
    · rw [if_neg not]
      exact ⟨rfl, rfl, rfl⟩
    all_goals rw [if_pos saving]
    · rw [at_]
      exact ⟨cutRecord_invalid.1, rfl, rfl⟩
    · rw [at_]
      exact ⟨rfl, rfl, rfl⟩
    · exact State.cutSave_settings next record
    · rw [State.cutSave_first next record early]
      exact ⟨rfl, rfl⟩
    · rw [at_, (State.cutSave_line line).1]
      exact ⟨cutRecord_invalid.2.2, rfl⟩
    · rw [at_, (State.cutSave_line line).2.1]
      exact ⟨rfl, rfl⟩
    · rw [at_, (State.cutSave_line line).2.2]
      exact ⟨rfl, fun none => if_pos (List.isEmpty_iff.mpr none), fun some line =>
        (congrArg (markNames · line) (if_neg (fun h => some (List.isEmpty_iff.mp h)))).trans (markNames_cutRecord line)⟩
  refine ⟨⟨_, rfl, is_left⟩, fun powered => ⟨_, ?_, is_left⟩⟩
  exact congrArg Host.Outcome.next (if_pos powered)
end

section
/-! SUPPORT. The start sequence. -/

-- One proof after another: the check's process cannot start a thread for each.
set_option Elab.async false

namespace Sys2Proof.Machine

/-! ## A restored line (R205) -/

theorem numberFrom_eq (n : Nat) (l : List Entry) : numberFrom n l = l.zipIdx.map (fun q => { q.1 with order := n + q.2 }) := by
  induction l generalizing n with
  | nil => rfl
  | cons e es ih =>
    rw [numberFrom, ih, List.zipIdx_cons', List.map_cons, List.map_map]
    refine congrArg _ (List.map_congr_left (fun q _ => ?_))
    rw [Nat.add_assoc, Nat.add_comm 1]
    rfl

theorem readEntry_fresh {l : List Byte} {i : Nat} {x : Entry × Nat} (h : readEntry l i = some x) :
    x.1.state = .pending ∧ x.1.wheel = none ∧ x.1.mark = .plain := by
  unfold readEntry at h
  dsimp only at h
  split at h
  · cases h
  · split at h
    · cases h
      exact ⟨rfl, rfl, rfl⟩
    · cases h

theorem readEntries_fresh {l : List Byte} {i n : Nat} {es : List (Entry × Nat)} (h : readEntries l i n = some es) :
    ∀ x ∈ es, x.1.state = .pending ∧ x.1.wheel = none ∧ x.1.mark = .plain := by
  induction n generalizing i es with
  | zero => cases h; simp
  | succ n ih =>
    rw [readEntries] at h
    split at h
    · next e more first rest =>
      cases h
      intro x hx
      rcases List.mem_cons.mp hx with rfl | hx
      · exact readEntry_fresh first
      · exact ih rest x hx
    · cases h

theorem restorable_fresh {r : Retained} {l : List (Entry × Nat)} (h : r.restorable = some l) :
    ∀ x ∈ l, x.1.state = .pending ∧ x.1.wheel = none ∧ x.1.mark = .plain := by
  unfold Retained.restorable at h
  split at h
  · unfold parseSavedLine at h
    dsimp only at h
    split at h
    · split at h
      · next es read =>
        split at h
        · cases h
          exact readEntries_fresh read
        · cases h
      · cases h
    · cases h
  · cases h

/-- The entries of a saved line by name, as they stand in it. -/
def namedEntries (l : List (Entry × Nat)) : List Entry :=
  l.zipIdx.map (fun q =>
    { q.1.1 with id := q.2, owner := if q.1.1.isChar then none else some q.1.2, order := q.2 })

theorem restoredEntries_zero (l : List (Entry × Nat)) : restoredEntries 0 l = numberFrom 0 (sortEntries (namedEntries l)) := by
  simp only [restoredEntries, namedEntries, Nat.zero_add]

theorem restoredEntries_length (l : List (Entry × Nat)) : (restoredEntries 0 l).length = l.length := by
  rw [restoredEntries_zero, numberFrom_eq, List.length_map, List.length_zipIdx, (perm_sortEntries _).length_eq, namedEntries,
    List.length_map, List.length_zipIdx]

/-- The order of a record as an order of numbers. -/
theorem Entry.before_iff (a b : Entry) : a.before b = true ↔ a.pos < b.pos ∨ a.pos = b.pos ∧ a.order < b.order := by
  simp only [Entry.before, Bool.or_eq_true, Bool.and_eq_true, decide_eq_true_iff]

theorem ordered_insertEntry {e : Entry} {l : List Entry} (h : l.Pairwise (fun a b => ¬b.before a = true)) :
    (insertEntry e l).Pairwise (fun a b => ¬b.before a = true) := by
  induction l with
  | nil => exact List.pairwise_singleton _ _
  | cons x xs ih =>
    obtain ⟨first, tail⟩ := List.pairwise_cons.mp h
    simp only [Entry.before_iff] at first
    rw [insertEntry]
    split
    · next before =>
      rw [Entry.before_iff] at before
      refine List.pairwise_cons.mpr ⟨fun y hy => ?_, h⟩
      rw [Entry.before_iff]
      rcases List.mem_cons.mp hy with rfl | hy
      · omega
      · have := first y hy
        omega
    · next not =>
      rw [Entry.before_iff] at not
      refine List.pairwise_cons.mpr ⟨fun y hy => ?_, ih tail⟩
      rw [Entry.before_iff]
      rcases (mem_insertEntry _ _ _).mp hy with rfl | hy
      · exact not
      · exact first y hy

theorem ordered_sortEntries (l : List Entry) : (sortEntries l).Pairwise (fun a b => ¬b.before a = true) := by
  suffices h : ∀ (l acc : List Entry), acc.Pairwise (fun a b => ¬b.before a = true) →
      (l.foldl (fun acc e => insertEntry e acc) acc).Pairwise (fun a b => ¬b.before a = true) from h l [] List.Pairwise.nil
  intro l
  induction l with
  | nil => exact fun _ h => h
  | cons e es ih => exact fun acc h => ih _ (ordered_insertEntry h)

theorem namedEntries_getElem? (l : List (Entry × Nat)) (i : Nat) : (namedEntries l)[i]? =
    l[i]?.map (fun x => { x.1 with id := i, owner := if x.1.isChar then none else some x.2, order := i }) := by
  rw [namedEntries, List.getElem?_map, List.getElem?_zipIdx, Option.map_map]
  simp only [Nat.zero_add]
  rfl

theorem namedEntries_order {l : List (Entry × Nat)} {e : Entry} (h : e ∈ namedEntries l) : e.order = e.id := by
  obtain ⟨q, -, rfl⟩ := List.mem_map.mp h
  rfl

theorem namedEntries_nodup (l : List (Entry × Nat)) : (namedEntries l).Pairwise (fun a b => a.id ≠ b.id) := by
  rw [← List.pairwise_map (f := Entry.id) (R := (· ≠ ·)), namedEntries, List.map_map]
  have ids : (l.zipIdx.map (Entry.id ∘ fun q =>
      ({ q.1.1 with id := q.2, owner := if q.1.1.isChar then none else some q.1.2, order := q.2 } : Entry)))
      = List.range' 0 l.length := List.zipIdx_map_snd 0 l
  rw [ids]
  exact List.nodup_range'

/-- The restored entries stand in position order, and at one position as they stand in the saved line. -/
theorem restoredEntries_ordered (l : List (Entry × Nat)) :
    (restoredEntries 0 l).Pairwise (fun a b => a.pos < b.pos ∨ (a.pos = b.pos ∧ a.id < b.id)) := by
  rw [restoredEntries_zero, numberFrom_eq, List.pairwise_map]
  have sorted : (sortEntries (namedEntries l)).Pairwise (fun a b => a.pos < b.pos ∨ (a.pos = b.pos ∧ a.id < b.id)) := by
    have own := (perm_sortEntries (namedEntries l)).symm.pairwise (namedEntries_nodup l) Ne.symm
    refine List.Pairwise.imp_of_mem ?_ ((ordered_sortEntries (namedEntries l)).and own)
    rintro a b ha hb ⟨after, other⟩
    have oa := namedEntries_order ((perm_sortEntries _).mem_iff.mp ha)
    have ob := namedEntries_order ((perm_sortEntries _).mem_iff.mp hb)
    rw [Entry.before_iff] at after
    omega
  exact (List.pairwise_map (f := Prod.fst)).mp (by rwa [List.zipIdx_map_fst 0])

theorem restoredEntries_number {l : List (Entry × Nat)} {i : Nat} {e : Entry} (h : (restoredEntries 0 l)[i]? = some e) :
    e.order = i := by
  rw [restoredEntries_zero, numberFrom_eq, List.getElem?_map, List.getElem?_zipIdx, Option.map_map] at h
  obtain ⟨x, -, rfl⟩ := Option.map_eq_some_iff.mp h
  simp

theorem restoredEntries_stands {l : List (Entry × Nat)} {i : Nat} {x : Entry} {k : Nat} (h : l[i]? = some (x, k))
    (fresh : x.state = .pending ∧ x.wheel = none ∧ x.mark = .plain) :
    ∃ e ∈ restoredEntries 0 l,
      e = { x with
          id := i, owner := if x.kind = .character then none else some k, state := .pending, wheel := none,
          mark := .plain, order := e.order } := by
  have named : (namedEntries l)[i]? =
      some { x with id := i, owner := if x.isChar then none else some k, order := i } := by
    rw [namedEntries_getElem?, h]
    rfl
  have among := (perm_sortEntries _).mem_iff.mpr (List.mem_of_getElem? named)
  obtain ⟨j, hj⟩ := List.mem_iff_getElem?.mp among
  have numbered : (restoredEntries 0 l)[j]? =
      some { x with id := i, owner := if x.isChar then none else some k, order := 0 + j } := by
    rw [restoredEntries_zero, numberFrom_eq, List.getElem?_map, List.getElem?_zipIdx, hj]
    simp
  refine ⟨_, List.mem_of_getElem? numbered, ?_⟩
  obtain ⟨state, wheel, mark⟩ := fresh
  rw [← state, ← wheel, ← mark]
  by_cases character : x.kind = .character
  · simp [Entry.isChar, character]
  · simp [Entry.isChar, character]

/-! ## The text unit after a start -/

/-- The settings and the wheel code that the settings record gives, or the defaults. -/
def State.startSettings (s : State) : Settings × Option Nat :=
  match parseSettings s.retained.settings with
  | some x => x
  | none => (Settings.defaults, none)

/-- The text unit after the checks of retained memory. -/
def State.startText (s : State) : TextUnit :=
  let t : TextUnit :=
    { State.reset.text with
      settings := s.startSettings.1, previousWheel := s.startSettings.2, pp := s.startSettings.1.lm }
  match s.retained.restorable with
  | none => t
  | some l =>
    { t with
      work := { entries := restoredEntries 0 l, counter := (restoredEntries 0 l).length },
      settings := { t.settings with mode := .line },
      pp := greatestEnd t.settings.lm ((restoredEntries 0 l).filter Entry.isChar) }

/-- The entry names given out by a start. -/
def State.startIds (s : State) : Nat :=
  match s.retained.restorable with
  | none => 0
  | some l => (restoredEntries 0 l).length

theorem State.startText_started (s : State) : StartedText s s.startText s.startIds := by
  unfold StartedText State.startText State.startIds State.startSettings
  cases restorable : s.retained.restorable with
  | none => cases parseSettings s.retained.settings <;> exact ⟨rfl, rfl⟩
  | some l =>
    have fresh := restorable_fresh restorable
    refine ⟨restoredEntries_length l, restoredEntries 0 l,
      greatestEnd s.startSettings.1.lm ((restoredEntries 0 l).filter Entry.isChar), ?_, restoredEntries_length l,
      fun i x k h => restoredEntries_stands h (fresh _ (List.mem_of_getElem? h)), fun i e h => restoredEntries_number h,
      restoredEntries_ordered l, fun e he kind => le_greatestEnd (List.mem_filter.mpr ⟨he, decide_eq_true kind⟩), ?_⟩
    · unfold State.startSettings
      rw [← restoredEntries_length l]
      cases parseSettings s.retained.settings <;> rfl
    · cases chars : (restoredEntries 0 l).filter Entry.isChar with
      | nil =>
        refine .inr ⟨fun e he kind => ?_, ?_⟩
        · have := List.filter_eq_nil_iff.mp chars e he
          exact this (decide_eq_true kind)
        · unfold State.startSettings
          cases parseSettings s.retained.settings <;> rfl
      | cons c cs =>
        obtain ⟨e, he, ends⟩ := greatestEnd_mem (d := s.startSettings.1.lm) (List.cons_ne_nil c cs)
        rw [← chars] at he
        obtain ⟨he, kind⟩ := List.mem_filter.mp he
        exact .inl ⟨e, he, of_decide_eq_true kind, ends⟩

/-! ## The steps of the start (R205) -/

/-- The display unit after the posts of a start: START and the sensors' faults, then what the checks of retained memory post. -/
def startDisplay (cover ribbon lost restored : Bool) : Display :=
  let d := State.reset.display.post .start
  let d := if cover then d.post .cover else d
  let d := if ribbon then d.post .ribbon else d
  let d := if lost then d.post .listLost else d
  if restored then d.post .restored else d

theorem startDisplay_eq (cover ribbon lost restored : Bool) :
    let faults : List Message := (if ribbon then [.ribbon] else []) ++ (if cover then [.cover] else []) ++ [.start]
    let transients : List Message := (if restored then [.restored] else []) ++ (if lost then [.listLost] else [])
    startDisplay cover ribbon lost restored =
      { State.reset.display with
        messages := faults ++ transients.take (4 - faults.length), standing := faults, messageDue := true,
        emptySince := false } := by
  cases cover <;> cases ribbon <;> cases lost <;> cases restored <;> rfl

/-- The state after the start sequence, before what follows it. -/
def State.begun (s : State) : State :=
  { State.reset with
    pending := s.pending, clock := s.clock, pins := s.pins, nextId := s.startIds, text := s.startText,
    retained :=
      { s.retained with
        words := if (parseWords s.retained.words).isSome then s.retained.words else encodeWords [], savedMark := clearMark },
    spell := { State.reset.spell with userList := (parseWords s.retained.words).getD [] },
    engine :=
      { State.reset.engine with
        state := .homing, tapeSpent := s.pins.tapeSpent,
        holds := { cover := s.pins.coverOpen, ribbon := s.pins.ribbonSpent, wheel := false, low := false, heat := false },
        homing := some { kind := .start, phase := .carriageDue } },
    display :=
      startDisplay s.pins.coverOpen s.pins.ribbonSpent (parseWords s.retained.words).isNone s.retained.restorable.isSome,
    line :=
      { State.reset.line with
        station := s.pins.straps % 8, stamp := 2,
        places := [{ kind := .rollCall, stamp := 0, losses := 0 }, { kind := .state, stamp := 1, losses := 0 }] } }

theorem State.readPins_start (s : State) : s.startValues.readPins =
    { s.startValues with
      line := { State.reset.line with station := s.pins.straps % 8 },
      engine :=
        { State.reset.engine with
          holds := { cover := s.pins.coverOpen, ribbon := s.pins.ribbonSpent, wheel := false, low := false, heat := false },
          tapeSpent := s.pins.tapeSpent },
      display := startDisplay s.pins.coverOpen s.pins.ribbonSpent false false } := by
  have pins : s.startValues.pins = s.pins := rfl
  unfold State.readPins
  simp only [pins]
  cases s.pins.coverOpen <;> cases s.pins.ribbonSpent <;> rfl

theorem State.checkSettings_start {u : State} (h : u.text = State.reset.text) : u.checkSettings =
    { u with
      text :=
        { State.reset.text with
          settings := u.startSettings.1, previousWheel := u.startSettings.2, pp := u.startSettings.1.lm } } := by
  unfold State.checkSettings State.startSettings
  cases parseSettings u.retained.settings with
  | none => exact (congrArg (fun t => { u with text := t }) h).trans rfl
  | some x => rw [h]

theorem State.checkWords_start {u : State} (h : u.spell = State.reset.spell) : u.checkWords =
    { u with
      spell := { State.reset.spell with userList := (parseWords u.retained.words).getD [] },
      retained :=
        { u.retained with words := if (parseWords u.retained.words).isSome then u.retained.words else encodeWords [] },
      display := if (parseWords u.retained.words).isNone then u.display.post .listLost else u.display } := by
  unfold State.checkWords
  cases parseWords u.retained.words with
  | none => exact (congrArg (fun sp => ({ u with
      spell := sp, retained := { u.retained with words := encodeWords [] }, display := u.display.post .listLost } : State)) h).trans rfl
  | some ws => rw [h]; rfl

/-- The text unit with a restored line, or without one. -/
def TextUnit.restoring (t : TextUnit) (restorable : Option (List (Entry × Nat))) : TextUnit :=
  match restorable with
  | none => t
  | some l =>
    { t with
      work := { entries := restoredEntries 0 l, counter := (restoredEntries 0 l).length },
      settings := { t.settings with mode := .line },
      pp := greatestEnd t.settings.lm ((restoredEntries 0 l).filter Entry.isChar) }

theorem State.checkLine_start {u : State} (h : u.nextId = 0) : u.checkLine =
    { u with
      nextId := u.startIds, text := u.text.restoring u.retained.restorable,
      retained := { u.retained with savedMark := clearMark },
      display := if u.retained.restorable.isSome then u.display.post .restored else u.display } := by
  unfold State.checkLine State.startIds TextUnit.restoring
  cases restorable : u.retained.restorable with
  | none => exact (congrArg (fun n => ({ u with
      nextId := n, retained := { u.retained with savedMark := clearMark } } : State)) h).trans rfl
  | some l =>
    dsimp only
    rw [h, Nat.zero_add]
    rfl

theorem State.startText_eq (s : State) : s.startText =
    TextUnit.restoring { State.reset.text with
      settings := s.startSettings.1, previousWheel := s.startSettings.2, pp := s.startSettings.1.lm } s.retained.restorable := by
  unfold State.startText TextUnit.restoring
  cases s.retained.restorable <;> rfl

theorem State.start_eq (s : State) : s.start = s.begun := by
  have settings := State.checkSettings_start (u := s.startValues.readPins) (by rw [s.readPins_start]; rfl)
  rw [s.readPins_start] at settings
  have words := State.checkWords_start (u := s.startValues.readPins.checkSettings) (by rw [s.readPins_start, settings]; rfl)
  rw [s.readPins_start, settings] at words
  have line := State.checkLine_start (u := s.startValues.readPins.checkSettings.checkWords)
    (by rw [s.readPins_start, settings, words]; rfl)
  rw [s.readPins_start, settings, words] at line
  unfold State.start State.begun
  rw [s.readPins_start, settings, words, line, s.startText_eq]
  rfl

/-! ## What follows a start (R68) -/

/-- The state that a start leaves: the carriage phase has begun, unless the cover is open. -/
def State.homed (s : State) : State := if s.pins.coverOpen then s.begun else s.begun.beginCarriagePhase

theorem State.begun_dirty (s : State) : s.begun.display.dirty = true := by
  show (startDisplay _ _ _ _).dirty = true
  rw [startDisplay_eq]
  rfl

theorem State.homed_display (s : State) : s.homed.display = s.begun.display := by
  unfold State.homed
  split
  · rfl
  · unfold State.beginCarriagePhase
    dsimp only
    split <;> rfl

theorem State.markDirty_dirtied {s : State} (old : State) (h : s.display.dirty = true) : s.markDirty old = s := by
  rw [State.markDirty, h, Bool.true_or, ← h]

theorem State.advanceHoming_covered {s : State} (h : s.engine.holds.cover = true) : s.advanceHoming = s :=
  if_neg (fun c => c.2 h)

theorem State.engineActs_begun (s : State) : s.begun.engineActs = s.homed := by
  have first : s.begun.advanceHoming = s.homed := by
    unfold State.homed
    by_cases cover : s.pins.coverOpen = true
    · rw [State.advanceHoming_covered cover, if_pos cover]
    · rw [if_neg cover]
      exact if_pos ⟨rfl, cover⟩
  have homing : s.homed.engine.state = .homing := by
    unfold State.homed
    split
    · rfl
    · unfold State.beginCarriagePhase
      dsimp only
      split <;> rfl
  have second : s.homed.advanceHoming = s.homed := by
    unfold State.homed
    by_cases cover : s.pins.coverOpen = true
    · rw [if_pos cover, State.advanceHoming_covered cover]
    · rw [if_neg cover]
      unfold State.beginCarriagePhase
      dsimp only
      split <;> exact if_pos ⟨rfl, cover⟩
  rw [State.engineActs, first, State.takeOps_elsewhere _ (by rw [homing]; decide),
    State.idleEngine_elsewhere (by rw [homing]; decide) (by rw [homing]; decide), second]

/-- What the carriage phase of a start leaves of the begun state. -/
theorem State.homed_keeps (s : State) : s.homed.corr = State.reset.corr ∧ s.homed.text = s.startText
    ∧ s.homed.supply = State.reset.supply := by
  unfold State.homed
  split
  · exact ⟨rfl, rfl, rfl⟩
  · unfold State.beginCarriagePhase
    dsimp only
    split <;> exact ⟨rfl, rfl, rfl⟩

theorem State.begun_finish (s old : State) : s.begun.finish old = s.homed := by
  have dirty := s.begun_dirty
  obtain ⟨corr, text, supply⟩ := s.homed_keeps
  have dirty_homed : s.homed.display.dirty = true := by rw [s.homed_display, dirty]
  have waits : s.startText.waiting = none := by
    rw [s.startText_eq]
    unfold TextUnit.restoring
    cases s.retained.restorable <;> rfl
  have stays : s.homed.endWait = s.homed := by
    unfold State.endWait
    rw [text, waits]
  have acts : s.begun.blocksAct = s.homed := by
    have engine : s.begun.marking State.engineActs = s.homed := by
      rw [State.marking, s.engineActs_begun, State.markDirty_dirtied _ dirty_homed]
    rw [State.blocksAct, State.marking_same (State.correctionActs_unlifting (s := s.begun) rfl), engine,
      State.marking_same (State.correctionActs_unlifting (by rw [corr]; rfl))]
  rw [State.finish, State.finishIn, State.markDirty_dirtied _ dirty, acts, State.marking_same stays]
  refine State.beginComposition_stands (fun begins => ?_)
  obtain ⟨-, -, -, full | frame⟩ := begins
  · rw [supply] at full
    exact absurd full.1 (by decide)
  · cases frame.1

theorem State.startFaults_eq (s : State) : s.begun.display =
    { State.reset.display with
      messages := s.startFaults ++ s.startTransients.take (4 - s.startFaults.length),
      standing := s.startFaults, messageDue := true, emptySince := false } := by
  have lost : (if (parseWords s.retained.words).isNone then [Message.listLost] else [])
      = if (parseWords s.retained.words).isSome then [] else [Message.listLost] := by
    cases parseWords s.retained.words <;> rfl
  show startDisplay _ _ _ _ = _
  rw [startDisplay_eq, lost]
  rfl

theorem State.homed_started (s : State) : Started s s.homed := by
  have display := s.startFaults_eq
  by_cases cover : s.pins.coverOpen = true
  · have whole : s.homed = s.begun := if_pos cover
    rw [whole]
    refine ⟨s.startText_started, ?_⟩
    rw [← display, if_pos cover, if_pos cover]
    rfl
  · have whole : s.homed = s.begun.beginCarriagePhase := if_neg cover
    rw [whole]
    by_cases tripped : s.pins.homeTripped = true
    · have phase : s.begun.beginCarriagePhase = State.setPhase { s.begun with
          drive :=
            { State.reset.drive with homingDeadline := some 3000, carriage := State.reset.drive.carriage.clearHome } } .clearing :=
        if_pos tripped
      rw [phase]
      refine ⟨s.startText_started, ?_⟩
      rw [← display, if_neg cover, if_neg cover, if_pos tripped, tripped]
      rfl
    · have phase : s.begun.beginCarriagePhase = State.setPhase { s.begun with
          drive :=
            { State.reset.drive with homingDeadline := some 3000, carriage := State.reset.drive.carriage.searchHome } } .searching :=
        if_neg tripped
      rw [phase]
      refine ⟨s.startText_started, ?_⟩
      rw [← display, if_neg cover, if_neg cover, if_neg tripped, eq_false_of_ne_true tripped]
      rfl

end Sys2Proof.Machine

open Sys2Proof Sys2Proof.Machine

/-- Settles O18. -/
theorem startSequence : Obligations.StartSequence := by
  intro s
  refine ⟨fun released => ⟨_, ?_, s.homed_started⟩, fun powered held => ⟨_, ?_, s.homed_started⟩, fun held => ?_,
    fun dead held => ?_⟩
  · refine congrArg Host.Outcome.next ((if_neg (by rw [released]; decide)).trans ?_)
    rw [s.start_eq, s.begun_finish]
  · refine congrArg Host.Outcome.next ((if_pos held).trans ((if_pos powered).trans ?_))
    rw [s.start_eq, s.begun_finish]
  · exact congrArg Host.Outcome.next (if_pos held)
  · exact congrArg Host.Outcome.next ((if_pos held).trans (if_neg (by rw [dead]; decide)))

/-- Settles O25. -/
theorem supplyInDown : Obligations.SupplyInDown := by
  intro s r time failing live rostered last
  have heard (phase : s.supply.phase ≠ .running) : s.takeSupply r time =
      if s.mayRestart time then State.start { s with clock := max s.clock time, line := { s.line with receiver := .waiting } }
      else { s with clock := max s.clock time, line := { s.line with receiver := .waiting } } := by
    have down : s.isDown = true := by simpa [State.isDown] using phase
    have marks : ((s.frameEnd).atTime time).markPresent .power
        = { s with clock := max s.clock time, line := { s.line with receiver := .waiting } } := by
      unfold State.markPresent
      split
      · exact if_neg (fun c => by rw [show ((s.frameEnd).atTime time).isDown = true from down] at c; exact absurd c.2 (by decide))
      · rfl
    rw [State.takeSupply, if_pos rostered]
    dsimp only
    rw [marks, if_pos down]
    rfl
  have may : s.mayRestart time = true ↔ s.supply.phase = .saved ∧ failing + 500000 ≤ time := by
    simp only [State.mayRestart, last, Bool.and_eq_true, decide_eq_true_iff]
  refine ⟨fun saved late => ⟨_, ?_, State.homed_started _⟩, fun early => ?_⟩
  · have effect := (heard (by rw [saved]; decide)).trans (if_pos (may.mpr ⟨saved, late⟩))
    refine (exec_finish (f := fun t => t.takeSupply r time) live rfl effect).trans (congrArg Host.Outcome.next ?_)
    rw [State.start_eq, State.begun_finish]
    rfl
  · refine exec_finish live rfl ((heard ?_).trans (if_neg (fun c => ?_)))
    · obtain saving | ⟨saved, -⟩ := early
      · rw [saving]; decide
      · rw [saved]; decide
    · obtain ⟨saved, late⟩ := may.mp c
      obtain saving | ⟨-, soon⟩ := early
      · rw [saving] at saved; cases saved
      · omega
end

section
/-! SUPPORT. The completion of an op, a fault, and the end of a strike: the lift, the interval, the pulse, the settle and the release. -/

-- One proof after another: the check's process cannot start a thread for each.
set_option Elab.async false

namespace Sys2Proof.Machine

/-! ## The report of a completion (R66, R107, R109) -/

theorem Op.forget_nil (o : Op) : o.forget [] = o := by
  have kept : o.ref.filter (fun i => !([] : List Nat).contains i) = o.ref := by cases o.ref <;> rfl
  rw [Op.forget, kept]

theorem map_forget_nil (l : List Op) : l.map (Op.forget []) = l := by
  rw [show Op.forget [] = fun o => o from funext Op.forget_nil, List.map_id']

/-- What a completion's report leaves: of the engine it clears the references to some entries alone. -/
structure State.Reports (s t : State) : Prop where
  drive : t.drive = s.drive := by rfl
  supply : t.supply = s.supply := by rfl
  writing : t.spell.writing = s.spell.writing := by rfl
  engine : ∃ ids, t.engine =
    { s.engine with slots := s.engine.slots.map (Op.forget ids), head := s.engine.head.map (Op.forget ids) }

theorem State.Reports.of_engine {s t : State} (engine : t.engine = s.engine) (drive : t.drive = s.drive)
    (supply : t.supply = s.supply) (writing : t.spell.writing = s.spell.writing) : s.Reports t := by
  refine ⟨drive, supply, writing, [], ?_⟩
  have head : s.engine.head.map (Op.forget []) = s.engine.head := by
    cases s.engine.head with
    | none => rfl
    | some o => exact congrArg some o.forget_nil
  rw [engine, map_forget_nil, head]

theorem State.removeOwner_reports (s : State) (e : Entry) : s.Reports (s.removeOwner e) := by
  refine ⟨s.removeOwner_drive e, ?_, ?_, _, s.removeOwner_engine e⟩
  · unfold State.removeOwner State.completeItem
    dsimp only
    split <;> rfl
  · unfold State.removeOwner State.completeItem
    dsimp only
    split <;> rfl

theorem State.removeEntry_reports (s : State) (e : Entry) : s.Reports (s.removeEntry e) := by
  unfold State.removeEntry
  split
  · exact s.removeOwner_reports e
  · exact { engine := ⟨[e.id], rfl⟩ }

theorem State.strikeDone_reports (s : State) (o : Op) : s.Reports (s.strikeDone o) := by
  have stays : s.Reports s := .of_engine rfl rfl rfl rfl
  unfold State.strikeDone
  cases o.ref with
  | none => exact stays
  | some id =>
    dsimp only
    cases s.text.find id with
    | none => exact stays
    | some e =>
      cases o.origin with
      | text =>
        dsimp only
        split
        · exact .of_engine rfl rfl rfl rfl
        · exact stays
      | correction =>
        dsimp only
        obtain ⟨drive, supply, writing, engine⟩ := s.removeEntry_reports e
        split
        · split <;> exact ⟨drive, supply, writing, engine⟩
        · exact stays

theorem State.returnDone_reports (s : State) : s.Reports s.returnDone := by
  have stays : s.Reports s := .of_engine rfl rfl rfl rfl
  unfold State.returnDone State.discardPrint
  cases s.text.print with
  | none => exact stays
  | some p =>
    dsimp only
    split
    · exact { engine := ⟨p.record.entries.map Entry.id, rfl⟩ }
    · exact stays

theorem State.closingFeedDone_reports (s : State) : s.Reports s.closingFeedDone := by
  unfold State.closingFeedDone
  split <;> exact .of_engine rfl rfl rfl rfl

/-! ## The completion of an op (R55, R66, R76) -/

/-- The op has left the head place. -/
def State.vacated (s : State) : State :=
  let s1 := s.setQueue s.engine.slots none
  { s1 with engine := { s1.engine with progress := none } }

/-- What a completed op reports to the unit that it came from. -/
def State.completed (s : State) (o : Op) : State :=
  match o.kind with
  | .strike => s.strikeDone o
  | .carriageReturn => s.returnDone
  | .feed => match o.origin with
    | .correction => s.closingFeedDone
    | .text => s

theorem State.completed_reports (s : State) (o : Op) : s.Reports (s.completed o) := by
  unfold State.completed
  cases o.kind with
  | strike => exact s.strikeDone_reports o
  | carriageReturn => exact s.returnDone_reports
  | feed =>
    cases o.origin with
    | correction => exact s.closingFeedDone_reports
    | text => exact .of_engine rfl rfl rfl rfl

theorem State.completeOp_some {s : State} {o : Op} (head : s.engine.head = some o) :
    s.completeOp = (if (s.vacated.completed o).engine.state = .down then s.vacated.completed o
      else (s.vacated.completed o).setEngine (s.vacated.completed o).engine.idleState) := by
  unfold State.completeOp State.completed
  rw [head]
  rfl

/-- What the completion of an op leaves of the engine, the drive and the supply. -/
theorem State.completeOp_told {s : State} {o : Op} (head : s.engine.head = some o) :
    s.completeOp.drive = s.drive ∧ s.completeOp.supply = s.supply ∧ s.completeOp.spell.writing = s.spell.writing
      ∧ ∃ ids, s.completeOp.engine =
        { s.engine with
          slots := s.engine.slots.map (Op.forget ids), head := none, progress := none,
          state := if s.engine.state = .down then .down else s.engine.idleState } := by
  obtain ⟨drive, supply, writing, ids, engine⟩ := s.vacated.completed_reports o
  have state : (s.vacated.completed o).engine.state = s.engine.state := by rw [engine]; rfl
  rw [State.completeOp_some head, state]
  by_cases down : s.engine.state = .down
  · rw [if_pos down, if_pos down]
    exact ⟨drive, supply, writing, ids, by rw [engine, ← down]; rfl⟩
  · rw [if_neg down, if_neg down]
    refine ⟨drive, supply, writing, ids, ?_⟩
    have set_ (u : State) (e : EngineState) : (u.setEngine e).engine = { u.engine with state := e } := rfl
    rw [set_, engine]
    rfl

/-! ## Faults (R72) -/

theorem State.raiseFault_halts {s : State} (code : FaultCode) (none : s.engine.homing = none) :
    (s.raiseFault code).engine.state = .halted ∧ (s.raiseFault code).engine.fault = code := by
  unfold State.raiseFault
  rw [none]
  exact ⟨rfl, rfl⟩

/-! ## The end of a strike (R62, R63, R77, R78, R91) -/

/-- The hammer is armed: the channels stand still and exactly one lift is drawn. -/
abbrev Drive.Armed (d : Drive) : Prop := d.hammer = .idle ∧ d.carriage.phase = .idle ∧ d.wheel = .idle
  ∧ ((d.ribbonLift = .drawn ∧ d.tapeLift ≠ .drawn) ∨ (d.ribbonLift ≠ .drawn ∧ d.tapeLift = .drawn))

theorem Drive.armed_iff (d : Drive) : d.armed = true ↔ d.Armed := by
  have one : d.oneDrawn = true ↔
      ((d.ribbonLift = .drawn ∧ d.tapeLift ≠ .drawn) ∨ (d.ribbonLift ≠ .drawn ∧ d.tapeLift = .drawn)) := by
    unfold Drive.oneDrawn
    cases d.ribbonLift <;> cases d.tapeLift <;> decide
  simp only [Drive.armed, Carriage.isIdle, Bool.and_eq_true, decide_eq_true_iff, one, and_assoc]

theorem strikeInterval_eq (level : Nat) (region : Region) : strikeInterval level region =
    (if level = 4 then 66 else if level = 3 then 80 else if level = 2 then 100 else 133) * (if region = .cool then 1 else 2) := by
  unfold strikeInterval
  by_cases h4 : level = 4
  · subst h4
    cases region <;> rfl
  by_cases h3 : level = 3
  · subst h3
    cases region <;> rfl
  by_cases h2 : level = 2
  · subst h2
    cases region <;> rfl
  rw [if_neg h4, if_neg h3, if_neg h2]
  cases region
  all_goals
    dsimp only
    split
    · exact absurd rfl h4
    · exact absurd rfl h3
    · exact absurd rfl h2
    · rfl

/-- An armed hammer fires. -/
theorem State.fire_told {s : State} {p : Progress} (armed : s.drive.Armed) :
    (s.fire p).clock = s.clock ∧ (s.fire p).drive = { s.drive with hammer := .pulse p.width }
      ∧ (s.fire p).engine.lastPulse = some s.clock ∧ (s.fire p).engine.head = s.engine.head
      ∧ (s.fire p).engine.progress = some { p with stage := .pulse }
      ∧ (s.fire p).supply.heat = min 4095 (s.supply.heat + p.width / 50) ∧ (s.fire p).text = s.text := by
  rw [State.fire, if_pos (s.drive.armed_iff.mpr armed), State.addHeat]
  obtain ⟨hot, e, d, l, eq⟩ := State.setHeat_eq { s with
      drive := { s.drive with hammer := .pulse p.width },
      engine := { s.engine with lastPulse := some s.clock, progress := some { p with stage := .pulse } } }
    (min 4095 (s.supply.heat + heatIncrement p.width))
  rw [eq]
  exact ⟨rfl, rfl, rfl, rfl, rfl, rfl, rfl⟩

theorem State.fire_faults {s : State} {p : Progress} (unarmed : ¬s.drive.Armed) : s.fire p = s.raiseFault .carriageStall :=
  if_neg (fun h => unarmed (s.drive.armed_iff.mp h))

theorem State.atStage_some {s : State} {o : Op} {p : Progress} {st : Stage} (head : s.engine.head = some o)
    (progress : s.engine.progress = some p) (stage : p.stage = st) : s.atStage st = some (o, p) := by
  simp only [State.atStage, head, progress, if_pos stage]

theorem State.atStage_none {s : State} (st : Stage) (progress : s.engine.progress = none) : s.atStage st = none := by
  unfold State.atStage
  cases s.engine.head <;> simp only [progress]

end Sys2Proof.Machine

open Sys2Proof Sys2Proof.Machine

/-- Settles O59. -/
theorem hammerStrikes : Obligations.HammerStrikes := by
  intro s live interval due armed fires
  have is_due (p : Progress) : s.engine.intervalEnd p = due p := by
    unfold Engine.intervalEnd
    cases pulsed : s.engine.lastPulse <;> simp only [due, interval, pulsed, ← strikeInterval_eq]
  refine ⟨fun l time pulling => ?_, fun o p head progress stage => ?_, fun w o p pulse head progress => ⟨fun phase early => ?_,
    fun phase down late fresh idle => ?_⟩, fun o p settle head progress stage still => ?_⟩
  · intro d now
    let heard : State := { s with clock := now, drive := d }
    have drawn : s.liftDrawn l time = match heard.atStage .lift with
        | some (o, p) => if o.medium = l then heard.strikeInterval p else heard
        | none => heard := if_pos pulling
    refine ⟨?_, fun none => ?_, fun o p head progress stage medium => ?_⟩
    · have output : s.drive.liftOutput l = LiftState.output .pulling l := by rw [Drive.liftOutput, pulling]
      refine ⟨output, ?_, fun k other => ?_, ?_⟩
      · rw [Drive.liftOutput_setLift, if_pos rfl]
        cases l <;> rfl
      · rw [Drive.liftOutput_setLift, if_neg other]
      · rw [Drive.liftOutput_setLift, if_pos rfl]
        rfl
    · rw [State.atStage_none (s := heard) .lift none] at drawn
      exact exec_finish live rfl drawn
    · rw [State.atStage_some (s := heard) head progress stage] at drawn
      have drawn : s.liftDrawn l time = heard.strikeInterval p := drawn.trans (if_pos medium)
      have heard_due : heard.engine.intervalEnd p = due p := is_due p
      have waited (h : due p ≤ now) : heard.strikeInterval p = heard.fire p :=
        if_neg (by rw [heard_due]; exact Nat.not_lt.mpr h)
      refine ⟨fun early => ?_, fun late ready => ⟨_, exec_finish live rfl (drawn.trans (waited late)), ?_⟩,
        fun late unready none => ⟨_, exec_finish live rfl (drawn.trans ((waited late).trans (State.fire_faults unready))),
          State.raiseFault_halts _ none⟩⟩
      · refine exec_finish live rfl (drawn.trans ((if_pos (by rw [heard_due]; exact early)).trans ?_))
        have stage : heard.engine.progress.map (fun p => { p with stage := Stage.interval }) = some { p with stage := .interval } := by
          rw [show heard.engine.progress = some p from progress]
          rfl
        rw [State.setStage, stage]
      · obtain ⟨clock, drive, last, at_head, stage, heat, text⟩ := State.fire_told (s := heard) (p := p) ready
        exact ⟨clock, drive, last, at_head.trans head, stage, heat, text⟩
  · have ends : s.strikeIntervalEnd = (s.atTime (due p)).fire p := by
      rw [State.strikeIntervalEnd, State.atStage_some head progress stage, ← is_due]
    refine ⟨fun ready => ⟨_, exec_finish live rfl ends, ?_⟩,
      fun unready none => ⟨_, exec_finish live rfl (ends.trans (State.fire_faults unready)), State.raiseFault_halts _ none⟩⟩
    obtain ⟨clock, drive, last, at_head, stage, heat, text⟩ := State.fire_told (s := s.atTime (due p)) (p := p) ready
    exact ⟨clock, drive, last, at_head.trans head, stage, heat, text⟩
  · have runs : s.drive.hammer.isPulse = true := by rw [pulse]; rfl
    have ends : s.pulseEnd
        = State.setStage { s with drive := ({ s.drive with hammer := .settle } : Drive).releaseWaiting } .settle := by
      exact (if_pos runs).trans (if_neg (by simp [State.isDown, phase]))
    have kept : ({ s.drive with hammer := .settle } : Drive).releaseWaiting = { s.drive with hammer := .settle } :=
      if_neg (by rw [early]; decide)
    refine exec_finish live rfl (ends.trans ?_)
    rw [kept, State.setStage]
    simp only [progress, Option.map_some]
  · have runs : s.drive.hammer.isPulse = true := by rw [pulse]; rfl
    let idle_ : State := { s with drive := ({ s.drive with hammer := .idle } : Drive).releaseWaiting }
    have ends : s.pulseEnd = idle_.completeOp.beginSave := by
      exact (if_pos runs).trans (if_pos (by simp [State.isDown, phase]))
    have released : idle_.drive =
        { s.drive with hammer := .idle, ribbonLift := .released, tapeLift := .released, releaseDue := false } := if_pos late
    obtain ⟨drive, supply, writing, ids, engine⟩ := State.completeOp_told (s := idle_) head
    rw [released] at drive
    have begins : idle_.completeOp.beginSave =
        { idle_.completeOp with supply := { idle_.completeOp.supply with saveBegun := true } } := by
      refine if_pos ⟨?_, ?_, ?_, ?_⟩
      · rw [supply]; exact phase
      · rw [supply]; exact fresh
      · rw [drive]; rfl
      · rw [writing]; exact idle
    refine ⟨_, exec_finish live rfl (ends.trans begins), drive, ?_, ?_, rfl⟩
    · show idle_.completeOp.engine.head = none
      rw [engine]
    · show idle_.completeOp.engine.state = .down
      rw [engine]
      exact if_pos down
  · have ends : s.settleEnd = State.strikeAdvance { s with drive := { s.drive with hammer := .idle } } o := by
      rw [State.settleEnd, if_pos settle]
      dsimp only
      rw [State.atStage_some (s := { s with drive := { s.drive with hammer := .idle } }) head progress stage]
    refine exec_finish live rfl (ends.trans ?_)
    unfold State.strikeAdvance State.setStage
    simp only [progress, still, Option.map_some]
    cases o.medium <;> rfl
end

section
/-! SUPPORT. The pacers: the next step of a strike, and the ends of wheel moves, feeds, advances and home searches. -/

-- One proof after another: the check's process cannot start a thread for each.
set_option Elab.async false

namespace Sys2Proof.Machine

/-! ## The steps of a strike (R62) -/

theorem State.setStage_some {s : State} {p : Progress} (st : Stage) (progress : s.engine.progress = some p) :
    s.setStage st = { s with engine := { s.engine with progress := some { p with stage := st } } } := by
  rw [State.setStage, progress, Option.map_some]

theorem FeedPacer.request_idle {f : FeedPacer} (n : Int) (idle : f = .idle) :
    f.request n = .feeding (decide (0 ≤ n)) (12 * n.natAbs) 1 := by rw [idle]; rfl

theorem Drive.drawLift_released {d : Drive} {l : Lift} (released : d.lift l = .released) :
    d.drawLift l =
      { d with ribbonLift := if l = .ribbon then .pulling else .released, tapeLift := if l = .tape then .pulling else .released } := by
  rw [Drive.drawLift, if_pos released]
  cases l <;> rfl

/-- A lift that is released begins its pull-in. -/
theorem State.strikeLift_pulls {s : State} {o : Op} {p : Progress} (progress : s.engine.progress = some p)
    (released : s.drive.lift o.medium = .released) :
    s.strikeLift o p =
      { s with
        drive :=
          { s.drive with
            ribbonLift := if o.medium = .ribbon then .pulling else .released,
            tapeLift := if o.medium = .tape then .pulling else .released },
        engine := { s.engine with progress := some { p with stage := .lift } } } := by
  have undrawn : ¬s.drive.lift o.medium = .drawn := by rw [released]; decide
  rw [State.strikeLift, if_neg undrawn,
    State.setStage_some (s := { s with drive := s.drive.drawLift o.medium }) .lift progress, Drive.drawLift_released released]

theorem State.strikeRise_feeds {s : State} {o : Op} {p : Progress} (progress : s.engine.progress = some p)
    (away : o.rise ≠ s.engine.paperRise) (idle : s.drive.feed = .idle) :
    s.strikeRise o p =
      { s with
        drive :=
          { s.drive with
            feed := .feeding (decide (0 ≤ o.rise - s.engine.paperRise)) (12 * (o.rise - s.engine.paperRise).natAbs) 1 },
        engine := { s.engine with progress := some { p with stage := .rise } } } := by
  rw [State.strikeRise, if_neg away, State.setStage_some (s := s.requestFeed _) .rise progress, State.requestFeed,
    FeedPacer.request_idle _ idle]

theorem State.strikeRise_lifts {s : State} {o : Op} {p : Progress} (there : o.rise = s.engine.paperRise) :
    s.strikeRise o p = s.strikeLift o p := if_pos there

/-! ## What a completion leaves (R66) -/

theorem State.completeOp_text {s : State} {o : Op} (head : s.engine.head = some o) :
    s.completeOp.text = (s.vacated.completed o).text ∧ s.completeOp.corr = (s.vacated.completed o).corr := by
  rw [State.completeOp_some head]
  split <;> exact ⟨rfl, rfl⟩

/-- The engine after a completion that leaves it RUNNING. -/
theorem State.completeOp_ends {s : State} {o : Op} (head : s.engine.head = some o)
    (up : (s.vacated.completed o).engine.state = .running) :
    s.completeOp.engine
      = { (s.vacated.completed o).engine with state := (s.vacated.completed o).engine.idleState } := by
  rw [State.completeOp_some head, if_neg (by rw [up]; decide), State.setEngine]

theorem State.completeOp_engine {s : State} {o : Op} (head : s.engine.head = some o) (running : s.engine.state = .running)
    (kept : (s.vacated.completed o).engine = s.vacated.engine) :
    s.completeOp.engine = { s.engine with head := none, progress := none, state := s.engine.idleState } := by
  rw [State.completeOp_ends head (kept ▸ running), kept]
  rfl

theorem State.completeOp_drive {s : State} {o : Op} (head : s.engine.head = some o) : s.completeOp.drive = s.drive :=
  (State.completeOp_told head).1

/-- The engine after a completion while RUNNING. -/
theorem State.completeOp_idles {s : State} {o : Op} (head : s.engine.head = some o) (running : s.engine.state = .running) :
    ∃ ids, s.completeOp.engine =
      { s.engine with
        slots := s.engine.slots.map (Op.forget ids), head := none, progress := none, state := s.engine.idleState } := by
  obtain ⟨-, -, -, ids, engine⟩ := State.completeOp_told head
  exact ⟨ids, by rw [engine, if_neg (by rw [running]; decide)]⟩

/-! ## The completion of a strike (R107, Table 1-2) -/

theorem TextUnit.find_id {t : TextUnit} {id : Nat} {e : Entry} (found : t.find id = some e) : e.id = id := by
  simpa using List.find?_some found

theorem State.strikeDone_prints {s : State} {o : Op} {id : Nat} {e : Entry} (ref : o.ref = some id)
    (found : s.text.find id = some e) (origin : o.origin = .text) (queued : e.state = .queued) :
    s.strikeDone o
      = { s with text := s.text.modify id (fun x => { x with state := .printed, wheel := s.engine.wheel }) } := by
  simp only [State.strikeDone, ref, found, origin, if_pos queued]

theorem State.strikeDone_lifts {s : State} {o : Op} {id : Nat} {e : Entry} (ref : o.ref = some id)
    (found : s.text.find id = some e) (origin : o.origin = .correction) (lifting : e.state = .lifting) :
    s.strikeDone o = if e.isChar ∧ s.corr.lifting then
      { s.removeEntry e with text := { (s.removeEntry e).text with pp := e.pos } } else s.removeEntry e := by
  simp only [State.strikeDone, ref, found, origin, if_pos lifting]

/-- The completion of an item in the list, whether it stands there or not. -/
theorem State.completeItem_items (s : State) (e : Entry) :
    (s.completeItem e).corr.items = s.corr.items.filter (fun i => decide (i.owner ≠ e.id)) := by
  unfold State.completeItem
  split
  · rfl
  next absent =>
    refine (List.filter_eq_self.mpr (fun i hi => ?_)).symm
    by_contra same
    exact absent (List.any_eq_true.mpr ⟨i, hi, by simpa using same⟩)

theorem State.removeOwner_items (s : State) (e : Entry) :
    (s.removeOwner e).corr.items = s.corr.items.filter (fun i => decide (i.owner ≠ e.id)) := by
  unfold State.removeOwner
  extract_lets run s1 s2
  exact s2.completeItem_items e

/-- An entry that is not taken out is found as before. -/
theorem State.takeOut_find (s : State) {ids : List Nat} {i : Nat} (h : i ∉ ids) : (s.takeOut ids).text.find i = s.text.find i := by
  have keeps (l : List Entry) :
      (l.filter (fun e => !ids.contains e.id)).find? (fun e => decide (e.id = i)) = l.find? (fun e => decide (e.id = i)) := by
    rw [List.find?_filter]
    congr 1
    funext e
    by_cases same : e.id = i
    · simp [same, h]
    · simp [same]
  have out : (s.takeOut ids).text.allEntries = (s.text.mapRecords (fun r => r.keep (fun e => !ids.contains e.id))).allEntries := rfl
  rw [TextUnit.find, out, TextUnit.allEntries, TextUnit.find, TextUnit.allEntries, TextUnit.mapRecords, List.find?_append,
    List.find?_append]
  cases print : s.text.print with
  | none => simp only [Option.map_none, LineRecord.keep, keeps]
  | some p => simp only [Option.map_some, LineRecord.keep, keeps]

theorem State.takeOut_gone (s : State) {ids : List Nat} {i : Nat} (h : i ∈ ids) : (s.takeOut ids).text.find i = none := by
  rw [TextUnit.find_eq_none_iff]
  intro x hx same
  exact ((s.mem_takeOut ids x).mp hx).2 (same ▸ h)

/-! ## The completion of a RETURN (R1, R28) -/

theorem State.returnDone_discards {s : State} {q : PrintLine} (print : s.text.print = some q)
    (closes : (q.returnAppended && !s.engine.slots.any Op.isReturn) = true) :
    s.returnDone.text = { s.text with print := none } := by
  simp only [State.returnDone, print, if_pos closes, State.discardPrint]
  rfl

theorem State.returnDone_stands {s : State}
    (waits : ∀ q, s.text.print = some q → (q.returnAppended && !s.engine.slots.any Op.isReturn) = false) : s.returnDone = s := by
  unfold State.returnDone
  cases print : s.text.print with
  | none => rfl
  | some q => exact if_neg (by rw [waits q print]; exact Bool.false_ne_true)

/-! ## The ends of a wheel move and of a feed (R62, R64, R65) -/

/-- The wheel stands at the petal of the op in progress. -/
def State.turned (s : State) (p : Progress) : State :=
  { s with
    drive := { s.drive with wheel := .idle, wheelDeadline := none }, engine := { s.engine with petal := some p.petal } }

theorem State.wheelEnded_moves {s : State} {o : Op} {p : Progress} {both : Bool} (head : s.engine.head = some o)
    (progress : s.engine.progress = some p) (stage : p.stage = .moves both true) :
    s.wheelEnded = if both then (s.turned p).setStage (.moves true false) else (s.turned p).strikeRise o p := by
  unfold State.wheelEnded
  dsimp only
  split
  next o' p' at_head at_progress =>
    obtain rfl : o = o' := Option.some.inj (head.symm.trans at_head)
    obtain rfl : p = p' := Option.some.inj (progress.symm.trans at_progress)
    rw [stage]
    cases both <;> rfl
  next absent => exact absurd progress (absent o p head)

/-- The feed pacer has ended its feed. -/
def State.fed (s : State) : State := { s with drive := { s.drive with feed := .idle } }

theorem State.feedRise_eq (s : State) (n : Int) :
    s.feedRise n = s.setPaperRise (if n = 1 ∨ n = -1 then s.engine.paperRise + n else s.engine.paperRise) := by
  unfold State.feedRise
  by_cases one : n.natAbs = 1
  · rw [if_pos one, if_pos (by omega)]
  · rw [if_neg one, if_neg (by omega)]
    rfl

/-- What the end of a feed does in a stage of the op in progress. -/
def State.fedAt (s : State) (o : Op) (p : Progress) : Stage → State
  | .rise => (s.setPaperRise o.rise).strikeLift o p
  | .feeding => (s.feedRise o.feed).completeOp
  | .returning true true => (s.setPaperRise 0).setStage (.returning true false)
  | .returning false true => (s.setPaperRise 0).completeOp
  | _ => s

theorem State.feedEnded_at {s : State} {o : Op} {p : Progress} (late : s.engine.lateFeed = false)
    (head : s.engine.head = some o) (progress : s.engine.progress = some p) : s.feedEnded = s.fed.fedAt o p p.stage := by
  unfold State.feedEnded
  dsimp only
  rw [if_neg (by rw [late]; exact Bool.false_ne_true)]
  split
  next o' p' at_head at_progress =>
    obtain rfl : o = o' := Option.some.inj (head.symm.trans at_head)
    obtain rfl : p = p' := Option.some.inj (progress.symm.trans at_progress)
    rfl
  next absent => exact absurd progress (absent o p head)

/-! ## The home flag (R69, R89) -/

theorem codeOf_bits (b3 b2 b1 b0 : Bool) :
    codeOf [b3, b2, b1, b0] = 8 * b3.toNat + 4 * b2.toNat + 2 * b1.toNat + b0.toNat := by
  simp only [codeOf, List.foldl_cons, List.foldl_nil]
  omega

/-- The home flag read whole: what the engine, the text unit and the display take of it. -/
theorem State.wheelHomed_told (s : State) (code : Nat) :
    (s.wheelHomed code).drive = { s.drive with wheel := .idle, wheelDeadline := none }
      ∧ (s.wheelHomed code).engine.petal = some 0 ∧ (s.wheelHomed code).engine.wheel = some code
      ∧ (s.wheelHomed code).engine.homing = none
      ∧ (s.wheelHomed code).engine.startHomed
        = (s.engine.startHomed || s.engine.homing.any (fun h => decide (h.kind = .start)))
      ∧ (s.wheelHomed code).engine.holds = { s.engine.holds with wheel := !hasTable code }
      ∧ (s.wheelHomed code).engine.state = (s.wheelHomed code).engine.idleState
      ∧ (s.wheelHomed code).text = s.text.wheelReport code
      ∧ (s.wheelHomed code).display = if hasTable code then
          (if s.engine.fault = .wheelLost then s.display else s.display.unpost .wheel) else s.display.post .wheel := by
  unfold State.wheelHomed
  simp only [State.setHold_told]
  have started : (match s.engine.homing with
      | some h => decide (h.kind = .start)
      | none => false) = s.engine.homing.any (fun h => decide (h.kind = .start)) := by cases s.engine.homing <;> rfl
  by_cases table : hasTable code = true
  · by_cases lost : s.engine.fault = .wheelLost
    · rw [if_pos table, if_pos lost]
      exact ⟨rfl, rfl, rfl, rfl, congrArg (s.engine.startHomed || ·) started, rfl, rfl, rfl,
        ((if_pos table).trans (if_pos lost)).symm⟩
    · rw [if_pos table, if_neg lost]
      exact ⟨rfl, rfl, rfl, rfl, congrArg (s.engine.startHomed || ·) started, rfl, rfl, rfl,
        ((if_pos table).trans (if_neg lost)).symm⟩
  · rw [if_neg table]
    exact ⟨rfl, rfl, rfl, rfl, congrArg (s.engine.startHomed || ·) started, rfl, rfl, rfl, (if_neg table).symm⟩

theorem hasTable_iff (code : Nat) : code < 12 ↔ nativePitch code ≠ none := by
  unfold nativePitch
  split
  all_goals simp_all
  omega

theorem TextUnit.wheelReport_eq (t : TextUnit) (code : Nat) :
    t.wheelReport code =
      { t with
        previousWheel := some code,
        settings :=
          { t.settings with pitch := match nativePitch code with
            | none => t.settings.pitch
            | some native =>
              if t.previousWheel = some code ∧ ¬(t.settings.pitch = .ps ∧ native ≠ .ps) then t.settings.pitch else native } } := by
  unfold TextUnit.wheelReport
  cases nativePitch code with
  | none => rfl
  | some native =>
    dsimp only
    by_cases same : t.previousWheel = some code
    · by_cases proportional : t.settings.pitch = .ps ∧ native ≠ .ps
      · have other : ¬(t.previousWheel = some code ∧ ¬(t.settings.pitch = .ps ∧ native ≠ .ps)) := fun h => h.2 proportional
        rw [if_neg (not_not_intro same), if_pos proportional, if_neg other]
      · simp [same, proportional]
    · simp [same]

end Sys2Proof.Machine

open Sys2Proof Sys2Proof.Machine

/-- Settles O58. -/
theorem pacersReport : Obligations.PacersReport := by
  intro s live idleState
  refine ⟨fun fwd n cruise k f b wheel more => ?_, fun k bits f b wheel more short => ?_, fun fwd n k f b feed more => ?_,
    fun out n k f b ribbon more => ?_, fun o p fwd n cruise wheel head progress => ?_, fun k b3 b2 b1 b0 wheel => ?_,
    fun o p fwd n feed head progress late running => ?_, fun fwd n feed late => ?_,
    fun o p out n id e ribbon head progress stage kind running ref found => ?_,
    fun o p out n ribbon head progress stage kind running ref => ?_⟩
  · have next : s.drive.wheel.stepEnd f b = .moving fwd n cruise (k + 1) := by rw [wheel]; exact if_pos more
    exact exec_finish live rfl (by simp only [State.stepIntervalEnd, next])
  · have next : s.drive.wheel.stepEnd f b = .searching (k + 1) (if f then bits ++ [b] else []) := by
      rw [wheel]
      exact (if_pos ⟨more, short⟩).trans (congrArg (WheelPacer.searching (k + 1)) (if_neg (by omega)))
    exact exec_finish live rfl (by simp only [State.stepIntervalEnd, next])
  · have next : s.drive.feed.stepEnd = .feeding fwd n (k + 1) := by rw [feed]; exact if_pos more
    exact exec_finish live rfl (by simp only [State.stepIntervalEnd, next])
  · have next : s.drive.ribbon.stepEnd = .advancing out n (k + 1) := by rw [ribbon]; exact if_pos more
    exact exec_finish live rfl (by simp only [State.stepIntervalEnd, next])
  · intro at_
    have ended : s.wheelMoveEnded = s.wheelEnded := by simp only [State.wheelMoveEnded, wheel, if_true]
    have moved : (s.turned p).engine.progress = some p := progress
    refine ⟨fun stage => ?_, fun stage away idle => ?_, fun stage there released => ?_⟩
    · exact exec_finish live rfl
        (ended.trans ((State.wheelEnded_moves head progress stage).trans (State.setStage_some _ moved)))
    · exact exec_finish live rfl
        (ended.trans ((State.wheelEnded_moves head progress stage).trans (State.strikeRise_feeds moved away idle)))
    · exact exec_finish live rfl
        (ended.trans ((State.wheelEnded_moves head progress stage).trans
          ((State.strikeRise_lifts (s := s.turned p) there).trans (State.strikeLift_pulls moved released))))
  · intro code x
    have found : s.wheelHomeFound = s.wheelHomed code := by
      simp only [State.wheelHomeFound, wheel, List.length_cons, List.length_nil, if_true, codeOf_bits, code]
    obtain ⟨drive, petal, mounted, homing, homed, holds, state, text, display⟩ := s.wheelHomed_told code
    have off : (!hasTable code) = decide (12 ≤ code) := by
      rw [hasTable, ← decide_not]
      exact decide_eq_decide.mpr Nat.not_lt
    have table (h : code < 12) : hasTable code = true := by simpa [hasTable] using h
    refine ⟨_, exec_finish live rfl found, drive, petal, mounted, homing, homed, ?_, state, ?_, fun high => ?_,
      fun low known => ?_, hasTable_iff code⟩
    · rw [holds, off]
    · exact text.trans (TextUnit.wheelReport_eq _ _)
    · rw [display, if_neg (by simpa [hasTable] using high)]
    · rw [display, if_pos (table low), if_neg known]
  · have ended : s.feedEndReport = s.fed.fedAt o p p.stage := by
      rw [← State.feedEnded_at late head progress]
      simp only [State.feedEndReport, feed, if_true]
    let rested : State :=
      s.fed.setPaperRise (if o.feed = 1 ∨ o.feed = -1 then s.engine.paperRise + o.feed else s.engine.paperRise)
    have risen : s.fed.feedRise o.feed = rested := s.fed.feedRise_eq o.feed
    refine ⟨fun stage kind origin => ?_, fun stage kind origin closing => ?_, fun stage released => ?_,
      fun stage kind => ?_, fun stage => ?_⟩
    · have text_op (t : State) : t.vacated.completed o = t.vacated := by simp only [State.completed, kind, origin]
      rw [stage, State.fedAt, risen] at ended
      refine ⟨_, exec_finish live rfl ended, ?_, ?_, ?_⟩
      · exact State.completeOp_drive (s := rested) head
      · exact State.completeOp_engine (s := rested) head running (congrArg State.engine (text_op rested))
      · refine (State.completeOp_text (s := rested) head).1.trans ?_
        rw [text_op]
        rfl
    · have closes (t : State) : t.vacated.completed o = t.vacated.closingFeedDone := by
        simp only [State.completed, kind, origin]
      have fed_corr (t : State) (mark : t.corr.closingMark = true) : t.vacated.closingFeedDone = { t.vacated with
          corr := if t.corr.closingFeeds ≤ 1 then .idle else { t.corr with closingFeeds := t.corr.closingFeeds - 1 } } := if_pos mark
      rw [stage, State.fedAt, risen] at ended
      refine ⟨_, exec_finish live rfl ended, ?_, ?_, ?_, ?_⟩
      · exact State.completeOp_drive (s := rested) head
      · refine (State.completeOp_text (s := rested) head).2.trans ?_
        rw [closes, fed_corr rested closing]
        rfl
      · refine State.completeOp_engine (s := rested) head running ?_
        rw [closes, fed_corr rested closing]
      · refine (State.completeOp_text (s := rested) head).1.trans ?_
        rw [closes, fed_corr rested closing]
        rfl
    · rw [stage, State.fedAt] at ended
      exact exec_finish live rfl (ended.trans (State.strikeLift_pulls (s := s.fed.setPaperRise o.rise) progress released))
    · rw [stage, State.fedAt] at ended
      have returns (t : State) : t.vacated.completed o = t.vacated.returnDone := by simp only [State.completed, kind]
      obtain ⟨ids, engine⟩ := State.completeOp_idles (s := s.fed.setPaperRise 0) head running
      have text : (s.fed.setPaperRise 0).completeOp.text = (s.fed.setPaperRise 0).vacated.returnDone.text :=
        (State.completeOp_text (s := s.fed.setPaperRise 0) head).1.trans (congrArg State.text (returns _))
      refine ⟨_, exec_finish live rfl ended, ?_, ?_, ?_, ?_, fun q print closes => ?_, fun waits => ?_⟩
      · rw [engine]
        rfl
      · rw [engine]
      · rw [engine]
      · rw [engine]
        rfl
      · exact text.trans (State.returnDone_discards print closes)
      · rw [text, State.returnDone_stands (s := (s.fed.setPaperRise 0).vacated) waits]
        rfl
    · rw [stage, State.fedAt] at ended
      exact exec_finish live rfl (ended.trans (State.setStage_some (s := s.fed.setPaperRise 0) _ progress))
  · have ended : s.feedEndReport = s.fed.lateFeedEnded := by
      simp only [State.feedEndReport, feed, if_true]
      exact if_pos late
    exact exec_finish live rfl ended
  · let still : State := { s with drive := { s.drive with ribbon := .idle } }
    have ended : s.advanceEnded = still.completeOp := by
      simp only [State.advanceEnded, ribbon, if_true, progress, stage]
      rfl
    have struck : still.vacated.completed o = still.vacated.strikeDone o := by simp only [State.completed, kind]
    obtain ⟨text, corr⟩ := State.completeOp_text (s := still) head
    obtain ⟨ids, engine⟩ := State.completeOp_idles (s := still) head running
    have drive : still.completeOp.drive = still.drive := State.completeOp_drive (s := still) head
    rw [struck] at text corr
    refine ⟨fun origin queued => ?_, fun origin lifting char under => ?_, fun origin lifting companion => ?_⟩
    · have prints := State.strikeDone_prints (s := still.vacated) ref found origin queued
      refine ⟨_, exec_finish live rfl ended, ?_, drive, ?_⟩
      · rw [text, prints]
        rfl
      · exact State.completeOp_engine (s := still) head running (by rw [struck, prints])
    · have is_char : e.isChar = true := decide_eq_true char
      have lifts := (State.strikeDone_lifts (s := still.vacated) ref found origin lifting).trans (if_pos ⟨is_char, under⟩)
      rw [State.removeEntry, if_pos is_char] at lifts
      rw [lifts] at text corr
      refine ⟨_, exec_finish live rfl ended, ?_, ?_, ?_, ?_, fun i hi => ?_, ?_⟩
      · rw [text]
      · rw [text]
        exact State.removeOwner_find (s := still.vacated) (e := e) List.mem_cons_self
      · rw [engine]
      · rw [engine]
      · rw [text]
        exact State.removeOwner_find (s := still.vacated) (e := e) (List.mem_cons_of_mem _ hi)
      · rw [corr]
        exact still.vacated.removeOwner_items e
    · have no_char : ¬e.isChar = true := by simpa [Entry.isChar] using companion
      have lifts := (State.strikeDone_lifts (s := still.vacated) ref found origin lifting).trans
        (if_neg (fun h => no_char h.1))
      rw [State.removeEntry, if_neg no_char, State.removeCompanion, TextUnit.find_id found] at lifts
      rw [lifts] at text corr
      have ends : still.completeOp.engine = { still.engine with
          slots := still.engine.slots.map (Op.forget [id]), head := none, progress := none,
          state := still.engine.idleState } := by
        rw [State.completeOp_ends (s := still) head (by rw [struck, lifts]; exact running), struck, lifts]
        rfl
      refine ⟨_, exec_finish live rfl ended, ?_, fun i other => ?_, ?_, ?_, corr, drive, ?_, ?_, ?_, ?_⟩
      · rw [text]
        exact still.vacated.takeOut_gone List.mem_cons_self
      · rw [text]
        exact still.vacated.takeOut_find (by simpa using other)
      · rw [text]
        rfl
      · rw [text]
        rfl
      · rw [ends]
      · rw [ends]
      · exact congrArg Engine.state ends
      · exact congrArg Engine.slots ends
  · let still : State := { s with drive := { s.drive with ribbon := .idle } }
    have ended : s.advanceEnded = still.completeOp := by
      simp only [State.advanceEnded, ribbon, if_true, progress, stage]
      rfl
    have struck : still.vacated.completed o = still.vacated := by simp only [State.completed, kind, State.strikeDone, ref]
    obtain ⟨text, corr⟩ := State.completeOp_text (s := still) head
    rw [struck] at text corr
    exact ⟨_, exec_finish live rfl ended, text, corr, State.completeOp_drive (s := still) head,
      State.completeOp_engine (s := still) head running (congrArg State.engine struck)⟩
end

section
/-! SUPPORT. Faults: what HALTED and LOCKED leave of the engine, the drive, the messages and the entries. -/

-- One proof after another: the check's process cannot start a thread for each.
set_option Elab.async false

namespace Sys2Proof.Machine

/-! ## Messages (R152) -/

/-- A fault posted once more keeps its place. -/
theorem Display.post_again {d : Display} {m : Message} (fault : m.isFault = true) : (d.post m).post m = d.post m := by
  have stands : (d.post m).standing.contains m = true := by
    rw [Display.post, if_pos fault]
    by_cases old : d.standing.contains m = true
    · rwa [if_pos old]
    · rw [if_neg old, Display.setMessages_standing]
      exact List.contains_iff_mem.mpr List.mem_cons_self
  rw [Display.post.eq_def (d.post m) m, if_pos fault, if_pos stands]

/-! ## What the removals of LOCKED leave alone (R75) -/

/-- What a removal of entries leaves alone, with an empty strike queue and an empty correction list. -/
structure State.Spares (s t : State) : Prop where
  drive : t.drive = s.drive := by rfl
  line : t.line = s.line := by rfl
  display : t.display = s.display := by rfl
  waiting : t.text.waiting = s.text.waiting := by rfl
  resume : t.text.resume = s.text.resume := by rfl
  engine : s.engine.slots = [] → s.engine.head = none → t.engine = s.engine
  corr : s.corr.items = [] → t.corr = s.corr := by exact fun _ => rfl
  print : s.text.print = none → t.text.print = none := by exact fun h => h

theorem State.Spares.refl (s : State) : s.Spares s := { engine := fun _ _ => rfl }

theorem State.Spares.trans {a b c : State} (h : a.Spares b) (k : b.Spares c) : a.Spares c where
  drive := k.drive.trans h.drive
  line := k.line.trans h.line
  display := k.display.trans h.display
  waiting := k.waiting.trans h.waiting
  resume := k.resume.trans h.resume
  engine := fun slots head => by
    have same := h.engine slots head
    exact (k.engine (same ▸ slots) (same ▸ head)).trans same
  corr := fun items => by
    have same := h.corr items
    exact (k.corr (same ▸ items)).trans same
  print := fun none => k.print (h.print none)

theorem State.Spares.foldl {α : Type} {f : State → α → State} (step : ∀ (s : State) (a : α), s.Spares (f s a)) :
    ∀ (l : List α) (s : State), s.Spares (l.foldl f s)
  | [], s => .refl s
  | a :: l, s => (step s a).trans (State.Spares.foldl step l _)

theorem Engine.clear_empty {e : Engine} (ids : List Nat) (slots : e.slots = []) (head : e.head = none) :
    { e with slots := e.slots.map (Op.forget ids), head := e.head.map (Op.forget ids) } = e := by
  rw [slots, head, List.map_nil, Option.map_none, ← slots, ← head]

theorem State.takeOut_spares (s : State) (ids : List Nat) : s.Spares (s.takeOut ids) where
  engine := fun slots head => Engine.clear_empty ids slots head
  print := fun none => by
    rw [State.takeOut, State.clearRefs, TextUnit.mapRecords]
    simp only [none, Option.map_none]

theorem State.removeOwner_spares (s : State) (e : Entry) : s.Spares (s.removeOwner e) := by
  unfold State.removeOwner
  extract_lets run s1 s2
  have out : s.Spares s1 := s.takeOut_spares _
  have marked : s1.Spares s2 :=
    { engine := fun _ _ => rfl
      print := fun none => by
        rw [show s2.text.print = s1.text.print.map _ from rfl, none, Option.map_none] }
  have completed : s2.Spares (s2.completeItem e) := by
    unfold State.completeItem
    split
    next any =>
      refine { engine := fun _ _ => rfl, waiting := ?_, resume := ?_, corr := fun empty => ?_, print := ?_ }
      · dsimp only; split <;> rfl
      · dsimp only; split <;> rfl
      · rw [empty] at any
        exact absurd any Bool.false_ne_true
      · dsimp only; split <;> exact fun h => h
    · exact .refl s2
  exact (out.trans marked).trans completed

theorem State.removeEntry_spares (s : State) (e : Entry) : s.Spares (s.removeEntry e) := by
  unfold State.removeEntry
  split
  · exact s.removeOwner_spares e
  · exact s.takeOut_spares _

theorem State.setEntryState_spares (s : State) (id : Nat) (st : EntryState) : s.Spares (s.setEntryState id st) where
  engine := fun _ _ => rfl
  print := fun none => by
    rw [State.setEntryState, TextUnit.modify, TextUnit.mapRecords]
    simp only [none, Option.map_none]

theorem State.lockEntry_spares (s : State) (o : Op) : s.Spares (s.lockEntry o) := by
  unfold State.lockEntry
  split
  · exact .refl s
  · split
    · exact .refl s
    · split
      · exact s.removeEntry_spares _
      · exact s.setEntryState_spares _ _
      · exact .refl s

theorem State.discardPrint_spares (s : State) : s.Spares s.discardPrint ∧ s.discardPrint.text.print = none := by
  unfold State.discardPrint
  split
  next none => exact ⟨.refl s, none⟩
  · exact ⟨{ engine := fun slots head => Engine.clear_empty _ slots head, print := fun _ => rfl }, rfl⟩

/-- The removal of the entry of a name, where one stands. -/
def State.removeNamed (s : State) (id : Nat) : State :=
  match s.text.find id with
  | some e => s.removeEntry e
  | none => s

theorem State.removeNamed_spares (s : State) (id : Nat) : s.Spares (s.removeNamed id) := by
  unfold State.removeNamed
  split
  · exact s.removeEntry_spares _
  · exact .refl s

/-! ## The entries that LOCKED takes out (R25, R75, Table 1-2) -/

/-- An entry that a removal names: it is QUEUED and its op is discarded, or it waited to be fed. -/
def Entry.Named (ops fed : List Nat) (e : Entry) : Prop := (e.id ∈ ops ∧ e.state = .queued) ∨ e.id ∈ fed

/-- An entry of a record that goes out: a named one, or a companion of a named owner. -/
def Entry.Goes (l : List Entry) (ops fed : List Nat) (e : Entry) : Prop :=
  e.Named ops fed ∨ ∃ o ∈ l, o.Named ops fed ∧ o.kind = .character ∧ e.owner = some o.id

/-- A LIFTING entry whose op is discarded returns to PRINTED. -/
def Entry.unlifted (ops : List Nat) (e : Entry) : Entry :=
  { e with state := if e.state = .lifting ∧ e.id ∈ ops then .printed else e.state }

/-- A record after the removal of some entries. -/
structure Sheds (l m : List Entry) (ops fed : List Nat) : Prop where
  stays : ∀ e ∈ l, ¬e.Goes l ops fed → ∃ y ∈ m, y = { e.unlifted ops with mark := y.mark }
  stood : ∀ y ∈ m, ∃ e ∈ l, ¬e.Goes l ops fed ∧ y = { e.unlifted ops with mark := y.mark }

/-- A removal from the line records, with what it leaves of the names that wait to be fed. -/
structure State.Sheds (s t : State) (ops fed : List Nat) : Prop where
  names : (t.text.allEntries.map Entry.id).Sublist (s.text.allEntries.map Entry.id)
  work : Machine.Sheds s.text.work.entries t.text.work.entries ops fed
  feeding : ∀ i, i ∈ t.text.feeding → i ∈ s.text.feeding
  unfed : ∀ i ∈ s.text.feeding, i ∉ t.text.feeding → i ∉ t.text.allEntries.map Entry.id

theorem Entry.unlifted_queued {ops : List Nat} {e : Entry} : (e.unlifted ops).state = .queued ↔ e.state = .queued := by
  unfold Entry.unlifted
  dsimp only
  split
  next lifting => simp [lifting.1]
  · exact Iff.rfl

/-- What stays of a record has its owners. -/
theorem Sheds.owned {r q : LineRecord} {ops fed : List Nat} (h : Sheds r.entries q.entries ops fed) (owned : r.Owned) :
    q.Owned := by
  obtain ⟨unowned, stands⟩ := owned
  refine ⟨fun y hy char => ?_, fun y hy companion => ?_⟩
  · obtain ⟨e, he, -, eq⟩ := h.stood y hy
    rw [eq] at char ⊢
    exact unowned e he char
  · obtain ⟨e, he, stays, eq⟩ := h.stood y hy
    rw [eq] at companion
    obtain ⟨o, ho, owner, char⟩ := stands e he companion
    have kept : ¬o.Goes r.entries ops fed := by
      rintro (named | ⟨p, hp, -, -, own⟩)
      · exact stays (.inr ⟨o, ho, named, char, owner⟩)
      · rw [unowned o ho char] at own
        exact absurd own (Option.some_ne_none _).symm
    obtain ⟨z, hz, same⟩ := h.stays o ho kept
    refine ⟨z, hz, ?_, ?_⟩
    · rw [eq, same]
      exact owner
    · rw [same]
      exact char

/-- An entry that stays is named by a further removal as it was before. -/
theorem Entry.named_unlifted {ops ops' fed' : List Nat} {e y : Entry} (same : y = { e.unlifted ops with mark := y.mark }) :
    y.Named ops' fed' ↔ e.Named ops' fed' := by
  have id : y.id = e.id := by rw [same]; rfl
  have state : y.state = .queued ↔ e.state = .queued := by
    rw [show y.state = (e.unlifted ops).state by rw [same]]
    exact Entry.unlifted_queued
  rw [Entry.Named, Entry.Named, id, state]

theorem Entry.named_append {ops ops' fed fed' : List Nat} {e : Entry} :
    e.Named (ops ++ ops') (fed ++ fed') ↔ e.Named ops fed ∨ e.Named ops' fed' := by
  simp only [Entry.Named, List.mem_append]
  tauto

/-- What goes out by two removals goes out by the first, or stays there and goes out by the second. -/
theorem Sheds.goes_iff {l m : List Entry} {ops fed ops' fed' : List Nat} (h : Sheds l m ops fed)
    (unowned : ∀ e ∈ l, e.kind = .character → e.owner = none) {e y : Entry} (stays : ¬e.Goes l ops fed)
    (same : y = { e.unlifted ops with mark := y.mark }) :
    e.Goes l (ops ++ ops') (fed ++ fed') ↔ y.Goes m ops' fed' := by
  have owner : y.owner = e.owner := by rw [same]; rfl
  constructor
  · rintro (named | ⟨p, hp, named, char, own⟩)
    · rcases Entry.named_append.mp named with named | named
      · exact absurd (.inl named) stays
      · exact .inl ((Entry.named_unlifted same).mpr named)
    · rcases Entry.named_append.mp named with named | named
      · exact absurd (.inr ⟨p, hp, named, char, own⟩) stays
      · have kept : ¬p.Goes l ops fed := by
          rintro (first | ⟨q, hq, -, -, own'⟩)
          · exact stays (.inr ⟨p, hp, first, char, own⟩)
          · rw [unowned p hp char] at own'
            exact absurd own' (Option.some_ne_none _).symm
        obtain ⟨z, hz, same_p⟩ := h.stays p hp kept
        refine .inr ⟨z, hz, (Entry.named_unlifted same_p).mpr named, ?_, ?_⟩
        · rw [same_p]
          exact char
        · rw [owner, own, same_p]
          rfl
  · rintro (named | ⟨z, hz, named, char, own⟩)
    · exact .inl (Entry.named_append.mpr (.inr ((Entry.named_unlifted same).mp named)))
    · obtain ⟨p, hp, -, same_p⟩ := h.stood z hz
      refine .inr ⟨p, hp, Entry.named_append.mpr (.inr ((Entry.named_unlifted same_p).mp named)), ?_, ?_⟩
      · rw [same_p] at char
        exact char
      · rw [← owner, own, same_p]
        rfl

theorem Entry.unlifted_append {ops ops' : List Nat} {e y z : Entry} (first : y = { e.unlifted ops with mark := y.mark })
    (then_ : z = { y.unlifted ops' with mark := z.mark }) : z = { e.unlifted (ops ++ ops') with mark := z.mark } := by
  rw [then_, first]
  unfold Entry.unlifted
  simp only [List.mem_append, Entry.mk.injEq, true_and, and_true]
  by_cases lifting : e.state = .lifting
  · by_cases h : e.id ∈ ops <;> by_cases h' : e.id ∈ ops' <;> simp [lifting, h, h']
  · simp [lifting]

theorem Sheds.trans {l m n : List Entry} {ops fed ops' fed' : List Nat} (h : Sheds l m ops fed) (k : Sheds m n ops' fed')
    (unowned : ∀ e ∈ l, e.kind = .character → e.owner = none) : Sheds l n (ops ++ ops') (fed ++ fed') where
  stays := fun e he stays => by
    have first : ¬e.Goes l ops fed := by
      rintro (named | ⟨p, hp, named, rest⟩)
      · exact stays (.inl (Entry.named_append.mpr (.inl named)))
      · exact stays (.inr ⟨p, hp, Entry.named_append.mpr (.inl named), rest⟩)
    obtain ⟨y, hy, same⟩ := h.stays e he first
    obtain ⟨z, hz, same'⟩ := k.stays y hy (fun goes => stays ((h.goes_iff unowned first same).mpr goes))
    exact ⟨z, hz, Entry.unlifted_append same same'⟩
  stood := fun z hz => by
    obtain ⟨y, hy, second, same'⟩ := k.stood z hz
    obtain ⟨e, he, first, same⟩ := h.stood y hy
    exact ⟨e, he, fun goes => second ((h.goes_iff unowned first same).mp goes), Entry.unlifted_append same same'⟩

theorem Entry.goes_nil {l : List Entry} {e : Entry} : ¬e.Goes l [] [] := by
  simp [Entry.Goes, Entry.Named]

theorem Sheds.refl (l : List Entry) : Sheds l l [] [] where
  stays := fun e he _ => ⟨e, he, by simp [Entry.unlifted]⟩
  stood := fun e he => ⟨e, he, Entry.goes_nil, by simp [Entry.unlifted]⟩

/-- A removal depends on the names of the record's entries alone. -/
theorem Sheds.congr {l m : List Entry} {ops fed fed' : List Nat} (h : Sheds l m ops fed)
    (same_fed : ∀ e ∈ l, e.id ∈ fed ↔ e.id ∈ fed') : Sheds l m ops fed' := by
  have named (e : Entry) (he : e ∈ l) : e.Named ops fed ↔ e.Named ops fed' := or_congr Iff.rfl (same_fed e he)
  have goes (e : Entry) (he : e ∈ l) : e.Goes l ops fed ↔ e.Goes l ops fed' :=
    or_congr (named e he) (exists_congr (fun o => and_congr_right (fun ho => and_congr_left (fun _ => named o ho))))
  refine ⟨fun e he stays => h.stays e he (fun g => stays ((goes e he).mp g)), fun y hy => ?_⟩
  obtain ⟨e, he, stays, same⟩ := h.stood y hy
  exact ⟨e, he, fun g => stays ((goes e he).mpr g), same⟩

/-! ### One removal after another -/

theorem State.Sheds.refl (s : State) : s.Sheds s [] [] :=
  ⟨.refl _, .refl _, fun _ h => h, fun _ h k => absurd h k⟩

theorem State.Sheds.trans {a b c : State} {ops fed ops' fed' : List Nat} (h : a.Sheds b ops fed) (k : b.Sheds c ops' fed')
    (owned : a.text.work.Owned) : a.Sheds c (ops ++ ops') (fed ++ fed') where
  names := k.names.trans h.names
  work := h.work.trans k.work owned.1
  feeding := fun i hi => h.feeding i (k.feeding i hi)
  unfed := fun i hi out => by
    by_cases mid : i ∈ b.text.feeding
    · exact k.unfed i mid out
    · exact fun hc => h.unfed i hi mid (k.names.subset hc)

theorem State.Sheds.foldl {α : Type} {f : State → α → State} {ops fed : α → List Nat}
    (step : ∀ (s : State) (a : α), (s.text.allEntries.map Entry.id).Nodup → s.text.work.Owned →
      s.Sheds (f s a) (ops a) (fed a)) (l : List α) {s : State} (unique : (s.text.allEntries.map Entry.id).Nodup)
    (owned : s.text.work.Owned) : s.Sheds (l.foldl f s) (l.flatMap ops) (l.flatMap fed) := by
  induction l generalizing s with
  | nil => exact .refl s
  | cons a l ih =>
    have first := step s a unique owned
    rw [List.flatMap_cons, List.flatMap_cons]
    exact first.trans (ih (unique.sublist first.names) (first.work.owned owned)) owned

/-! ### The removal of an entry, and the return of a LIFTING one -/

theorem Entry.unlifted_same {ops : List Nat} {e : Entry} (h : e.id ∈ ops → e.state ≠ .lifting) : e.unlifted ops = e := by
  unfold Entry.unlifted
  rw [if_neg (fun c => h c.2 c.1)]

/-- The entries of the working line of which a test keeps the others, but for their marks. -/
theorem Sheds.of_filter {l m : List Entry} {ops fed : List Nat} {f : Entry → Bool} {g : Entry → Entry}
    (eq : m = (l.filter f).map g) (marks : ∀ e, ∃ k, g e = { e with mark := k })
    (free : ∀ e ∈ l, e.id ∈ ops → e.state ≠ .lifting) (goes : ∀ e ∈ l, f e = true ↔ ¬e.Goes l ops fed) :
    Sheds l m ops fed := by
  have marked (e : Entry) (he : e ∈ l) : g e = { e.unlifted ops with mark := (g e).mark } := by
    obtain ⟨k, same⟩ := marks e
    rw [Entry.unlifted_same (free e he), same]
  subst eq
  refine ⟨fun e he stays => ⟨g e, List.mem_map_of_mem (List.mem_filter.mpr ⟨he, (goes e he).mpr stays⟩), marked e he⟩,
    fun y hy => ?_⟩
  obtain ⟨e, he, rfl⟩ := List.mem_map.mp hy
  obtain ⟨he, kept⟩ := List.mem_filter.mp he
  exact ⟨e, he, (goes e he).mp kept, marked e he⟩

theorem State.takeOut_names (s : State) (ids : List Nat) :
    ((s.takeOut ids).text.allEntries.map Entry.id).Sublist (s.text.allEntries.map Entry.id) := by
  have out : (s.takeOut ids).text.allEntries = (s.text.mapRecords (fun r => r.keep (fun e => !ids.contains e.id))).allEntries := rfl
  have keeps (l : List Entry) : ((l.filter (fun e => !ids.contains e.id)).map Entry.id).Sublist (l.map Entry.id) :=
    List.filter_sublist.map _
  rw [out, TextUnit.allEntries, TextUnit.allEntries, TextUnit.mapRecords, List.map_append, List.map_append]
  refine List.Sublist.append (keeps _) ?_
  cases s.text.print with
  | none => exact .refl _
  | some p => exact keeps _

theorem State.completeItem_feeding (s : State) (e : Entry) : (s.completeItem e).text.feeding = s.text.feeding := by
  unfold State.completeItem
  split
  · dsimp only
    split <;> rfl
  · rfl

theorem State.removeOwner_feeding (s : State) (e : Entry) : (s.removeOwner e).text.feeding
    = s.text.feeding.filter (fun i => !(e.id :: s.text.companions e.id).contains i) := by
  unfold State.removeOwner
  extract_lets run s1 s2
  exact (s2.completeItem_feeding e).trans rfl

/-- A removal that takes some names out of the records and out of those that wait to be fed. -/
theorem State.Sheds.of_ids {s t : State} {ops fed ids : List Nat}
    (names : (t.text.allEntries.map Entry.id).Sublist (s.text.allEntries.map Entry.id))
    (work : Machine.Sheds s.text.work.entries t.text.work.entries ops fed)
    (feeding : t.text.feeding = s.text.feeding.filter (fun i => !ids.contains i))
    (out : ∀ i ∈ ids, t.text.find i = none) : s.Sheds t ops fed where
  names := names
  work := work
  feeding := fun i hi => (List.mem_filter.mp (feeding ▸ hi)).1
  unfed := fun i hi gone named => by
    have mem : i ∈ ids := by
      by_contra absent
      exact gone (by rw [feeding]; exact List.mem_filter.mpr ⟨hi, by simpa using absent⟩)
    obtain ⟨x, hx, same⟩ := List.mem_map.mp named
    exact (TextUnit.find_eq_none_iff _ _).mp (out i mem) x hx same

/-- The removal of an entry that a test names. -/
theorem State.removeEntry_sheds {s : State} {e : Entry} {ops fed : List Nat} (unique : (s.text.allEntries.map Entry.id).Nodup)
    (owned : s.text.work.Owned) (he : e ∈ s.text.allEntries)
    (names : ∀ x ∈ s.text.work.entries, x.Named ops fed ↔ x.id = e.id)
    (free : ∀ x ∈ s.text.work.entries, x.id ∈ ops → x.state ≠ .lifting) : s.Sheds (s.removeEntry e) ops fed := by
  have goes (x : Entry) (hx : x ∈ s.text.work.entries) : x.Goes s.text.work.entries ops fed
      ↔ x.id = e.id ∨ (e.kind = .character ∧ x.owner = some e.id) := by
    refine or_congr (names x hx) ⟨?_, fun ⟨char, own⟩ => ?_⟩
    · rintro ⟨o, ho, named, char, own⟩
      have same := (names o ho).mp named
      obtain rfl : o = e := eq_of_id unique (List.mem_append_left _ ho) he same
      exact ⟨char, own⟩
    · have companion : x.kind ≠ .character := fun h => by
        rw [owned.1 x hx h] at own
        exact absurd own (Option.some_ne_none _).symm
      obtain ⟨o, ho, own', char'⟩ := owned.2 x hx companion
      have same : o.id = e.id := Option.some.inj (own'.symm.trans own)
      exact ⟨o, ho, (names o ho).mpr same, char', own'⟩
  by_cases char : e.isChar = true
  · rw [State.removeEntry, if_pos char]
    refine .of_ids (s.removeOwner_allEntries e) ?_ (s.removeOwner_feeding e) (fun i hi => State.removeOwner_find hi)
    refine .of_filter (s.removeOwner_work e) (fun x => ?_) free (fun x hx => ?_)
    · split
      · exact ⟨.plain, rfl⟩
      · exact ⟨x.mark, rfl⟩
    · rw [Bool.not_eq_true', Bool.eq_false_iff, ne_eq, State.goesOut_iff unique hx, goes x hx]
      simp [of_decide_eq_true char]
  · rw [State.removeEntry, if_neg char]
    refine .of_ids (ids := [e.id]) (s.takeOut_names _) ?_ rfl (fun i hi => s.takeOut_gone hi)
    refine .of_filter (g := fun x => x) (List.map_id' _).symm (fun x => ⟨x.mark, rfl⟩) free (fun x hx => ?_)
    have companion : e.kind ≠ .character := by simpa [Entry.isChar] using char
    rw [goes x hx]
    simp [companion]

theorem State.setEntryState_names (s : State) (id : Nat) (st : EntryState) :
    (s.setEntryState id st).text.allEntries.map Entry.id = s.text.allEntries.map Entry.id := by
  have keeps (l : List Entry) :
      (l.map (fun e => if e.id = id then { e with state := st } else e)).map Entry.id = l.map Entry.id := by
    rw [List.map_map]
    refine List.map_congr_left (fun e _ => ?_)
    rw [Function.comp_apply]
    split <;> rfl
  rw [State.setEntryState_text, TextUnit.modify, TextUnit.mapRecords, TextUnit.allEntries, TextUnit.allEntries]
  cases print : s.text.print with
  | none => simp only [Option.map_none, List.append_nil, keeps]
  | some p => simp only [Option.map_some, List.map_append, keeps]

theorem TextUnit.find_mem {t : TextUnit} {id : Nat} {e : Entry} (found : t.find id = some e) : e ∈ t.allEntries :=
  List.mem_of_find?_eq_some found

/-- Nothing stands that a removal names. -/
theorem State.Sheds.nothing {s : State} {ops fed : List Nat} (unnamed : ∀ x ∈ s.text.work.entries, ¬x.Named ops fed)
    (free : ∀ x ∈ s.text.work.entries, x.id ∈ ops → x.state ≠ .lifting) : s.Sheds s ops fed where
  names := .refl _
  work := by
    refine .of_filter (f := fun _ => true) (g := fun x => x) (by simp) (fun x => ⟨x.mark, rfl⟩) free (fun x hx => ?_)
    refine iff_of_true rfl ?_
    rintro (named | ⟨o, ho, named, -⟩)
    · exact unnamed x hx named
    · exact unnamed o ho named
  feeding := fun _ h => h
  unfed := fun _ h k => absurd h k

/-- What LOCKED does to the entry of a discarded op (R75, Table 1-2). -/
theorem State.lockEntry_sheds (s : State) (o : Op) (unique : (s.text.allEntries.map Entry.id).Nodup)
    (owned : s.text.work.Owned) : s.Sheds (s.lockEntry o) o.ref.toList [] := by
  have named (x : Entry) (i : Nat) : x.Named [i] [] ↔ x.id = i ∧ x.state = .queued := by simp [Entry.Named]
  unfold State.lockEntry
  cases ref : o.ref with
  | none => exact .refl s
  | some id =>
    dsimp only [Option.toList]
    cases found : s.text.find id with
    | none =>
      have absent (x : Entry) (hx : x ∈ s.text.work.entries) : x.id ≠ id :=
        (TextUnit.find_eq_none_iff _ _).mp found x (List.mem_append_left _ hx)
      exact .nothing (fun x hx h => absent x hx ((named x id).mp h).1)
        (fun x hx h => absurd (List.mem_singleton.mp h) (absent x hx))
    | some e =>
      have e_id := TextUnit.find_id found
      have the_one (x : Entry) (hx : x ∈ s.text.work.entries) (same : x.id = id) : x = e :=
        eq_of_id unique (List.mem_append_left _ hx) (TextUnit.find_mem found) (same.trans e_id.symm)
      dsimp only
      cases state : e.state with
      | queued =>
        refine State.removeEntry_sheds unique owned (TextUnit.find_mem found) (fun x hx => ?_) (fun x hx h => ?_)
        · rw [named, e_id]
          exact and_iff_left_of_imp (fun same => the_one x hx same ▸ state)
        · rw [the_one x hx (List.mem_singleton.mp h), state]
          decide
      | lifting =>
        refine ⟨(s.setEntryState_names id .printed) ▸ .refl _, ?_, fun _ h => h, fun _ h k => absurd h k⟩
        have stays (x : Entry) (hx : x ∈ s.text.work.entries) : ¬x.Goes s.text.work.entries [id] [] := by
          have unnamed (y : Entry) (hy : y ∈ s.text.work.entries) : ¬y.Named [id] [] := fun h => by
            obtain ⟨same, queued⟩ := (named y id).mp h
            rw [the_one y hy same, state] at queued
            exact absurd queued (by decide)
          rintro (h | ⟨y, hy, h, -⟩)
          · exact unnamed x hx h
          · exact unnamed y hy h
        have becomes (x : Entry) (hx : x ∈ s.text.work.entries) :
            (if x.id = id then { x with state := .printed } else x) = x.unlifted [id] := by
          unfold Entry.unlifted
          by_cases same : x.id = id
          · rw [if_pos same, if_pos ⟨the_one x hx same ▸ state, List.mem_singleton.mpr same⟩]
          · rw [if_neg same, if_neg (fun h => same (List.mem_singleton.mp h.2))]
        refine ⟨fun x hx _ => ⟨_, List.mem_map_of_mem hx, by rw [becomes x hx]⟩, fun y hy => ?_⟩
        obtain ⟨x, hx, rfl⟩ := List.mem_map.mp hy
        exact ⟨x, hx, stays x hx, by rw [becomes x hx]⟩
      | pending | printed =>
        refine .nothing (fun x hx h => ?_) (fun x hx h => ?_)
        · obtain ⟨same, queued⟩ := (named x id).mp h
          rw [the_one x hx same, state] at queued
          exact absurd queued (by decide)
        · rw [the_one x hx (List.mem_singleton.mp h), state]
          decide

theorem State.removeNamed_sheds (s : State) (id : Nat) (unique : (s.text.allEntries.map Entry.id).Nodup)
    (owned : s.text.work.Owned) : s.Sheds (s.removeNamed id) [] [id] := by
  have named (x : Entry) : x.Named [] [id] ↔ x.id = id := by simp [Entry.Named]
  have free (x : Entry) (_ : x ∈ s.text.work.entries) (h : x.id ∈ []) : x.state ≠ .lifting := absurd h List.not_mem_nil
  unfold State.removeNamed
  cases found : s.text.find id with
  | none =>
    exact .nothing (fun x hx h => (TextUnit.find_eq_none_iff _ _).mp found x (List.mem_append_left _ hx) ((named x).mp h)) free
  | some e =>
    exact State.removeEntry_sheds unique owned (TextUnit.find_mem found)
      (fun x _ => by rw [named, TextUnit.find_id found]) free

theorem State.discardPrint_sheds (s : State) : s.Sheds s.discardPrint [] [] := by
  unfold State.discardPrint
  cases print : s.text.print with
  | none => exact .refl s
  | some p =>
    refine ⟨?_, .refl _, fun _ h => h, fun _ h k => absurd h k⟩
    show ((s.text.work.entries ++ []).map Entry.id).Sublist _
    rw [List.append_nil, TextUnit.allEntries]
    exact (List.sublist_append_left _ _).map _

/-! ## The end of a feeding run (R25) -/

/-- The removals of a held run that was feeding. -/
def State.unfeed (s : State) : State := s.text.feeding.foldl State.removeNamed s

/-- The run that was feeding stands no more. -/
def State.runEnded (s : State) : State :=
  { s with text := { s.text with feeding := [], waiting := none, resume := none } }

theorem State.endFeedingLocked_feeding {s : State} (waits : s.text.waiting = some .runFeeding) :
    s.endFeedingLocked = match s.text.resume with
      | some r => s.unfeed.runEnded.refuse r.action
      | none => s.unfeed.runEnded := by
  simp only [State.endFeedingLocked, waits]
  rfl

theorem State.endFeedingLocked_stands {s : State} (idle : s.text.waiting ≠ some .runFeeding) : s.endFeedingLocked = s := by
  unfold State.endFeedingLocked
  split
  next waits => exact absurd waits idle
  · rfl

theorem State.unfeed_spares (s : State) : s.Spares s.unfeed := .foldl State.removeNamed_spares _ s

theorem State.unfeed_sheds (s : State) (unique : (s.text.allEntries.map Entry.id).Nodup)
    (owned : s.text.work.Owned) : s.Sheds s.unfeed [] s.text.feeding := by
  have all := State.Sheds.foldl State.removeNamed_sheds s.text.feeding unique owned
  rwa [List.flatMap_singleton', List.flatMap_eq_nil_iff.mpr (fun _ _ => rfl)] at all

/-! ## LOCKED (R75) -/

/-- The state in which LOCKED works on the entries: the strike queue is empty and no correction is under way. -/
def State.emptied (s : State) : State :=
  let s1 : State := State.setQueue { s with corr := .idle } [] none
  { s1 with engine := { s1.engine with progress := none } }

/-- The removals of LOCKED but for those of a feeding run. -/
def State.unqueued (s : State) : State :=
  ((s.engine.head.toList ++ s.engine.slots).foldl State.lockEntry s.emptied).discardPrint

theorem State.enterLocked_eq (s : State) (code : FaultCode) : s.enterLocked code
    = ((((s.unqueued.endFeedingLocked).post code.message).post .locked).sound .alarm).setEngine .locked := rfl

theorem State.unqueued_spares (s : State) : s.emptied.Spares s.unqueued ∧ s.unqueued.text.print = none := by
  obtain ⟨spares, print⟩ := State.discardPrint_spares ((s.engine.head.toList ++ s.engine.slots).foldl State.lockEntry s.emptied)
  exact ⟨(State.Spares.foldl State.lockEntry_spares _ _).trans spares, print⟩

/-- The names of the entries whose ops LOCKED discards. -/
def Engine.refs (e : Engine) : List Nat := (e.head.toList ++ e.slots).flatMap (fun o => o.ref.toList)

theorem State.unqueued_sheds (s : State) (unique : (s.text.allEntries.map Entry.id).Nodup) (owned : s.text.work.Owned) :
    s.emptied.Sheds s.unqueued s.engine.refs [] := by
  have ops := State.Sheds.foldl State.lockEntry_sheds (s.engine.head.toList ++ s.engine.slots) (s := s.emptied) unique owned
  rw [List.flatMap_eq_nil_iff.mpr (fun _ _ => rfl)] at ops
  have all := ops.trans (State.discardPrint_sheds _) owned
  rwa [List.append_nil] at all

theorem Engine.mem_refs (e : Engine) (i : Nat) :
    i ∈ e.refs ↔ (e.head.toList ++ e.slots).any (fun o => decide (o.ref = some i)) = true := by
  simp only [Engine.refs, List.mem_flatMap, Option.mem_toList, List.any_eq_true, decide_eq_true_iff]

/-- What LOCKED leaves of the engine, the drive, the messages and the correction unit. -/
structure State.Locked (s t : State) (code : FaultCode) : Prop where
  drive : t.drive = s.drive
  engine : t.engine = { s.engine with slots := [], head := none, progress := none, state := .locked }
  corr : t.corr = .idle
  print : t.text.print = none
  display : t.display = (s.display.post code.message).post .locked
  line : t.line =
    let emptied := if s.engine.emptyMark then s.line else s.line.askState
    let refused := if s.text.waiting = some .runFeeding ∧ (∃ r, s.text.resume = some r ∧ r.action.source = .keyboard) then
      emptied.sound .click else emptied
    if s.engine.state = .locked then refused.sound .alarm else (refused.sound .alarm).askState

theorem State.emptied_line (s : State) :
    s.emptied.line = if s.engine.emptyMark then s.line else s.line.askState := by
  show (if (([] : List Op).isEmpty && (none : Option Op).isNone) == s.engine.emptyMark then _ else _) = _
  cases s.engine.emptyMark <;> rfl

/-- What the end of a feeding run leaves at LOCKED. -/
theorem State.endFeedingLocked_told (s : State) (slots : s.engine.slots = [])
    (head : s.engine.head = none) (items : s.corr.items = []) (print : s.text.print = none) :
    s.endFeedingLocked.drive = s.drive ∧ s.endFeedingLocked.engine = s.engine ∧ s.endFeedingLocked.corr = s.corr
      ∧ s.endFeedingLocked.text.print = none ∧ s.endFeedingLocked.display = s.display
      ∧ s.endFeedingLocked.line
        = if s.text.waiting = some .runFeeding ∧ (∃ r, s.text.resume = some r ∧ r.action.source = .keyboard) then
          s.line.sound .click else s.line := by
  have spares := s.unfeed_spares
  by_cases waits : s.text.waiting = some .runFeeding
  · rw [State.endFeedingLocked_feeding waits]
    cases resume : s.text.resume with
    | none =>
      refine ⟨spares.drive, spares.engine slots head, spares.corr items, spares.print print, spares.display, ?_⟩
      rw [if_neg (fun h => by obtain ⟨-, r, some_r, -⟩ := h; cases some_r)]
      exact spares.line
    | some r =>
      dsimp only [State.refuse]
      cases source : r.action.source with
      | keyboard =>
        refine ⟨spares.drive, spares.engine slots head, spares.corr items, spares.print print, spares.display, ?_⟩
        rw [if_pos ⟨waits, r, rfl, source⟩]
        exact congrArg (LineInterface.sound · .click) spares.line
      | interface =>
        refine ⟨spares.drive, spares.engine slots head, spares.corr items, spares.print print, spares.display, ?_⟩
        rw [if_neg (fun h => by
          obtain ⟨-, r', same, keyboard⟩ := h
          rw [← Option.some.inj same, source] at keyboard
          cases keyboard)]
        exact spares.line
  · rw [State.endFeedingLocked_stands waits, if_neg (fun h => waits h.1)]
    exact ⟨rfl, rfl, rfl, print, rfl, rfl⟩

/-- The last step of LOCKED: the messages, ALARM and the state. -/
def State.lockUp (s : State) (code : FaultCode) : State :=
  (((s.post code.message).post .locked).sound .alarm).setEngine .locked

theorem State.lockUp_told (s : State) (code : FaultCode) : (s.lockUp code).drive = s.drive
    ∧ (s.lockUp code).engine = { s.engine with state := .locked } ∧ (s.lockUp code).corr = s.corr
    ∧ (s.lockUp code).text = s.text ∧ (s.lockUp code).display = (s.display.post code.message).post .locked
    ∧ (s.lockUp code).line
      = if s.engine.state = .locked then s.line.sound .alarm else (s.line.sound .alarm).askState :=
  ⟨rfl, rfl, rfl, rfl, rfl, rfl⟩

theorem State.enterLocked_locked (s : State) (code : FaultCode) : s.Locked (s.enterLocked code) code := by
  obtain ⟨spares, print⟩ := s.unqueued_spares
  have engine : s.unqueued.engine = s.emptied.engine := spares.engine rfl rfl
  have corr : s.unqueued.corr = .idle := spares.corr rfl
  obtain ⟨drive', engine', corr', print', display', line'⟩ :=
    s.unqueued.endFeedingLocked_told (by rw [engine]; rfl) (by rw [engine]; rfl) (by rw [corr]; rfl) print
  obtain ⟨drive₂, engine₂, corr₂, text₂, display₂, line₂⟩ := s.unqueued.endFeedingLocked.lockUp_told code
  have locked : s.enterLocked code = s.unqueued.endFeedingLocked.lockUp code := s.enterLocked_eq code
  have waiting : s.unqueued.text.waiting = s.text.waiting := spares.waiting
  have resume : s.unqueued.text.resume = s.text.resume := spares.resume
  have state : s.emptied.engine.state = s.engine.state := rfl
  rw [spares.line, s.emptied_line, waiting, resume] at line'
  rw [locked]
  refine ⟨drive₂.trans (drive'.trans spares.drive), ?_, corr₂.trans (corr'.trans corr), (congrArg TextUnit.print text₂).trans print', ?_, ?_⟩
  · rw [engine₂, engine', engine]
    rfl
  · rw [display₂, display', spares.display]
    rfl
  · rw [line₂, line', engine', engine, state]

/-- The entries that LOCKED takes out. -/
theorem State.enterLocked_sheds (s : State) (code : FaultCode) (unique : (s.text.allEntries.map Entry.id).Nodup)
    (owned : s.text.work.Owned) : Machine.Sheds s.text.work.entries (s.enterLocked code).text.work.entries s.engine.refs
      (if s.text.waiting = some .runFeeding then s.text.feeding else []) := by
  have first := s.unqueued_sheds unique owned
  obtain ⟨-, -, -, text, -⟩ := s.unqueued.endFeedingLocked.lockUp_told code
  have locked : s.enterLocked code = s.unqueued.endFeedingLocked.lockUp code := s.enterLocked_eq code
  rw [locked, text]
  have waiting : s.unqueued.text.waiting = s.text.waiting := s.unqueued_spares.1.waiting
  by_cases waits : s.text.waiting = some .runFeeding
  · rw [if_pos waits]
    have second := s.unqueued.unfeed_sheds (unique.sublist first.names) (first.work.owned owned)
    have both := first.work.trans (second.work.congr (fed' := s.text.feeding) (fun y hy => ?_)) owned.1
    · rw [List.append_nil, List.nil_append] at both
      have ended : s.unqueued.endFeedingLocked.text.work = s.unqueued.unfeed.text.work := by
        rw [State.endFeedingLocked_feeding (waiting.trans waits)]
        cases s.unqueued.text.resume with
        | none => rfl
        | some r =>
          dsimp only [State.refuse]
          cases r.action.source <;> rfl
      rw [ended]
      exact both
    · refine ⟨first.feeding _, fun fed => ?_⟩
      by_contra gone
      exact first.unfed _ fed gone (List.mem_map_of_mem (List.mem_append_left _ hy))
  · rw [if_neg waits, State.endFeedingLocked_stands (by rw [waiting]; exact waits)]
    exact first.work

/-! ## The op that a fault puts back (R72) -/

theorem Engine.putBackHead_eq (e : Engine) : e.putBackHead =
    { e with head := e.putBackHead.head, progress := e.putBackHead.progress, lateFeed := e.putBackHead.lateFeed } := by
  unfold Engine.putBackHead
  split <;> rfl

theorem Engine.putBackHead_progress {e : Engine} (bare : e.head = none → e.progress = none) :
    e.putBackHead.progress = none := by
  unfold Engine.putBackHead
  cases head : e.head with
  | none => exact bare head
  | some o =>
    cases progress : e.progress with
    | none => exact progress
    | some p => rfl

/-- A RETURN's feed that still runs is remembered. -/
theorem Engine.putBackHead_late {e : Engine} (bare : e.head = none → e.progress = none) :
    e.putBackHead.lateFeed = (e.lateFeed || e.progress.any (fun p =>
      decide (p.stage = .returning true true) || decide (p.stage = .returning false true))) := by
  unfold Engine.putBackHead
  cases progress : e.progress with
  | none =>
    rw [Option.any_none, Bool.or_false]
    split
    next some_p => cases some_p
    · rfl
  | some p =>
    cases head : e.head with
    | none => exact absurd (progress.symm.trans (bare head)) (Option.some_ne_none p)
    | some o =>
      refine congrArg (e.lateFeed || ·) ?_
      rw [Option.any_some]
      split
      next both stage =>
        rw [stage]
        cases both <;> rfl
      next other =>
        rw [decide_eq_false (other true), decide_eq_false (other false)]
        rfl

theorem putBack_eq (o : Op) (p : Progress) : putBack o p =
    if o.kind = .carriageReturn ∧ (p.stage = .returning true false ∨ p.stage = .returning false false)
      then { o with feed := 0 } else o := by
  unfold putBack
  split
  next both kind stage =>
    rw [if_pos]
    rw [stage]
    cases both
    · exact ⟨kind, .inr rfl⟩
    · exact ⟨kind, .inl rfl⟩
  next other => exact (if_neg (fun ⟨kind, stage⟩ => stage.elim (other _ kind) (other _ kind))).symm

theorem putBack_ref (o : Op) (p : Progress) : (putBack o p).ref = o.ref := by
  rw [putBack_eq]
  split <;> rfl

/-! ## The fault (R72, R93) -/

/-- The stop of a fault, before the engine becomes HALTED or LOCKED. -/
def State.stopped (s : State) (code : FaultCode) : State :=
  let e := s.engine.putBackHead
  let d : Drive := { s.drive with carriage := s.drive.carriage.stop, wheel := .idle }
  let s1 : State :=
    { s with
      drive := d.releaseLifts.stopDeadlines,
      engine :=
        { e with
          carriage := none, petal := none, restMove := false, homing := none,
          startHomed := e.startHomed || (match e.homing with
            | some h => decide (h.kind = .start)
            | none => false) } }
  ((s1.setFault code).post code.message).sound .alarm

theorem State.raiseFault_halted {s : State} {code : FaultCode} (other : ∀ h, s.engine.homing = some h → h.kind ≠ .clear) :
    s.raiseFault code = (s.stopped code).setEngine .halted := by
  unfold State.raiseFault
  cases homing : s.engine.homing with
  | none => rfl
  | some h => exact if_neg (other h homing)

theorem State.raiseFault_locked {s : State} {code : FaultCode} {h : Homing} (homing : s.engine.homing = some h)
    (clear : h.kind = .clear) : s.raiseFault code = (s.stopped code).enterLocked code := by
  unfold State.raiseFault
  rw [homing]
  exact if_pos clear

theorem State.stopped_engine (s : State) (code : FaultCode) : (s.stopped code).engine =
    { s.engine with
      head := s.engine.putBackHead.head, progress := s.engine.putBackHead.progress,
      lateFeed := s.engine.putBackHead.lateFeed, carriage := none, petal := none, restMove := false, homing := none,
      startHomed := s.engine.startHomed || s.engine.homing.any (fun h => decide (h.kind = .start)), fault := code } := by
  have homed (e : Engine) : (e.startHomed || (match e.homing with
      | some h => decide (h.kind = .start)
      | none => false)) = (e.startHomed || e.homing.any (fun h => decide (h.kind = .start))) := by cases e.homing <;> rfl
  have kept : (s.stopped code).engine = { s.engine.putBackHead with
      carriage := none, petal := none, restMove := false, homing := none,
      startHomed := s.engine.putBackHead.startHomed || s.engine.putBackHead.homing.any (fun h => decide (h.kind = .start)),
      fault := code } := by
    rw [← homed]
    rfl
  rw [kept, s.engine.putBackHead_eq]

/-- A put-back op stands for the same entry. -/
theorem State.stopped_refs (s : State) (code : FaultCode) :
    (s.stopped code).engine.refs = s.engine.refs ∧ (s.stopped code).engine.emptyMark = s.engine.emptyMark := by
  rw [State.stopped_engine, Engine.refs, Engine.refs, Engine.emptyMark, Engine.emptyMark]
  dsimp only [Engine.putBackHead]
  cases head : s.engine.head with
  | none => simp only [head, and_self]
  | some o =>
    cases progress : s.engine.progress with
    | none => simp only [head, and_self]
    | some p => simp [putBack_ref]

theorem State.stopped_line (s : State) (code : FaultCode) :
    (s.stopped code).line = (if s.engine.fault = code then s.line else s.line.askState).sound .alarm := by
  have fault : s.engine.putBackHead.fault = s.engine.fault := by rw [Engine.putBackHead_eq]
  rw [← fault]
  rfl

/-- What either end of a fault leaves of the engine and the drive. -/
theorem State.raiseFault_told {s : State} (code : FaultCode) (bare : s.engine.head = none → s.engine.progress = none) :
    (s.raiseFault code).drive = (s.stopped code).drive ∧ ∃ slots head state, (s.raiseFault code).engine =
      { (s.stopped code).engine with slots := slots, head := head, progress := none, state := state } := by
  have idle : (s.stopped code).engine.progress = none := by
    rw [State.stopped_engine]
    exact Engine.putBackHead_progress bare
  by_cases other : ∀ h, s.engine.homing = some h → h.kind ≠ .clear
  · rw [State.raiseFault_halted other]
    exact ⟨rfl, _, _, _, by rw [← idle]; rfl⟩
  · push Not at other
    obtain ⟨h, homing, clear⟩ := other
    have locked := (s.stopped code).enterLocked_locked code
    rw [State.raiseFault_locked homing clear]
    exact ⟨locked.drive, _, _, _, locked.engine⟩

end Sys2Proof.Machine

open Sys2Proof Sys2Proof.Machine

/-- Settles O57. -/
theorem faultsHalt : Obligations.FaultsHalt := by
  intro s c code live bare cause asked faulted
  have asked_eq (p : Prop) [Decidable p] (l : LineInterface) : asked (decide ¬p) l = if p then l else l.askState := by
    by_cases h : p <;> simp [asked, h]
  have faulted_eq : faulted = (if s.engine.fault = code then s.line else s.line.askState).sound .alarm :=
    congrArg (LineInterface.sound · .alarm) (asked_eq _ _)
  have raises : ∃ k : Carriage, exec c s = .next (((s.setCarriage k).raiseFault code).finish s)
      ∧ k.stop = (if c = .carriageBrakeEnd then
        { s.drive.carriage with phase := .idle, move := none, onPhase := false } else s.drive.carriage.stop) := by
    obtain ⟨rfl, rfl, brake⟩ | ⟨t, rfl, runs, rfl⟩ | ⟨rfl, ⟨bits, wheel, short⟩, rfl⟩ := cause
    · refine ⟨s.drive.carriage.release, exec_finish live rfl ?_, rfl⟩
      obtain stall | ⟨check, m, move, overshot, far⟩ := brake
      · have ends : s.drive.carriage.endBrake = (s.drive.carriage.release, .stalled) := by
          simp only [Carriage.endBrake, stall]
        simp only [State.carriageBrakeEnd, ends]
      · have ends : s.drive.carriage.endBrake = (s.drive.carriage.release, .overshootFault) := by
          simp only [Carriage.endBrake, check, move]
          rw [if_neg (by omega), if_neg (by omega), if_pos overshot]
        simp only [State.carriageBrakeEnd, ends]
    · refine ⟨s.drive.carriage, exec_finish live rfl ?_, (if_neg (nomatch ·)).symm⟩
      obtain ⟨n, deadline⟩ := Option.ne_none_iff_exists'.mp runs
      simp only [State.deadlineExpiry, deadline]
      cases t <;> rfl
    · refine ⟨s.drive.carriage, exec_finish live rfl ?_, (if_neg (nomatch ·)).symm⟩
      simp only [State.flagNotFound, wheel]
      exact if_pos ⟨trivial, short⟩
  obtain ⟨k, effect, stops⟩ := raises
  have follows := (s.setCarriage k).raiseFault_follows code
  obtain ⟨drive, slots, head, state, engine⟩ := State.raiseFault_told (s := s.setCarriage k) code bare
  have stopped := (s.setCarriage k).stopped_engine code
  refine ⟨_, effect, ?_, ?_, ?_, ?_, ?_, fun still => ?_, ?_, ?_, ?_, ?_, ?_, follows.settings, follows.intake, ?_, fun other => ?_,
    fun h homing clear => ?_⟩
  · rw [drive]
    exact stops
  · rw [drive]
    rfl
  · rw [drive]
    rfl
  · rw [drive]
    rfl
  · rw [drive]
    rfl
  · have released : (s.stopped code).drive.ribbonLift = .released ∧ (s.stopped code).drive.tapeLift = .released := by
      refine ⟨if_neg ?_, if_neg ?_⟩ <;> exact fun h => absurd h.1 (by rw [still]; exact Bool.false_ne_true)
    rw [drive]
    exact released
  · rw [engine, stopped]
  · rw [engine, stopped]
  · rw [engine, stopped]
  · rw [engine]
  · rw [engine, stopped]
  · rw [engine, stopped]
    rfl
  · have halted := State.raiseFault_halted (s := s.setCarriage k) (code := code) other
    have engine : ((s.setCarriage k).raiseFault code).engine
        = { ((s.setCarriage k).stopped code).engine with state := .halted } := congrArg State.engine halted
    rw [stopped] at engine
    rw [engine]
    refine ⟨rfl, rfl, ?_, ?_, ?_, ?_, ?_, ?_⟩
    · rw [halted]
      rfl
    · rw [halted]
      rfl
    · have line : ((s.setCarriage k).raiseFault code).line = if ((s.setCarriage k).stopped code).engine.state = .halted then
          ((s.setCarriage k).stopped code).line else ((s.setCarriage k).stopped code).line.askState :=
        congrArg State.line halted
      rw [line, stopped, State.stopped_line]
      exact (congrArg (fun l => if s.engine.state = .halted then l else l.askState) faulted_eq.symm).trans (asked_eq _ _).symm
    · rw [halted]
      exact congrArg s.display.post code.message_eq
    · show s.engine.putBackHead.head = _
      unfold Engine.putBackHead
      cases head : s.engine.head with
      | none => exact head
      | some o =>
        cases progress : s.engine.progress with
        | none => exact head
        | some p => exact congrArg some (putBack_eq o p)
    · exact Engine.putBackHead_late bare
  · have locks : ((s.setCarriage k).raiseFault code) = _ := State.raiseFault_locked homing clear
    have locked := ((s.setCarriage k).stopped code).enterLocked_locked code
    rw [locks, locked.engine]
    refine ⟨rfl, rfl, rfl, locked.corr, locked.print, ?_, ?_, fun unique owned => ?_⟩
    · rw [locked.display]
      have shown : (s.display.post code.message).post code.message = s.display.post code.message :=
        Display.post_again (by cases code <;> rfl)
      exact (congrArg (Display.post · .locked) shown).trans (by rw [FaultCode.message_eq])
    · intro emptied refused
      obtain ⟨-, mark⟩ := (s.setCarriage k).stopped_refs code
      have empty : s.engine.emptyMark = true ↔ ¬(s.engine.slots ≠ [] ∨ s.engine.head ≠ none) := by
        simp [Engine.emptyMark]
      have first : (if s.engine.emptyMark = true then faulted else faulted.askState) = emptied := by
        by_cases h : s.engine.emptyMark = true
        · rw [if_pos h]
          exact (if_neg (by simpa using empty.mp h)).symm
        · rw [if_neg h]
          exact (if_pos (decide_eq_true (not_not.mp (fun h' => h (empty.mpr h'))))).symm
      rw [faulted_eq] at first
      have clicks := congrArg (fun l : LineInterface =>
        if s.text.waiting = some .runFeeding ∧ (∃ r, s.text.resume = some r ∧ r.action.source = .keyboard) then l.sound .click
        else l) first
      rw [locked.line, mark, State.stopped_line, stopped]
      exact (congrArg (fun l : LineInterface => if s.engine.state = .locked then l.sound .alarm else (l.sound .alarm).askState)
        clicks).trans (asked_eq _ _).symm
    · intro named gone taken
      have sheds := ((s.setCarriage k).stopped code).enterLocked_sheds code unique owned
      rw [((s.setCarriage k).stopped_refs code).1] at sheds
      have named_iff (e : Entry) : e.id ∈ s.engine.refs ↔ named e = true := s.engine.mem_refs e.id
      have fed_iff (i : Nat) : i ∈ (if s.text.waiting = some .runFeeding then s.text.feeding else [])
          ↔ s.text.waiting = some .runFeeding ∧ i ∈ s.text.feeding := by
        by_cases waits : s.text.waiting = some .runFeeding <;> simp [waits]
      have gone_iff (e : Entry) : e.Named s.engine.refs (if s.text.waiting = some .runFeeding then s.text.feeding else [])
          ↔ gone e := or_congr (and_congr (named_iff e) Iff.rfl) (fed_iff e.id)
      have goes_iff (e : Entry) (he : e ∈ s.text.work.entries) : e.Goes s.text.work.entries s.engine.refs
          (if s.text.waiting = some .runFeeding then s.text.feeding else []) ↔ taken e := by
        refine or_congr (gone_iff e) ⟨fun ⟨o, ho, g, rest⟩ => ⟨o, List.mem_append_left _ ho, (gone_iff o).mp g, rest⟩,
          fun ⟨o, ho, g, char, own⟩ => ?_⟩
        have companion : e.kind ≠ .character := fun h => by
          rw [owned.1 e he h] at own
          exact absurd own (Option.some_ne_none _).symm
        obtain ⟨o', ho', own', -⟩ := owned.2 e he companion
        obtain rfl : o = o' :=
          eq_of_id unique ho (List.mem_append_left _ ho') (Option.some.inj (own.symm.trans own'))
        exact ⟨o, ho', (gone_iff o).mpr g, char, own⟩
      refine ⟨fun e he out y hy same => ?_, fun e he stays => ?_, fun y hy => ?_⟩
      · obtain ⟨x, hx, stays, eq⟩ := sheds.stood y hy
        have x_id : x.id = y.id := by rw [eq]; rfl
        obtain rfl : x = e :=
          eq_of_id unique (List.mem_append_left _ hx) (List.mem_append_left _ he) (x_id.trans same)
        exact stays ((goes_iff x hx).mpr out)
      · obtain ⟨y, hy, eq⟩ := sheds.stays e he (fun g => stays ((goes_iff e he).mp g))
        have freed : (if e.state = .lifting ∧ e.id ∈ s.engine.refs then .printed else e.state)
            = if e.state = .lifting ∧ named e = true then .printed else e.state :=
          if_congr (and_congr Iff.rfl (named_iff e)) rfl rfl
        exact ⟨y, hy, eq.trans (congrArg (fun st => { e with state := st, mark := y.mark }) freed)⟩
      · obtain ⟨x, hx, -, eq⟩ := sheds.stood y hy
        exact ⟨x, hx, by rw [eq]; rfl⟩
end

section
/-! SUPPORT. What POWER_FAILING leaves: the stop of every block, the op in progress, and the begin of the save. -/

-- One proof after another: the check's process cannot start a thread for each.
set_option Elab.async false

namespace Sys2Proof.Machine

/-! ## The STATE frames that are asked for (R185) -/

/-- A line interface after STATE frames have been asked for. -/
def LineInterface.Asks (l m : LineInterface) : Prop := ∃ asked : List TxFrame,
  m = { l with stamp := m.stamp, stateOwed := m.stateOwed, places := l.places ++ asked }
    ∧ (∀ f ∈ asked, f.kind = .state) ∧ (l.stateOwed = true → m.stateOwed = true)

theorem LineInterface.Asks.refl (l : LineInterface) : l.Asks l :=
  ⟨[], by rw [List.append_nil], fun _ h => absurd h List.not_mem_nil, fun h => h⟩

theorem LineInterface.askState_asks (l : LineInterface) : l.Asks l.askState := by
  unfold LineInterface.askState
  split
  · exact .refl l
  · split
    · exact ⟨_, rfl, fun f hf => by rw [List.mem_singleton.mp hf], fun h => h⟩
    · exact ⟨[], by rw [List.append_nil], fun _ h => absurd h List.not_mem_nil, fun _ => rfl⟩

theorem LineInterface.Asks.trans {l m n : LineInterface} (h : l.Asks m) (k : m.Asks n) : l.Asks n := by
  obtain ⟨a, eq, states, owed⟩ := h
  obtain ⟨b, eq', states', owed'⟩ := k
  refine ⟨a ++ b, ?_, fun f hf => (List.mem_append.mp hf).elim (states f) (states' f), fun h => owed' (owed h)⟩
  rw [eq', eq, List.append_assoc]

theorem LineInterface.asks_ite {l : LineInterface} (p : Prop) [Decidable p] : l.Asks (if p then l else l.askState) := by
  split
  · exact .refl l
  · exact l.askState_asks

/-! ## Entering DOWN (R76, R94, R202) -/

theorem Engine.down_eq (e : Engine) : e.down =
    { e with
      head := e.down.head, progress := e.down.progress, homing := none, restMove := false, rehome := false,
      lateFeed := false } := by
  unfold Engine.down
  cases e.progress with
  | none => dsimp only; rw [if_neg Bool.false_ne_true, Engine.putBackHead_eq]
  | some p =>
    dsimp only
    split
    · rfl
    · rw [Engine.putBackHead_eq]

/-- An op that has had its pulse, or is in it, stays in the head place. -/
theorem Engine.down_keeps {e : Engine} {p : Progress} (progress : e.progress = some p)
    (struck : p.stage = .pulse ∨ p.stage = .settle ∨ p.stage = .advance) :
    e.down.head = e.head ∧ e.down.progress = some p := by
  unfold Engine.down
  rw [progress]
  dsimp only
  rw [if_pos (by obtain h | h | h := struck <;> rw [h] <;> rfl)]
  exact ⟨rfl, progress⟩

/-- Any other is put back. -/
theorem Engine.down_puts {e : Engine} {o : Op} {p : Progress} (head : e.head = some o) (progress : e.progress = some p)
    (pulse : p.stage ≠ .pulse) (settle : p.stage ≠ .settle) (advance : p.stage ≠ .advance) :
    e.down.progress = none ∧ e.down.head = some (putBack o p) := by
  have unstruck : p.stage.struck = false := by
    unfold Stage.struck
    cases stage : p.stage with
    | settle => exact absurd stage settle
    | advance => exact absurd stage advance
    | _ => rfl
  unfold Engine.down Engine.putBackHead
  rw [head, progress]
  dsimp only
  rw [if_neg (by simp [unstruck, pulse])]
  exact ⟨rfl, rfl⟩

theorem Engine.down_rests {e : Engine} (progress : e.progress = none) : e.down.head = e.head ∧ e.down.progress = none := by
  unfold Engine.down Engine.putBackHead
  rw [progress]
  dsimp only
  rw [if_neg Bool.false_ne_true]
  cases head : e.head <;> exact ⟨head, progress⟩

/-- The blocks at the stop of DOWN, before the op in progress completes. -/
def State.halted (s : State) (time : Nat) : State :=
  let s1 : State :=
    { s with
      supply := { s.supply with phase := .saving, lastFailing := some time, sagRunning := false, saveBegun := false },
      drive := s.drive.down, engine := s.engine.down, text := s.text.down, corr := .idle, spell := s.spell.down,
      intake := s.intake.down, display := s.display.down, line := { s.line with silenceRunning := false } }
  if s.engine.state = .locked then s1 else s1.setEngine .down

theorem State.enterDown_eq (s : State) (time : Nat) : s.enterDown time =
    (if s.engine.progress.any (fun p => p.stage.struck) then (s.halted time).completeOp else s.halted time).beginSave := by
  unfold State.enterDown State.halted
  cases s.engine.progress <;> rfl

/-- The stop of DOWN, field by field. -/
theorem State.halted_told (s : State) (time : Nat) : s.halted time =
    { s with
      supply := { s.supply with phase := .saving, lastFailing := some time, sagRunning := false, saveBegun := false },
      drive := s.drive.down, text := s.text.down, corr := .idle, spell := s.spell.down, intake := s.intake.down,
      display := s.display.down,
      engine := { s.engine.down with state := if s.engine.state = .locked then .locked else .down },
      line := if s.engine.state = .locked ∨ s.engine.state = .down then { s.line with silenceRunning := false }
        else ({ s.line with silenceRunning := false } : LineInterface).askState } := by
  have state : s.engine.down.state = s.engine.state := by rw [Engine.down_eq]
  unfold State.halted
  dsimp only
  by_cases locked : s.engine.state = .locked
  · rw [if_pos locked, if_pos locked, if_pos (.inl locked), ← locked, ← state]
  · rw [if_neg locked, if_neg locked, State.setEngine]
    dsimp only
    rw [state]
    by_cases down : s.engine.state = .down
    · rw [if_pos down, if_pos (.inr down)]
    · rw [if_neg down, if_neg (fun h => h.elim locked down)]

/-- The save begins at once but for a pulse or a list write. -/
theorem State.beginSave_fresh {s : State} (saving : s.supply.phase = .saving) (fresh : s.supply.saveBegun = false) :
    s.beginSave = { s with supply := { s.supply with saveBegun := !s.drive.hammer.isPulse && s.spell.writing.isNone } } := by
  unfold State.beginSave
  by_cases free : s.drive.hammer.isPulse = false ∧ s.spell.writing = none
  · rw [if_pos ⟨saving, fresh, free⟩, free.1, free.2]
    rfl
  · have waits : (!s.drive.hammer.isPulse && s.spell.writing.isNone) = false := by
      rw [Bool.eq_false_iff]
      intro h
      rw [Bool.and_eq_true, Bool.not_eq_true', Option.isNone_iff_eq_none] at h
      exact free h
    rw [if_neg (fun h => free h.2.2), waits, ← fresh]

theorem Drive.down_hammer (d : Drive) : d.down.hammer.isPulse = d.hammer.isPulse := by
  unfold Drive.down
  cases d.hammer <;> rfl

/-- A POWER_FAILING taken while RUNNING. -/
theorem State.powerFailing_running {s : State} (time : Nat) (rostered : s.line.rostered .power = true)
    (phase : s.supply.phase = .running) : ∃ roster silence, s.powerFailing time =
      State.enterDown { s with
        clock := max s.clock time,
        line := { s.line with receiver := .waiting, roster := roster, silenceRunning := silence } } time := by
  have up : (((s.frameEnd).atTime time).markPresent .power).isDown = false := by simp [State.isDown, phase]
  have marked (t : State) : ∃ roster silence,
      t.markPresent .power = { t with line := { t.line with roster := roster, silenceRunning := silence } } := by
    unfold State.markPresent
    split
    · split
      · exact ⟨_, _, rfl⟩
      · exact ⟨_, _, rfl⟩
    · exact ⟨_, _, rfl⟩
  obtain ⟨roster, silence, eq⟩ := marked ((s.frameEnd).atTime time)
  refine ⟨roster, silence, ?_⟩
  rw [State.powerFailing, if_pos rostered, State.takeFailing, if_neg (by rw [up]; exact Bool.false_ne_true), eq]
  rfl

/-! ## The completion in DOWN of a strike that has had its pulse (R76, R113) -/

/-- What the completion of a strike leaves alone once DOWN has stopped the blocks. -/
structure State.Rests (s t : State) : Prop where
  supply : t.supply = s.supply := by rfl
  drive : t.drive = s.drive := by rfl
  corr : t.corr = s.corr := by rfl
  spell : t.spell = s.spell := by rfl
  display : t.display = s.display := by rfl
  intake : t.intake = s.intake := by rfl
  retained : t.retained = s.retained := by rfl
  pins : t.pins = s.pins := by rfl
  engine : ∃ slots head progress, t.engine = { s.engine with slots := slots, head := head, progress := progress }
  line : s.line.Asks t.line

theorem State.Rests.refl (s : State) : s.Rests s := { engine := ⟨_, _, _, rfl⟩, line := .refl _ }

/-- No word is recorded, and none is looked up or asked. -/
def Spelling.Bare (sp : Spelling) : Prop := sp.records = [] ∧ sp.lookup = none ∧ sp.waitList = [] ∧ sp.outstanding = []

theorem Spelling.dropNaming_bare {sp : Spelling} (bare : sp.Bare) (ids : List Nat) : sp.dropNaming ids = sp := by
  obtain ⟨records, lookup, waits, asked⟩ := bare
  rw [Spelling.dropNaming, Spelling.dropWhere, Spelling.letGo, records, lookup, waits, asked]
  exact (congrArg₂ (fun r l => { sp with records := r, lookup := l, waitList := [], outstanding := [] }) records.symm lookup.symm).trans
    (congrArg₂ (fun w o => { sp with waitList := w, outstanding := o }) waits.symm asked.symm)

theorem State.removeEntry_rests {s : State} (bare : s.spell.Bare) (idle : s.corr.items = []) (e : Entry) :
    s.Rests (s.removeEntry e) ∧ (s.removeEntry e).text.pp = s.text.pp := by
  have spares := s.removeEntry_spares e
  have follows := s.removeEntry_follows e
  obtain ⟨-, supply, -, ids, engine⟩ := s.removeEntry_reports e
  have left : (s.removeEntry e).spell = s.spell ∧ (s.removeEntry e).text.pp = s.text.pp := by
    unfold State.removeEntry
    split
    · have unlisted (t : State) (h : t.corr.items = []) : t.completeItem e = t := by
        rw [State.completeItem, h]
        rfl
      unfold State.removeOwner
      extract_lets run s1 s2
      rw [unlisted s2 idle]
      exact ⟨Spelling.dropNaming_bare bare [e.id], rfl⟩
    · exact ⟨rfl, rfl⟩
  exact ⟨⟨supply, spares.drive, spares.corr idle, left.1, spares.display, follows.intake, follows.retained, follows.pins,
    ⟨_, _, s.engine.progress, engine⟩, spares.line ▸ .refl _⟩, left.2⟩

theorem State.removeEntry_gone (s : State) (e : Entry) : (s.removeEntry e).text.find e.id = none := by
  unfold State.removeEntry
  split
  · exact State.removeOwner_find List.mem_cons_self
  · exact s.takeOut_gone List.mem_cons_self

/-- A completed strike of a correction that DOWN has abandoned moves no print point. -/
theorem State.strikeDone_abandoned {s : State} {o : Op} {id : Nat} {e : Entry} (ref : o.ref = some id)
    (found : s.text.find id = some e) (origin : o.origin = .correction) (lifting : e.state = .lifting)
    (idle : s.corr.lifting = false) : s.strikeDone o = s.removeEntry e := by
  rw [State.strikeDone_lifts ref found origin lifting, if_neg]
  rw [idle]
  exact fun h => Bool.false_ne_true h.2

theorem State.strikeDone_rests {s : State} (bare : s.spell.Bare) (idle : s.corr = .idle) (o : Op) :
    s.Rests (s.strikeDone o) := by
  unfold State.strikeDone
  cases o.ref with
  | none => exact .refl s
  | some id =>
    dsimp only
    cases s.text.find id with
    | none => exact .refl s
    | some e =>
      cases o.origin with
      | text =>
        dsimp only
        split
        · exact { engine := ⟨_, _, _, rfl⟩, line := .refl _ }
        · exact .refl s
      | correction =>
        dsimp only
        have removed := (State.removeEntry_rests bare (by rw [idle]; rfl) e).1
        split
        · rw [if_neg (by rw [idle]; exact fun h => Bool.false_ne_true h.2)]
          exact removed
        · exact .refl s

theorem State.vacated_rests (s : State) : s.Rests s.vacated where
  engine := ⟨_, _, _, rfl⟩
  line := LineInterface.asks_ite _

theorem State.Rests.trans {a b c : State} (h : a.Rests b) (k : b.Rests c) : a.Rests c where
  supply := k.supply.trans h.supply
  drive := k.drive.trans h.drive
  corr := k.corr.trans h.corr
  spell := k.spell.trans h.spell
  display := k.display.trans h.display
  intake := k.intake.trans h.intake
  retained := k.retained.trans h.retained
  pins := k.pins.trans h.pins
  engine := by
    obtain ⟨slots, head, progress, eq⟩ := h.engine
    obtain ⟨slots', head', progress', eq'⟩ := k.engine
    exact ⟨slots', head', progress', by rw [eq', eq]⟩
  line := h.line.trans k.line

end Sys2Proof.Machine

open Sys2Proof Sys2Proof.Machine

/-- Settles O24. -/
theorem powerFailingStops : Obligations.PowerFailingStops := by
  intro s time live rostered quiet stopped hammer
  have pulse_iff : hammer.isPulse = s.drive.hammer.isPulse := s.drive.down_hammer
  let heard (roster : List RosterEntry) (silence : Bool) : State :=
    { s with
      clock := max s.clock time,
      line := { s.line with receiver := .waiting, roster := roster, silenceRunning := silence } }
  have stops (roster : List RosterEntry) (silence : Bool) (v : State) (rests : ((heard roster silence).halted time).Rests v) :
      stopped v.beginSave hammer := by
    have told := (heard roster silence).halted_told time
    rw [told] at rests
    obtain ⟨supply, drive, corr, spell, display, intake, retained, pins, ⟨slots, head, progress, engine⟩, line⟩ := rests
    have begins := State.beginSave_fresh (s := v) (by rw [supply]) (by rw [supply])
    have down : s.engine.down = _ := s.engine.down_eq
    rw [down] at engine
    let base : LineInterface := { s.line with receiver := .waiting, silenceRunning := false, roster := roster }
    have asks : base.Asks v.line := (LineInterface.asks_ite _).trans line
    have roster_eq : v.line.roster = roster := by
      obtain ⟨asked, eq, -⟩ := asks
      rw [eq]
    rw [begins]
    refine ⟨?_, ?_, ?_, ?_, ?_, ?_, ?_, ?_, intake, corr, ?_, ?_, ?_, ?_, ?_, ?_, display, ?_, ?_, ?_, ?_, ?_, fun still => ?_,
      fun runs => ?_, ?_, retained, pins⟩
    · rw [supply, drive, spell, pulse_iff, ← s.drive.down_hammer]
      rfl
    · rw [engine]
    · rw [engine]
    · rw [engine]
    · rw [engine]
    · rw [engine]
    · rw [engine]
    · rw [engine]
    · rw [spell]; rfl
    · rw [spell]; rfl
    · rw [spell]; rfl
    · rw [spell]; rfl
    · rw [spell]; rfl
    · rw [spell]; rfl
    · rw [drive]; rfl
    · rw [drive]; rfl
    · rw [drive]; rfl
    · rw [drive]; rfl
    · rw [drive]; rfl
    · rw [pulse_iff] at still
      rw [drive]
      refine ⟨if_neg ?_, if_neg ?_⟩ <;> exact fun h => absurd h.1 (by rw [still]; exact Bool.false_ne_true)
    · rw [pulse_iff] at runs
      rw [drive]
      exact ⟨if_congr (and_iff_right runs) rfl rfl, if_congr (and_iff_right runs) rfl rfl⟩
    · obtain ⟨asked, eq, states, owed⟩ := asks
      refine ⟨asked, eq.trans ?_, states, owed⟩
      rw [roster_eq]
  refine ⟨fun phase early => ?_, fun o p id e phase head progress struck unlocked kind ref found => ?_, fun down => ?_⟩
  · obtain ⟨roster, silence, effect⟩ := State.powerFailing_running time rostered phase
    have unstruck : ¬s.engine.progress.any (fun p => p.stage.struck) = true := by
      rw [Option.any_eq_true]
      rintro ⟨p, progress, struck⟩
      obtain ⟨settle, advance⟩ := early p progress
      unfold Stage.struck at struck
      split at struck
      next stage => exact settle stage
      next stage => exact advance stage
      · exact Bool.false_ne_true struck
    have told := (heard roster silence).halted_told time
    have fails : s.powerFailing time = ((heard roster silence).halted time).beginSave := by
      rw [effect, State.enterDown_eq, if_neg unstruck]
    have rest := stops roster silence _ (.refl _)
    rw [told] at fails rest
    rw [State.beginSave_fresh rfl rfl] at fails rest
    have slots : s.engine.down.slots = s.engine.slots := by rw [Engine.down_eq]
    refine ⟨_, exec_finish live rfl fails, rest, slots, rfl, ?_, fun progress => s.engine.down_rests progress,
      fun o p head progress => ⟨fun stage => ?_, fun stage => ?_⟩⟩
    · have same : (if s.engine.state = .locked ∨ s.engine.state = .down then { (heard roster silence).line with silenceRunning := false }
          else ({ (heard roster silence).line with silenceRunning := false } : LineInterface).askState).roster = roster := by
        split
        · rfl
        · exact LineInterface.askState_roster _
      exact congrArg (fun r => if s.engine.state = .locked ∨ s.engine.state = .down then
          { s.line with receiver := .waiting, silenceRunning := false, roster := r }
        else ({ s.line with receiver := .waiting, silenceRunning := false, roster := r } : LineInterface).askState) same.symm
    · obtain ⟨at_head, at_progress⟩ := Engine.down_keeps progress (.inl stage)
      exact ⟨at_head.trans head, at_progress⟩
    · obtain ⟨settle, advance⟩ := early p progress
      obtain ⟨at_progress, at_head⟩ := Engine.down_puts head progress stage settle advance
      exact ⟨at_progress, at_head.trans (congrArg some (putBack_eq o p))⟩
  · obtain ⟨roster, silence, effect⟩ := State.powerFailing_running time rostered phase
    have had_pulse : s.engine.progress.any (fun p => p.stage.struck) = true := by
      rw [progress, Option.any_some]
      obtain stage | stage := struck <;> rw [stage] <;> rfl
    let u : State := (heard roster silence).halted time
    have told : u = _ := (heard roster silence).halted_told time
    obtain ⟨at_head, at_progress⟩ := Engine.down_keeps progress (.inr struck)
    have u_head : u.engine.head = some o := by rw [told]; exact at_head.trans head
    have u_down : u.engine.state = .down := by rw [told]; exact if_neg unlocked
    have done : u.vacated.completed o = u.vacated.strikeDone o := by simp only [State.completed, kind]
    have rests : u.Rests (u.vacated.strikeDone o) := by
      refine u.vacated_rests.trans (State.strikeDone_rests ?_ ?_ o)
      · show u.spell.Bare
        rw [told]
        exact ⟨rfl, rfl, rfl, rfl⟩
      · show u.corr = .idle
        rw [told]
    have completes : u.completeOp = u.vacated.strikeDone o := by
      obtain ⟨_, _, _, engine⟩ := rests.engine
      rw [State.completeOp_some u_head, done, if_pos (by rw [engine]; exact u_down)]
    have fails : s.powerFailing time = (u.vacated.strikeDone o).beginSave := by
      rw [effect, State.enterDown_eq, if_pos had_pulse]
      exact congrArg State.beginSave completes
    have rest := stops roster silence _ rests
    have begins : (u.vacated.strikeDone o).beginSave.text = (u.vacated.strikeDone o).text
        ∧ (u.vacated.strikeDone o).beginSave.engine = (u.vacated.strikeDone o).engine := by
      unfold State.beginSave
      split <;> exact ⟨rfl, rfl⟩
    obtain ⟨-, -, -, ids, engine⟩ := State.completeOp_told u_head
    rw [completes] at engine
    have u_text : u.vacated.text = quiet := by
      show u.text = quiet
      rw [told]
      rfl
    have u_found : u.vacated.text.find id = some e := by
      rw [u_text]
      exact found
    refine ⟨_, exec_finish live rfl fails, rest, ?_, ?_, ?_, fun origin queued => ?_, fun origin lifting => ?_⟩
    · rw [begins.2, engine]
    · rw [begins.2, engine]
    · rw [begins.2, engine, told]
      exact (List.length_map _).trans (by rw [Engine.down_eq])
    · rw [begins.1, State.strikeDone_prints ref u_found origin queued, u_text]
      have wheel : u.vacated.engine.wheel = s.engine.wheel := by
        show u.engine.wheel = s.engine.wheel
        have stands : s.engine.down.wheel = s.engine.wheel := by rw [Engine.down_eq]
        rw [told]
        exact stands
      rw [wheel]
    · have idle : u.vacated.corr = .idle := by
        show u.corr = .idle
        rw [told]
      have bare : u.vacated.spell.Bare := by
        show u.spell.Bare
        rw [told]
        exact ⟨rfl, rfl, rfl, rfl⟩
      rw [begins.1, State.strikeDone_abandoned ref u_found origin lifting (by rw [idle]; rfl),
        (State.removeEntry_rests bare (by rw [idle]; rfl) e).2, u_text, ← TextUnit.find_id found]
      exact ⟨u.vacated.removeEntry_gone e, rfl⟩
  · have is_down : (s.frameEnd.atTime time).isDown = true := by simp [State.isDown, down]
    have marked : (s.frameEnd.atTime time).markPresent .power = s.frameEnd.atTime time := by
      unfold State.markPresent
      split
      · exact if_neg (fun h => by rw [is_down] at h; exact absurd h.2 (by decide))
      · rfl
    refine exec_finish live rfl ?_
    rw [State.powerFailing, if_pos rostered, marked, State.takeFailing, if_pos is_down]
    rfl
end

section
/-! SUPPORT. The carriage channel: its edges, brakes and home search, and what follows the end of a move. -/

-- One proof after another: the check's process cannot start a thread for each.
set_option Elab.async false

namespace Sys2Proof.Machine

/-! ## The channel (R79 to R87) -/

theorem Carriage.edge_elsewhere {c : Carriage} (right : Bool) (i : Nat) (rests : c.phase ≠ .drive) :
    c.edge right i = { c with count := if right then c.count + 1 else c.count - 1, capture := min i 65535 } := by
  unfold Carriage.edge
  dsimp only
  split
  next phase _ => exact absurd phase rests
  · rfl

theorem CarriageMove.speed_eq (m : CarriageMove) (count : Int) : m.speed count =
    if m.leg ≠ .profile then 300
    else if m.kind = .search then min (m.cruise : Int) (300 + 40 * m.travelled)
    else min (min (m.cruise : Int) (300 + 40 * m.travelled))
      (300 + 40 * (if m.rightward then m.target - count else count - m.target)) := by
  unfold CarriageMove.speed
  cases m.leg with
  | trim => rfl
  | corrective => rfl
  | profile =>
    cases m.kind with
    | search => rfl
    | toPosition => exact (min_assoc _ _ _).symm
    | signed => exact (min_assoc _ _ _).symm

theorem loopDuty_eq (duty i : Nat) (period : Int) : loopDuty duty i period =
    max 8 (min 60 (if period * 17 / 16 < i then duty + 1 else if (i : Int) < period * 15 / 16 then duty - 1 else duty)) := by
  rw [loopDuty, Int.fdiv_eq_ediv_of_nonneg _ (by decide), Int.fdiv_eq_ediv_of_nonneg _ (by decide)]

theorem Carriage.edge_driving {c : Carriage} {m : CarriageMove} (right : Bool) {i : Nat} (phase : c.phase = .drive)
    (move : c.move = some m) (short : i ≤ 65535) :
    let count := if right then c.count + 1 else c.count - 1
    let m' : CarriageMove := { m with travelled := if right = m.rightward then m.travelled + 1 else m.travelled - 1 }
    let arrives : Prop := count = m.target ∧ ¬(m.kind = .search ∧ m.leg = .profile)
    c.edge right i =
      { c with
        count := count, capture := i, move := some m', duty := loopDuty c.duty i c.period, period := m'.period count,
        watch := stallTime (m'.period count), phase := if arrives then .brake .check else .drive,
        onPhase := if arrives then false else c.onPhase } := by
  intro count m' arrives
  unfold Carriage.edge
  rw [phase, move, Nat.min_eq_left short]
  dsimp only
  by_cases there : arrives
  · rw [if_pos there, if_pos there, if_pos there]
    rfl
  · rw [if_neg there, if_neg there, if_neg there, ← phase]

theorem Carriage.seeksHome_iff {c : Carriage} :
    c.seeksHome = true ↔ c.phase = .drive ∧ ∃ m, c.move = some m ∧ m.kind = .search ∧ m.leg = .profile := by
  unfold Carriage.seeksHome
  cases c.phase <;> cases c.move <;> simp

/-- What the check at the end of a brake finds. -/
theorem Carriage.endBrake_check {c : Carriage} {m : CarriageMove} (phase : c.phase = .brake .check) (move : c.move = some m) :
    let away := (m.target - c.count).natAbs
    let back : CarriageMove := { m with rightward := decide (c.count < m.target), travelled := 0 }
    (away = 0 → c.endBrake = (c.release, .ended m.kind))
      ∧ (away = 1 ∨ away = 2 → c.endBrake = (c.beginDrive { back with leg := .trim } 8, .goesOn))
      ∧ (2 < away → m.overshot = true → c.endBrake = (c.release, .overshootFault))
      ∧ (2 < away → m.overshot = false →
        c.endBrake = (c.beginDrive { back with leg := .corrective, overshot := true } 40, .goesOn)) := by
  intro away back
  have ends : c.endBrake = if away = 0 then (c.release, .ended m.kind)
      else if away ≤ 2 then (c.beginDrive { back with leg := .trim } 8, .goesOn)
      else if m.overshot then (c.release, .overshootFault)
      else (c.beginDrive { back with leg := .corrective, overshot := true } 40, .goesOn) := by
    simp only [Carriage.endBrake, phase, move]
    rfl
  refine ⟨fun none => ?_, fun near => ?_, fun far overshot => ?_, fun far fresh => ?_⟩
  · rw [ends, if_pos none]
  · rw [ends, if_neg (by omega), if_pos (by omega)]
  · rw [ends, if_neg (by omega), if_neg (by omega), if_pos overshot]
  · rw [ends, if_neg (by omega), if_neg (by omega), if_neg (by rw [fresh]; exact Bool.false_ne_true)]

/-! ### What the engine takes of it -/

theorem State.carriageBrakeEnd_on {s : State} {x : Carriage} (ends : s.drive.carriage.endBrake = (x, .goesOn)) :
    s.carriageBrakeEnd = s.setCarriage x := by simp only [State.carriageBrakeEnd, ends]

theorem State.carriageBrakeEnd_faults {s : State} {x : Carriage} (ends : s.drive.carriage.endBrake = (x, .overshootFault)) :
    s.carriageBrakeEnd = (s.setCarriage x).raiseFault .carriageStall := by simp only [State.carriageBrakeEnd, ends]

theorem State.carriageBrakeEnd_finds {s : State} {x : Carriage} (ends : s.drive.carriage.endBrake = (x, .ended .search)) :
    s.carriageBrakeEnd = (s.setCarriage x).homeFound := by simp only [State.carriageBrakeEnd, ends]

theorem State.carriageBrakeEnd_rests {s : State} {x : Carriage} {k : MoveKind} (other : k ≠ .search)
    (ends : s.drive.carriage.endBrake = (x, .ended k)) : s.carriageBrakeEnd = (s.setCarriage x).atRest := by
  simp only [State.carriageBrakeEnd, ends]

/-! ## The end of a carriage move (R62, R65, R67, R68) -/

/-- The carriage deadline has stopped. -/
def State.parked (s : State) : State := { s with drive := { s.drive with carriageDeadline := none } }

/-- What the end of a carriage move does in a stage of the op in progress. -/
def State.parkedAt (s : State) (o : Op) (p : Progress) : Stage → State
  | .moves true true => s.setStage (.moves false true)
  | .moves true false => s.strikeRise o p
  | .carriageFirst =>
    if 0 < (s.wheelMove p).2 then (s.requestWheel (s.wheelMove p) p.level).setStage (.moves false true) else s.strikeRise o p
  | .returning true true => s.setStage (.returning false true)
  | .returning true false => s.completeOp
  | .returnCarriageFirst => s.returnFeed o
  | _ => s

theorem State.atRest_at {s : State} {o : Op} {p : Progress} (homing : s.engine.homing = none)
    (head : s.engine.head = some o) (progress : s.engine.progress = some p) : s.atRest = s.parked.parkedAt o p p.stage := by
  unfold State.atRest
  rw [homing]
  dsimp only
  split
  next o' p' at_head at_progress =>
    obtain rfl : o = o' := Option.some.inj (head.symm.trans at_head)
    obtain rfl : p = p' := Option.some.inj (progress.symm.trans at_progress)
    rfl
  next absent => exact absurd progress (absent o p head)

theorem State.atRest_idle {s : State} (homing : s.engine.homing = none) (head : s.engine.head = none) :
    s.atRest = { s.parked with engine := { s.engine with restMove := false } } := by
  unfold State.atRest
  rw [homing]
  dsimp only
  split
  next o p at_head _ => exact absurd (head.symm.trans at_head) (Option.some_ne_none o).symm
  · rfl

theorem State.atRest_clearing {s : State} {h : Homing} (homing : s.engine.homing = some h) (phase : h.phase = .clearing) :
    s.atRest =
      { s with
        drive := { s.drive with carriage := s.drive.carriage.searchHome },
        engine := { s.engine with homing := some { h with phase := .searching } } } := by
  unfold State.atRest State.setPhase
  simp only [homing, if_pos phase, Option.map_some]

/-! ### The wheel path (R48) -/

theorem wheelPath_eq (current target : Nat) :
    wheelPath current target =
      (decide ((target + 96 - current % 96) % 96 ≤ 48),
        if (target + 96 - current % 96) % 96 ≤ 48 then (target + 96 - current % 96) % 96
        else 96 - (target + 96 - current % 96) % 96) := by
  unfold wheelPath
  dsimp only
  split
  next near => rw [decide_eq_true near]
  next far => rw [decide_eq_false far]

theorem wheelPath_zero {current target : Nat} (hc : current < 96) (ht : target < 96) :
    0 < (wheelPath current target).2 ↔ current ≠ target := by
  rw [wheelPath_eq]
  dsimp only
  split <;> omega

/-! ### The completion of a RETURN (R1, R28, R66) -/

/-- The entries that go with the print line as its RETURN op completes. -/
def State.returnedIds (s : State) : List Nat :=
  match s.text.print with
  | some q => if q.returnAppended && !s.engine.slots.any Op.isReturn then q.record.entries.map Entry.id else []
  | none => []

theorem State.completeOp_returns {s : State} {o : Op} (head : s.engine.head = some o) (kind : o.kind = .carriageReturn)
    (running : s.engine.state = .running) :
    s.completeOp.drive = s.drive
      ∧ s.completeOp.engine =
        { s.engine with
          head := none, progress := none, slots := s.engine.slots.map (Op.forget s.returnedIds),
          state := s.engine.idleState }
      ∧ (∀ q, s.text.print = some q → (q.returnAppended && !s.engine.slots.any Op.isReturn) = true →
        s.completeOp.text = { s.text with print := none })
      ∧ ((∀ q, s.text.print = some q → (q.returnAppended && !s.engine.slots.any Op.isReturn) = false) →
        s.completeOp.text = s.text) := by
  have returns : s.vacated.completed o = s.vacated.returnDone := by simp only [State.completed, kind]
  have text : s.completeOp.text = s.vacated.returnDone.text :=
    (State.completeOp_text head).1.trans (congrArg State.text returns)
  refine ⟨State.completeOp_drive head, ?_, fun q print closes => text.trans (State.returnDone_discards print closes),
    fun waits => text.trans ((congrArg State.text (State.returnDone_stands (s := s.vacated) waits)).trans rfl)⟩
  have engine : s.vacated.returnDone.engine =
      { s.vacated.engine with slots := s.engine.slots.map (Op.forget s.returnedIds) } := by
    unfold State.returnDone State.returnedIds
    cases print : s.text.print with
    | none =>
      have print' : s.vacated.text.print = none := print
      simp only [print', map_forget_nil]
      rfl
    | some q =>
      have print' : s.vacated.text.print = some q := print
      simp only [print']
      by_cases closes : (q.returnAppended && !s.engine.slots.any Op.isReturn) = true
      · rw [if_pos closes]
        refine (congrArg State.engine (if_pos closes)).trans ?_
        simp only [State.discardPrint, print']
        rfl
      · rw [if_neg closes, map_forget_nil]
        exact congrArg State.engine (if_neg closes)
  have up : (s.vacated.completed o).engine.state = .running := by
    rw [returns, engine]
    exact running
  rw [State.completeOp_ends head up, returns, engine]
  rfl

end Sys2Proof.Machine

open Sys2Proof Sys2Proof.Machine

/-- Settles O56. -/
theorem carriageDrives : Obligations.CarriageDrives := by
  intro s live c put
  refine ⟨exec_finish live rfl ?_, exec_finish live rfl rfl, fun right i rests => ?_,
    fun m right i phase move whole short => ?_, fun phase => ?_, fun rests => ?_, fun m phase move => ?_, fun phase => ?_,
    fun m phase move search profile => ?_, fun elsewhere => ?_⟩
  · have on : (decide (0 < c.duty) && c.driving) = decide (0 < c.duty ∧ c.phase = .drive) := (Bool.decide_and _ _).symm
    have starts : c.periodStart = { c with loaded := c.duty, onPhase := decide (0 < c.duty ∧ c.phase = .drive) } := by
      rw [← on]
      rfl
    exact congrArg put starts
  · intro count
    have edge : c.edge right i = { c with count := count, capture := min i 65535 } := Carriage.edge_elsewhere right i rests
    refine exec_sensed live rfl ?_
    rw [State.encoderEdge, edge]
    rfl
  · intro count travelled remaining rises v period duty arrives moving
    have speed := CarriageMove.speed_eq { m with travelled := travelled } count
    have period_eq : CarriageMove.period { m with travelled := travelled } count = period :=
      (congrArg (Int.fdiv 1000000) speed).trans (Int.fdiv_eq_ediv_of_nonneg _ (Int.le_of_lt moving))
    have edge := (Carriage.edge_driving right phase move short).trans (congrArg₂ (fun (d : Nat) (q : Int) =>
      { c with
        count := count, capture := i, move := some { m with travelled := travelled }, duty := d, period := q,
        watch := (max 5000 (3 * q)).toNat, phase := if arrives then .brake .check else .drive,
        onPhase := if arrives then false else c.onPhase }) (loopDuty_eq c.duty i c.period) period_eq)
    refine ⟨_, exec_sensed live rfl rfl, ?_, rfl, ?_, rfl⟩
    · exact congrArg (fun x => { s.drive with carriage := x }) edge
    · have counted : (c.edge right i).count = count := by rw [edge]
      exact congrArg (fun n : Int => { s.pins with homeTripped := s.pins.homeTripped && decide (n ≤ 0) }) counted
  · have drives : c.driving = true := decide_eq_true phase
    exact exec_finish live rfl (if_pos drives)
  · have stands : ¬c.driving = true := by simpa [Carriage.driving] using rests
    exact exec_finish live rfl (if_neg stands)
  · intro away again
    let driven (leg : Leg) (duty : Nat) (overshot : Bool) : State :=
      put (c.beginDrive
        { m with rightward := decide (c.count < m.target), travelled := 0, leg := leg, overshot := overshot } duty)
    obtain ⟨there, near, twice, once⟩ := Carriage.endBrake_check phase move
    refine ⟨fun h => ?_, fun far fresh => ?_, fun far overshot homing => ?_, fun h search => ?_, fun h other homing head => ?_,
      fun m' h other homing clearing => ?_, fun o p h other homing head progress => ?_⟩
    · exact exec_finish live rfl ((State.carriageBrakeEnd_on (near h)).trans
        (congrArg (driven .trim 8) (Bool.or_false m.overshot).symm))
    · exact exec_finish live rfl ((State.carriageBrakeEnd_on (once far fresh)).trans
        (congrArg (driven .corrective 40) (Bool.or_true m.overshot).symm))
    · refine ⟨_, exec_finish live rfl (State.carriageBrakeEnd_faults (twice far overshot)), ?_⟩
      obtain ⟨state, fault⟩ := State.raiseFault_halts (s := s.setCarriage c.release) .carriageStall homing
      refine ⟨state, fault, ?_⟩
      rw [State.raiseFault_halted (s := s.setCarriage c.release) (fun h at_ => absurd (homing.symm.trans at_) (Option.some_ne_none h).symm)]
      rfl
    · have found := there h
      rw [search] at found
      exact ⟨_, exec_finish live rfl (State.carriageBrakeEnd_finds found), rfl, rfl, rfl, rfl⟩
    · exact exec_finish live rfl ((State.carriageBrakeEnd_rests other (there h)).trans
        (State.atRest_idle (s := s.setCarriage c.release) homing head))
    · exact exec_finish live rfl ((State.carriageBrakeEnd_rests other (there h)).trans
        (State.atRest_clearing (s := s.setCarriage c.release) homing clearing))
    · intro d gives fed goesOn closes completes
      let t : State := (s.setCarriage c.release).parked
      have rests : s.carriageBrakeEnd = t.parkedAt o p p.stage :=
        (State.carriageBrakeEnd_rests other (there h)).trans
          (State.atRest_at (s := s.setCarriage c.release) homing head progress)
      have at_progress : t.engine.progress = some p := progress
      have goes_on (rises : s.carriageBrakeEnd = t.strikeRise o p) : goesOn :=
        ⟨fun away idle => exec_finish live rfl (rises.trans (State.strikeRise_feeds at_progress away idle)),
          fun there released => exec_finish live rfl
            (rises.trans ((State.strikeRise_lifts (s := t) there).trans (State.strikeLift_pulls at_progress released)))⟩
      have sets (st : Stage) (eff : s.carriageBrakeEnd = t.setStage st) : gives st d :=
        exec_finish live rfl (eff.trans (State.setStage_some st at_progress))
      have path {petal : Nat} (at_petal : s.engine.petal = some petal) : t.wheelMove p = wheelPath petal p.petal := by
        rw [State.wheelMove, show t.engine.petal = some petal from at_petal]
      have completed (u : State) (slots : List Op) (ids : u.returnedIds = s.returnedIds) :
          slots.map (Op.forget u.returnedIds) = slots.map (Op.forget (match s.text.print with
            | some q => if closes q then q.record.entries.map Entry.id else []
            | none => [])) := by
        rw [ids, State.returnedIds]
        cases s.text.print <;> rfl
      refine ⟨fun stage => sets _ ?_, fun stage => goes_on ?_, fun petal stage at_petal low low' => ⟨fun same => goes_on ?_,
        fun differ idle one two => ?_⟩, fun stage => sets _ ?_, fun stage kind running => ?_,
        fun stage kind => ⟨fun feeds idle => ?_, fun still running => ?_⟩⟩
      · rw [rests, stage]; rfl
      · rw [rests, stage]; rfl
      · have still : ¬0 < (t.wheelMove p).2 := by
          rw [path at_petal, wheelPath_zero low low']
          exact not_not_intro same
        rw [rests, stage]
        exact if_neg still
      · intro n back speed
        have way : t.wheelMove p = (decide (n ≤ 48), back) := by
          rw [path at_petal, wheelPath_eq, Nat.mod_eq_of_lt low]
        have moves : 0 < (t.wheelMove p).2 := by
          rw [path at_petal]
          exact (wheelPath_zero low low').mpr differ
        have cruise : wheelCruise p.level = speed := by
          obtain level | level : p.level = 1 ∨ p.level = 2 := by omega
          all_goals
            simp only [speed, level]
            rfl
        have wheel : t.drive.wheel = .idle := idle
        have deadline : moveDeadline back speed p.level = 4 * (back * 1000 / speed + 80) := by
          rw [moveDeadline, if_pos two]
          ring
        have turns : s.carriageBrakeEnd = (t.requestWheel (t.wheelMove p) p.level).setStage (.moves false true) := by
          rw [rests, stage]
          exact if_pos moves
        rw [way, State.requestWheel, cruise, deadline, wheel] at turns
        exact exec_finish live rfl (turns.trans (State.setStage_some _ progress))
      · rw [rests, stage]; rfl
      · have effect : s.carriageBrakeEnd = t.completeOp := by rw [rests, stage]; rfl
        obtain ⟨drive, engine, closed, stands⟩ := State.completeOp_returns (s := t) head kind running
        refine ⟨_, exec_finish live rfl effect, drive, engine.trans ?_, closed, stands⟩
        rw [completed t _ rfl]
        rfl
      · have feed : t.drive.feed = .idle := idle
        have effect : s.carriageBrakeEnd = (t.requestFeed o.feed).setStage (.returning false true) := by
          rw [rests, stage]
          exact if_neg feeds
        rw [State.requestFeed, FeedPacer.request_idle _ feed] at effect
        exact exec_finish live rfl (effect.trans (State.setStage_some _ progress))
      · have effect : s.carriageBrakeEnd = (t.setPaperRise 0).completeOp := by
          rw [rests, stage]
          exact if_pos still
        obtain ⟨drive, engine, closed, stands⟩ := State.completeOp_returns (s := t.setPaperRise 0) head kind running
        refine ⟨_, exec_finish live rfl effect, drive, engine.trans ?_, closed, stands⟩
        rw [completed (t.setPaperRise 0) _ rfl]
        rfl
  · have ends : c.endBrake = (c.release, .unchecked) := by simp only [Carriage.endBrake, phase]
    have effect : s.carriageBrakeEnd = s.setCarriage c.release := by
      rw [State.carriageBrakeEnd, ends]
    exact exec_finish live rfl effect
  · have seeks : c.seeksHome = true := Carriage.seeksHome_iff.mpr ⟨phase, m, move, search, profile⟩
    refine exec_sensed live rfl ?_
    have trips : c.tripHome = ({ c with count := 0 } : Carriage).beginBrake .check := if_pos seeks
    rw [State.homeSensorTrip, trips, if_pos seeks]
    rfl
  · have stands : ¬c.seeksHome = true := by
      rw [Carriage.seeksHome_iff]
      rintro ⟨phase, m, move, search, profile⟩
      rw [move, Option.any_some] at elsewhere
      simp [phase, search, profile] at elsewhere
    refine exec_sensed live rfl ?_
    have trips : c.tripHome = c := if_neg stands
    rw [State.homeSensorTrip, trips, if_neg stands]
end

section
/-! SUPPORT. The taking of ops: the pace, the moves that begin, the drops, the rest move and the phases of a homing. -/

-- One proof after another: the check's process cannot start a thread for each.
set_option Elab.async false

namespace Sys2Proof.Machine

/-! ## The moves (R48, R60, R80, R92) -/

/-- The carriage channel at the begin of a drive phase at 300 units/s. -/
def Carriage.driven (c : Carriage) (count : Int) (m : CarriageMove) : Carriage :=
  { c with phase := .drive, duty := 40, period := 3333, watch := 9999, count := count, capture := 0, move := some m }

/-- A profiled move begins at 300 units/s. -/
theorem Carriage.beginDrive_begins {c : Carriage} {m : CarriageMove} (profile : m.leg = .profile) (fresh : m.travelled = 0)
    (cruise : 300 ≤ m.cruise)
    (away : m.kind = .search ∨ 0 ≤ (if m.rightward then m.target - c.count else c.count - m.target)) :
    c.beginDrive m 40 = c.driven c.count m := by
  have speed : m.speed c.count = 300 := by
    rw [CarriageMove.speed_eq, if_neg (not_not_intro profile), fresh]
    split
    · omega
    next other =>
      have ahead := away.resolve_left other
      omega
  have period : m.period c.count = 3333 := by rw [CarriageMove.period, speed]; rfl
  rw [Carriage.beginDrive, period]
  rfl

theorem carriageCruise_eq {level : Nat} (low : 1 ≤ level) (high : level ≤ 4) :
    carriageCruise level = if level = 4 then 1200 else if 2 ≤ level then 960 else 600 := by
  obtain rfl | rfl | rfl | rfl : level = 1 ∨ level = 2 ∨ level = 3 ∨ level = 4 := by omega
  all_goals rfl

theorem wheelCruise_eq {level : Nat} (low : 1 ≤ level) (high : level ≤ 4) :
    wheelCruise level = if level = 4 then 480 else if 2 ≤ level then 360 else 240 := by
  obtain rfl | rfl | rfl | rfl : level = 1 ∨ level = 2 ∨ level = 3 ∨ level = 4 := by omega
  all_goals rfl

theorem moveDeadline_eq (distance cruise level : Nat) :
    moveDeadline distance cruise level = (if level ≤ 2 then 2 else 1) * (2 * (distance * 1000 / cruise + 80)) := by
  rw [moveDeadline]
  split <;> omega

/-- The drive of a carriage move from a position to a target. -/
def Drive.driven (d : Drive) (p : Int) (target level : Nat) : Drive :=
  let cruise := if level = 4 then 1200 else if 2 ≤ level then 960 else 600
  { d with
    carriage := d.carriage.driven p
      { kind := .toPosition, target := target, cruise := cruise, rightward := decide (p < target), travelled := 0,
        leg := .profile, overshot := false },
    carriageDeadline := some ((if level ≤ 2 then 2 else 1) * (2 * (((target : Int) - p).natAbs * 1000 / cruise + 80))) }

theorem State.requestCarriage_drives {s : State} {p : Int} {target level : Nat} (at_ : s.engine.carriage = some p)
    (idle : s.drive.carriage.phase = .idle) (away : p ≠ target) (low : 1 ≤ level) (high : level ≤ 4) :
    s.requestCarriage target level = { s with drive := s.drive.driven p target level } := by
  have is_idle : s.drive.carriage.isIdle = true := decide_eq_true idle
  have cruise : 300 ≤ carriageCruise level := by
    rw [carriageCruise_eq low high]
    split
    · decide
    · split <;> decide
  have moves : s.drive.carriage.moveTo p target (carriageCruise level) = s.drive.carriage.driven p
      { kind := .toPosition, target := target, cruise := carriageCruise level, rightward := decide (p < target),
        travelled := 0, leg := .profile, overshot := false } := by
    refine (if_pos ⟨is_idle, away⟩).trans (Carriage.beginDrive_begins rfl rfl cruise (.inr ?_))
    dsimp only
    by_cases right : p < target
    · rw [if_pos (decide_eq_true right)]
      omega
    · rw [if_neg (by simpa using right)]
      omega
  unfold State.requestCarriage
  rw [at_]
  dsimp only
  rw [moves, moveDeadline_eq, carriageCruise_eq low high]
  rfl

theorem Engine.awayFrom_iff {e : Engine} {p : Int} (at_ : e.carriage = some p) (target : Nat) :
    e.awayFrom target = decide (p ≠ target) := by
  rw [Engine.awayFrom, at_]

/-- The drive of a wheel move by the shorter path. -/
def Drive.turned (d : Drive) (current petal level : Nat) : Drive :=
  let n := (petal + 96 - current % 96) % 96
  let back := if n ≤ 48 then n else 96 - n
  let speed := if level = 4 then 480 else if 2 ≤ level then 360 else 240
  { d with
    wheel := .moving (decide (n ≤ 48)) back speed 1,
    wheelDeadline := some ((if level ≤ 2 then 2 else 1) * (2 * (back * 1000 / speed + 80))) }

theorem State.requestWheel_turns {s : State} {current petal level : Nat} (idle : s.drive.wheel = .idle)
    (low : 1 ≤ level) (high : level ≤ 4) :
    s.requestWheel (wheelPath current petal) level = { s with drive := s.drive.turned current petal level } := by
  rw [State.requestWheel, wheelPath_eq, idle, moveDeadline_eq, wheelCruise_eq low high]
  rfl

theorem State.requestFeed_begins {s : State} (n : Int) (idle : s.drive.feed = .idle) : s.requestFeed n =
    { s with drive := { s.drive with feed := .feeding (decide (0 ≤ n)) (12 * n.natAbs) 1 } } := by
  rw [State.requestFeed, FeedPacer.request_idle n idle]

theorem State.wheelMove_eq {s : State} {current : Nat} (at_ : s.engine.petal = some current) (p : Progress) :
    s.wheelMove p = wheelPath current p.petal := by rw [State.wheelMove, at_]

/-! ## The steps that a strike begins with (R60, R62) -/

section
variable {s : State} {o : Op} {p : Progress} {pos : Int} {current : Nat}

theorem State.strikeMoves_cases (at_ : s.engine.carriage = some pos) (petal : s.engine.petal = some current)
    (hc : current < 96) (hp : p.petal < 96) :
    let path := wheelPath current p.petal
    (3 ≤ p.level → pos ≠ o.target → p.petal ≠ current → s.strikeMoves o p =
        ((s.requestCarriage o.target p.level).requestWheel path p.level).setStage (.moves true true))
      ∧ (3 ≤ p.level → pos ≠ o.target → p.petal = current →
        s.strikeMoves o p = (s.requestCarriage o.target p.level).setStage (.moves true false))
      ∧ (pos = o.target → p.petal ≠ current →
        s.strikeMoves o p = (s.requestWheel path p.level).setStage (.moves false true))
      ∧ (p.level ≤ 2 → pos ≠ o.target → s.strikeMoves o p = (s.requestCarriage o.target p.level).setStage .carriageFirst)
      ∧ (pos = o.target → p.petal = current → s.strikeMoves o p = s.strikeRise o p) := by
  intro path
  have turns : (0 < path.2) = (p.petal ≠ current) := propext ((wheelPath_zero hc hp).trans ne_comm)
  rw [State.strikeMoves, State.wheelMove_eq petal, Engine.awayFrom_iff at_]
  dsimp only
  rw [show wheelPath current p.petal = path from rfl]
  simp only [turns, overlap]
  refine ⟨fun fast away turn => ?_, fun fast away stay => ?_, fun there turn => ?_, fun slow away => ?_,
    fun there stay => ?_⟩
  · simp [fast, away, turn]
  · simp [fast, away, stay]
  · simp [there, turn]
  · simp [Nat.not_le.mpr (Nat.lt_succ_of_le slow), away]
  · simp [there, stay]

end

/-! ## The taking of an op (R55) -/

/-- An idle engine has an op to take, and what is left in the slots. -/
structure State.Offers (s : State) (o : Op) (rest : List Op) : Prop where
  ready : s.engine.state = .ready
  rested : s.engine.restMove = false
  homed : s.engine.rehome = false
  feed : s.drive.feed = .idle
  queue : (s.engine.head = some o ∧ s.engine.slots = rest) ∨ (s.engine.head = none ∧ s.engine.slots = o :: rest)

/-- The engine is RUNNING with an op in the head place. -/
def State.run (s : State) (o : Op) (rest : List Op) (p : Progress) : State :=
  { s with
    engine := { s.engine with state := .running, slots := rest, head := some o, progress := some p },
    line := s.line.askState }

/-- The pace of an op as it is taken. -/
def State.pace (s : State) (petal width : Nat) (st : Stage) : Progress :=
  { level := s.supply.ceiling, region := s.supply.region, petal := petal, width := width, stage := st }

/-- An op that is taken begins. -/
def State.startOp (s : State) (o : Op) (p : Progress) : State :=
  match o.kind with
  | .strike => s.startStrike o p
  | .feed => s.startFeed o
  | .carriageReturn => s.startReturn o p

section
variable {s : State} {o : Op} {rest : List Op}

theorem State.Offers.full (h : s.Offers o rest) : s.engine.emptyMark = false := by
  unfold Engine.emptyMark
  obtain ⟨head, -⟩ | ⟨-, slots⟩ := h.queue
  · rw [head, Option.isNone_some, Bool.and_false]
  · rw [slots]
    rfl

theorem State.Offers.takeOp (h : s.Offers o rest) :
    s.takeOp o rest = (s.run o rest (s.pace 0 0 (.moves false false))).startOp o (s.pace 0 0 (.moves false false)) := by
  have runs : State.setEngine { s.setQueue rest (some o) with
      engine := { (s.setQueue rest (some o)).engine with progress := some (s.pace 0 0 (.moves false false)) } } .running
      = s.run o rest (s.pace 0 0 (.moves false false)) := by
    have marked : ((rest.isEmpty && (some o).isNone) == s.engine.emptyMark) = true := by
      rw [h.full, Option.isNone_some, Bool.and_false]
      rfl
    rw [State.setQueue, if_pos marked, State.setEngine, h.ready]
    rfl
  exact congrArg (fun t : State => t.startOp o (s.pace 0 0 (.moves false false))) runs

theorem State.Offers.takeOps (h : s.Offers o rest) (n : Nat) : s.takeOps (n + 1) = (s.takeOp o rest).takeOps n := by
  have may : s.mayTake = true := by simp [State.mayTake, h.ready, h.rested, h.homed, h.feed]
  have next : s.engine.nextOp = some (o, rest) := by
    unfold Engine.nextOp
    obtain ⟨head, slots⟩ | ⟨head, slots⟩ := h.queue <;> rw [head, slots]
  rw [State.takeOps, if_pos may, next]

theorem State.Offers.engineActs (h : s.Offers o rest) :
    s.engineActs = ((s.takeOp o rest).takeOps (s.engine.slots.length + 1)).idleEngine.advanceHoming := by
  rw [State.engineActs, State.advanceHoming_elsewhere (s := s) (by rw [h.ready]; decide), h.takeOps]

/-- An op that runs on keeps the engine from the next one. -/
theorem State.Offers.runs (h : s.Offers o rest) (running : (s.takeOp o rest).engine.state = .running) :
    s.engineActs = s.takeOp o rest := by
  rw [h.engineActs, State.takeOps_elsewhere _ (by rw [running]; decide),
    State.idleEngine_elsewhere (by rw [running]; decide) (by rw [running]; decide),
    State.advanceHoming_elsewhere (by rw [running]; decide)]

theorem State.Offers.strike (h : s.Offers o rest) (kind : o.kind = .strike) : s.takeOp o rest
    = (s.run o rest (s.pace 0 0 (.moves false false))).startStrike o (s.pace 0 0 (.moves false false)) := by
  rw [h.takeOp, State.startOp, kind]

theorem State.Offers.feeds (h : s.Offers o rest) (kind : o.kind = .feed) :
    s.takeOp o rest = (s.run o rest (s.pace 0 0 (.moves false false))).startFeed o := by
  rw [h.takeOp, State.startOp, kind]

theorem State.Offers.returns (h : s.Offers o rest) (kind : o.kind = .carriageReturn) : s.takeOp o rest
    = (s.run o rest (s.pace 0 0 (.moves false false))).startReturn o (s.pace 0 0 (.moves false false)) := by
  rw [h.takeOp, State.startOp, kind]

/-- The strike of a character on the wheel, with its petal and its pulse width (R49). -/
theorem State.Offers.strikes (h : s.Offers o rest) (kind : o.kind = .strike) {petal : Nat}
    (at_ : petalFor s.engine.wheel o.char = some petal) (tape : o.medium = .tape → s.engine.tapeSpent = false) :
    let p := s.pace petal (pulseWidth (impressionClass (s.engine.wheel.getD 0) o.char) o.impression o.medium s.supply.ceiling)
      (.moves false false)
    s.takeOp o rest = (s.run o rest p).strikeMoves o p := by
  intro p
  have spare : ¬(o.medium = .tape ∧ s.engine.tapeSpent = true) := fun ⟨medium, spent⟩ => by
    rw [tape medium] at spent
    cases spent
  rw [h.strike kind]
  unfold State.startStrike
  rw [show petalFor (s.run o rest (s.pace 0 0 (.moves false false))).engine.wheel o.char = some petal from at_]
  exact if_neg spare

end

/-! ## Drops (R61) -/

/-- The op has left the head place and the queue stands behind it. -/
theorem State.startStrike_dropped {s : State} {o : Op} {p : Progress} (off : petalFor s.engine.wheel o.char = none) :
    s.startStrike o p = s.dropOp o false := by
  rw [State.startStrike, off]

theorem State.startStrike_spent {s : State} {o : Op} {p : Progress} {petal : Nat}
    (on : petalFor s.engine.wheel o.char = some petal) (tape : o.medium = .tape) (spent : s.engine.tapeSpent = true) :
    s.startStrike o p = s.dropOp o true := by
  rw [State.startStrike, on]
  exact if_pos ⟨tape, spent⟩

/-- The rest of a drop, with the entry that was found for the op. -/
def State.dropFound (s : State) (o : Op) (tapeEnd : Bool) (found : Option Entry) : State :=
  let s3 : State := match found with
    | none => s
    | some e =>
      if o.origin = .text ∧ e.state = .queued ∧ ¬tapeEnd then s.removeEntry e
      else if e.state = .lifting then s.setEntryState e.id .printed
      else s
  let s4 := if tapeEnd then s3 else s3.post .char
  let s5 : State := match o.origin with
    | .correction => s4.abandonCorrection tapeEnd
    | .text => s4
  s5.setEngine s5.engine.idleState

theorem State.dropOp_eq (s : State) (o : Op) (tapeEnd : Bool) :
    s.dropOp o tapeEnd = s.vacated.dropFound o tapeEnd (o.ref.bind s.vacated.text.find) := by
  unfold State.dropOp State.dropFound
  cases o.ref <;> rfl

theorem State.dropFound_removes {s : State} {o : Op} {e : Entry} (origin : o.origin = .text) (queued : e.state = .queued) :
    s.dropFound o false (some e)
      = ((s.removeEntry e).post .char).setEngine (s.removeEntry e).engine.idleState := by
  have removes : o.origin = .text ∧ e.state = .queued ∧ ¬false = true := ⟨origin, queued, Bool.false_ne_true⟩
  unfold State.dropFound
  dsimp only
  rw [if_pos removes, origin]
  rfl

theorem State.dropFound_reverts {s : State} {o : Op} {e : Entry} (origin : o.origin = .correction) (lifting : e.state = .lifting)
    (tapeEnd : Bool) : ∃ st, s.dropFound o tapeEnd (some e) =
      ((if tapeEnd then s.setEntryState e.id .printed else (s.setEntryState e.id .printed).post .char).abandonCorrection
        tapeEnd).setEngine st := by
  have stands : ¬(o.origin = .text ∧ e.state = .queued ∧ ¬tapeEnd = true) := fun h => by
    rw [origin] at h
    cases h.1
  unfold State.dropFound
  dsimp only
  rw [if_neg stands, if_pos lifting, origin]
  exact ⟨_, rfl⟩

theorem State.dropFound_nothing {s : State} {o : Op} (origin : o.origin = .text) :
    s.dropFound o false none = (s.post .char).setEngine s.engine.idleState := by
  unfold State.dropFound
  rw [origin]
  rfl

/-- The members that return to PRINTED. -/
theorem foldl_setEntryState (ids : List Nat) (st : EntryState) (s : State) :
    ids.foldl (fun acc id => acc.setEntryState id st) s
      = { s with text := ids.foldl (fun t i => t.modify i (fun y => { y with state := st })) s.text } := by
  induction ids generalizing s with
  | nil => rfl
  | cons i ids ih => exact ih (s.setEntryState i st)

/-- The correction is abandoned with the head place empty. -/
theorem State.abandonCorrection_told {s : State} (items : s.corr.items ≠ []) (head : s.engine.head = none)
    (progress : s.engine.progress = none) (tapeEnd : Bool) :
    let t := s.abandonCorrection tapeEnd
    t.corr = { s.corr with items := [] }
      ∧ t.engine = { s.engine with slots := s.engine.slots.filter (fun q => !q.isTapeStrike) }
      ∧ t.text = ((s.engine.slots.filter Op.isTapeStrike).filterMap Op.ref).foldl
          (fun t i => t.modify i (fun y => { y with state := .printed })) s.text
      ∧ t.display = (if tapeEnd then s.display.post .tape else s.display) ∧ t.drive = s.drive := by
  intro t
  have stands : ¬s.corr.items.isEmpty = true := by rwa [List.isEmpty_iff]
  have removed : (s.removeOps Op.isTapeStrike).engine
      = { s.engine with slots := s.engine.slots.filter (fun q => !q.isTapeStrike) } := by
    have removes : s.removeOps Op.isTapeStrike = s.setQueue (s.engine.slots.filter (fun q => !q.isTapeStrike)) none := by
      rw [State.removeOps, progress, head]
      rfl
    rw [removes, State.setQueue, ← head]
  have abandons : t = if tapeEnd then
      State.post { s.removeOps Op.isTapeStrike with
        text := ((s.engine.slots.filter Op.isTapeStrike).filterMap Op.ref).foldl
          (fun t i => t.modify i (fun y => { y with state := .printed })) s.text,
        corr := { s.corr with items := [] } } .tape
      else { s.removeOps Op.isTapeStrike with
        text := ((s.engine.slots.filter Op.isTapeStrike).filterMap Op.ref).foldl
          (fun t i => t.modify i (fun y => { y with state := .printed })) s.text,
        corr := { s.corr with items := [] } } := by
    refine (if_neg stands).trans ?_
    rw [progress, head]
    dsimp only [Option.toList, List.nil_append]
    rw [foldl_setEntryState]
    rfl
  rw [abandons]
  cases tapeEnd <;> exact ⟨rfl, removed, rfl, rfl, rfl⟩

/-! ## The engine with no op to take (R67, R68, R71) -/

theorem State.takeOps_empty {s : State} (head : s.engine.head = none) (slots : s.engine.slots = []) (n : Nat) :
    s.takeOps n = s := by
  have next : s.engine.nextOp = none := by rw [Engine.nextOp, head, slots]
  cases n with
  | zero => rfl
  | succ n =>
    rw [State.takeOps, next]
    exact ite_self s

theorem State.takeOps_waits {s : State} (rehome : s.engine.rehome = true) (n : Nat) : s.takeOps n = s := by
  cases n with
  | zero => rfl
  | succ n => exact if_neg (by simp [State.mayTake, rehome])

theorem TextUnit.restPoint_eq (t : TextUnit) :
    t.restPoint = match t.settings.mode with | .direct => min t.pp 1599 | .line => t.settings.lm := by
  unfold TextUnit.restPoint
  cases t.settings.mode <;> rfl

theorem State.idleEngine_rests {s : State} (ready : s.engine.state = .ready) (rested : s.engine.restMove = false)
    (homed : s.engine.rehome = false) (empty : s.engine.emptyMark = true) (away : s.engine.awayFrom s.text.restPoint = true)
    (idle : s.drive.carriage.phase = .idle) : s.idleEngine =
      { s.requestCarriage s.text.restPoint s.supply.ceiling with
        engine := { (s.requestCarriage s.text.restPoint s.supply.ceiling).engine with restMove := true } } :=
  (if_pos ⟨.inl ready, rested⟩).trans ((if_neg (by rw [homed]; exact Bool.false_ne_true)).trans
    (if_pos ⟨ready, empty, away, decide_eq_true idle⟩))

theorem State.idleEngine_rehomes {s : State} (state : s.engine.state = .ready ∨ s.engine.state = .held)
    (rested : s.engine.restMove = false) (rehome : s.engine.rehome = true) : s.idleEngine = s.startHoming .wheelOnly :=
  (if_pos ⟨state, rested⟩).trans (if_pos rehome)

/-- What a homing does in a phase that may be due. -/
def State.homingStep (s : State) : HomingPhase → State
  | .carriageDue => if s.drive.carriage.isIdle then s.beginCarriagePhase else s
  | .wheelDue => if s.drive.wheel = .idle then s.beginWheelPhase else s
  | _ => s

theorem State.advanceHoming_at {s : State} {h : Homing} (state : s.engine.state = .homing) (cover : s.engine.holds.cover = false)
    (homing : s.engine.homing = some h) : s.advanceHoming = s.homingStep h.phase := by
  refine (if_pos ⟨state, by rw [cover]; exact Bool.false_ne_true⟩).trans ?_
  rw [homing]
  dsimp only
  cases h.phase <;> rfl

/-- A homing whose carriage phase is due begins it: the move off the sensor, or the search. -/
theorem State.beginCarriagePhase_eq {s : State} {h : Homing} (homing : s.engine.homing = some h)
    (idle : s.drive.carriage.phase = .idle) : s.beginCarriagePhase =
      { s with
        engine := { s.engine with homing := some { h with phase := if s.pins.homeTripped then .clearing else .searching } },
        drive :=
          { s.drive with
            homingDeadline := some 3000,
            carriage := s.drive.carriage.driven 0
              { kind := if s.pins.homeTripped then .signed else .search, target := if s.pins.homeTripped then 30 else 0,
                cruise := 600, rightward := s.pins.homeTripped, travelled := 0, leg := .profile, overshot := false } } } := by
  have is_idle : s.drive.carriage.isIdle = true := decide_eq_true idle
  have clears : s.drive.carriage.clearHome = s.drive.carriage.driven 0
      { kind := .signed, target := 30, cruise := 600, rightward := true, travelled := 0, leg := .profile, overshot := false } :=
    (if_pos is_idle).trans (Carriage.beginDrive_begins (c := { s.drive.carriage with count := 0 }) rfl rfl (by decide)
      (.inr (show (0 : Int) ≤ 30 - 0 by decide)))
  have searches : s.drive.carriage.searchHome = s.drive.carriage.driven 0
      { kind := .search, target := 0, cruise := 600, rightward := false, travelled := 0, leg := .profile, overshot := false } :=
    (if_pos is_idle).trans (Carriage.beginDrive_begins (c := { s.drive.carriage with count := 0 }) rfl rfl (by decide)
      (.inl rfl))
  unfold State.beginCarriagePhase State.setPhase
  cases tripped : s.pins.homeTripped with
  | true =>
    rw [if_pos rfl]
    dsimp only
    rw [clears, homing]
    rfl
  | false =>
    rw [if_neg Bool.false_ne_true]
    dsimp only
    rw [searches, homing]
    rfl

theorem State.beginWheelPhase_eq {s : State} {h : Homing} (homing : s.engine.homing = some h)
    (idle : s.drive.wheel = .idle) : s.beginWheelPhase =
      { s with
        engine := { s.engine with rehome := false, homing := some { h with phase := .wheelSearch } },
        drive := { s.drive with wheel := .searching 1 [], wheelDeadline := some 3520 } } := by
  unfold State.beginWheelPhase State.setPhase
  dsimp only
  rw [idle, homing]
  rfl

/-- A homing whose phase is due begins it and no more. -/
theorem State.engineActs_homing {s t : State} {k : Homing} (begins : s.advanceHoming = t) (state' : t.engine.state = .homing) (cover : t.engine.holds.cover = false)
    (homing : t.engine.homing = some k) (phase : k.phase = .clearing ∨ k.phase = .searching ∨ k.phase = .wheelSearch) :
    s.engineActs = t := by
  have stays : t.advanceHoming = t := by
    rw [State.advanceHoming_at state' cover homing]
    obtain p | p | p := phase <;> rw [p] <;> rfl
  rw [State.engineActs, begins, State.takeOps_elsewhere _ (by rw [state']; decide),
    State.idleEngine_elsewhere (by rw [state']; decide) (by rw [state']; decide), stays]

end Sys2Proof.Machine

open Sys2Proof Sys2Proof.Machine

/-- Settles O6. -/
theorem engineTakesFeed : Obligations.EngineTakesFeed := by
  refine ⟨fun s o rest ready rested homed feed queue => ?_, fun s => ?_,
    fun wheel a b p ha hb => ⟨petalFor_inj ha hb, petalFor_lt ha⟩, fun wheel a => ?_⟩
  · intro u level doubled cruise wheelSpeed pace begun driven turned fed
    have offers : s.Offers o rest := ⟨ready, rested, homed, feed, queue⟩
    have begins {v : State} (takes : u = v) (running : v.engine.state = .running) : u = v ∧ s.engineActs = u :=
      ⟨takes, offers.runs ((congrArg (fun t : State => t.engine.state) takes).trans running)⟩
    let v : State := s.run o rest (s.pace 0 0 (.moves false false))
    have looked {id : Nat} {e : Entry} (ref : o.ref = some id) (found : s.text.find id = some e) :
        o.ref.bind v.vacated.text.find = some e := by
      rw [ref]
      exact found
    refine ⟨offers.takeOps, offers.engineActs, fun kind moves => ?_,
      fun p c petal cls kind carriage petal_at low low' on class_ tape one four idle still => ?_,
      fun id e kind ref found => ⟨fun off origin queued => ?_, fun cause origin lifting items => ?_⟩,
      fun kind ref origin off => ?_, fun p kind carriage one four idle => ?_⟩
    · refine begins (v := begun (pace 0 0 .feeding) (fed s.drive o.feed))
        ((offers.feeds kind).trans ((if_neg moves).trans ?_)) rfl
      rw [State.requestFeed_begins (s := s.run o rest (s.pace 0 0 (.moves false false))) _ feed]
      rfl
    · intro base lifted width done
      have width_eq : pulseWidth (impressionClass (s.engine.wheel.getD 0) o.char) o.impression o.medium s.supply.ceiling
          = width := by
        rw [class_]
        unfold width lifted base pulseWidth
        cases o.medium <;> cases o.impression <;> rfl
      let p' : Progress := s.pace petal width (.moves false false)
      have takes : u = (s.run o rest p').strikeMoves o p' := by
        have strikes := offers.strikes kind on tape
        rw [width_eq] at strikes
        exact strikes
      have low_level : p'.level = level := rfl
      obtain ⟨both, carriage_only, wheel_only, first, stays⟩ :=
        State.strikeMoves_cases (s := s.run o rest p') (o := o) (p := p') carriage petal_at low low'
      have drives (away : p ≠ o.target) : (s.run o rest p').requestCarriage o.target p'.level
          = { s.run o rest p' with drive := driven s.drive p } :=
        State.requestCarriage_drives (s := s.run o rest p') carriage idle away one four
      have turns (d : Drive) (at_wheel : d.wheel = .idle) :
          ({ s.run o rest p' with drive := d } : State).requestWheel (wheelPath c p'.petal) p'.level
            = { s.run o rest p' with drive := turned d c petal } :=
        State.requestWheel_turns (s := { s.run o rest p' with drive := d }) at_wheel one four
      have goes {st : Stage} {d : Drive} (takes : u = begun (pace petal width st) d) : done st d := begins takes rfl
      refine ⟨fun fast away turn => goes ?_, fun fast away stay => goes ?_, fun there turn => goes ?_,
        fun slow away => goes ?_, fun there stay away => goes ?_, fun there stay level_ released => goes ?_⟩
      · refine takes.trans ((both fast away turn).trans ?_)
        rw [drives away, turns (driven s.drive p) still]
        rfl
      · refine takes.trans ((carriage_only fast away stay).trans ?_)
        rw [drives away]
        rfl
      · exact takes.trans ((wheel_only there turn).trans
          ((congrArg (State.setStage · (.moves false true)) (turns s.drive still)).trans rfl))
      · refine takes.trans ((first slow away).trans ?_)
        rw [drives away]
        rfl
      · exact takes.trans ((stays there stay).trans (State.strikeRise_feeds (s := s.run o rest p') rfl away feed))
      · exact takes.trans ((stays there stay).trans ((State.strikeRise_lifts (s := s.run o rest p') level_).trans
          (State.strikeLift_pulls (s := s.run o rest p') rfl released)))
    · have takes : u = ((v.vacated.removeEntry e).post .char).setEngine (v.vacated.removeEntry e).engine.idleState :=
        (offers.strike kind).trans ((State.startStrike_dropped (s := v) off).trans ((v.dropOp_eq o false).trans
          ((congrArg (v.vacated.dropFound o false) (looked ref found)).trans (State.dropFound_removes origin queued))))
      obtain ⟨drive, -, -, ids, engine⟩ := v.vacated.removeEntry_reports e
      have spares := v.vacated.removeEntry_spares e
      rw [takes]
      refine ⟨?_, congrArg (Display.post · .char) spares.display, ?_, ?_, ?_, drive, ?_, ?_⟩
      · rw [← TextUnit.find_id found]
        exact v.vacated.removeEntry_gone e
      · exact (congrArg (fun e : Engine => e.head) engine).trans rfl
      · exact (congrArg (fun e : Engine => e.progress) engine).trans rfl
      · exact (congrArg (fun e : Engine => e.idleState) engine).trans rfl
      · exact (congrArg (fun e : Engine => e.slots.length) engine).trans (List.length_map _)
      · exact (congrArg (fun e : Engine => e.lastPulse) engine).trans rfl
    · have dropped (tapeEnd : Bool) (drops : v.startStrike o (s.pace 0 0 (.moves false false)) = v.dropOp o tapeEnd)
          (message : (if petalFor s.engine.wheel o.char = none then .char else .tape) = if tapeEnd then Message.tape else .char) :
          u.corr = { s.corr with items := [] } ∧ u.engine.slots = rest.filter (fun q => !q.isTapeStrike)
            ∧ u.text = (id :: (rest.filter Op.isTapeStrike).filterMap Op.ref).foldl
                (fun t i => t.modify i (fun y => { y with state := .printed })) s.text
            ∧ u.display = s.display.post (if petalFor s.engine.wheel o.char = none then .char else .tape)
            ∧ u.engine.head = none ∧ u.engine.progress = none ∧ u.drive = s.drive := by
        obtain ⟨st, reverts⟩ := State.dropFound_reverts (s := v.vacated) origin lifting tapeEnd
        have takes := (offers.strike kind).trans (drops.trans ((v.dropOp_eq o tapeEnd).trans
          ((congrArg (v.vacated.dropFound o tapeEnd) (looked ref found)).trans reverts)))
        rw [TextUnit.find_id found] at takes
        rw [show u = s.takeOp o rest from rfl, takes, message]
        let w : State := v.vacated.setEntryState id .printed
        cases tapeEnd with
        | true =>
          obtain ⟨corr, engine, text, display, drive⟩ := State.abandonCorrection_told (s := w) items rfl rfl true
          exact ⟨corr, (congrArg (fun e : Engine => e.slots) engine).trans rfl, text, display,
            (congrArg (fun e : Engine => e.head) engine).trans rfl,
            (congrArg (fun e : Engine => e.progress) engine).trans rfl, drive⟩
        | false =>
          obtain ⟨corr, engine, text, display, drive⟩ := State.abandonCorrection_told (s := w.post .char) items rfl rfl false
          exact ⟨corr, (congrArg (fun e : Engine => e.slots) engine).trans rfl, text, display,
            (congrArg (fun e : Engine => e.head) engine).trans rfl,
            (congrArg (fun e : Engine => e.progress) engine).trans rfl, drive⟩
      cases on : petalFor s.engine.wheel o.char with
      | none =>
        have off := dropped false (State.startStrike_dropped (s := v) on) (by rw [on]; rfl)
        rwa [on] at off
      | some petal =>
        obtain ⟨tape, spent⟩ := cause.resolve_left (by rw [on]; exact Option.some_ne_none petal)
        have off := dropped true (State.startStrike_spent (s := v) on tape spent) (by rw [on]; rfl)
        rwa [on] at off
    · have takes : u = (v.vacated.post .char).setEngine v.vacated.engine.idleState :=
        (offers.strike kind).trans ((State.startStrike_dropped (s := v) off).trans ((v.dropOp_eq o false).trans
          ((congrArg (v.vacated.dropFound o false) (by rw [ref]; rfl)).trans (State.dropFound_nothing origin))))
      rw [takes]
      exact ⟨rfl, rfl, rfl, rfl, rfl, rfl, rfl⟩
    · let p' : Progress := s.pace 0 0 (.moves false false)
      have takes : u = (s.run o rest p').startReturn o p' := offers.returns kind
      have drives (away : p ≠ o.target) : (s.run o rest p').requestCarriage o.target p'.level
          = { s.run o rest p' with drive := driven s.drive p } :=
        State.requestCarriage_drives (s := s.run o rest p') carriage idle away one four
      have away_iff : (s.run o rest p').engine.awayFrom o.target = decide (p ≠ o.target) :=
        Engine.awayFrom_iff (e := (s.run o rest p').engine) carriage o.target
      have starts (away : p ≠ o.target) : u = if overlap level then
          (if o.feed = 0 then (({ s.run o rest p' with drive := driven s.drive p } : State).setPaperRise 0).setStage (.returning true false)
            else (({ s.run o rest p' with drive := driven s.drive p } : State).requestFeed o.feed).setStage (.returning true true))
          else ({ s.run o rest p' with drive := driven s.drive p } : State).setStage .returnCarriageFirst := by
        rw [takes, State.startReturn, away_iff, decide_eq_true away]
        dsimp only
        rw [drives away]
        rfl
      have stays (there : p = o.target) : u = (s.run o rest p').returnFeed o := by
        rw [takes, State.startReturn, away_iff, decide_eq_false (not_not_intro there)]
        rfl
      have fast_on (fast : 3 ≤ level) : overlap level = true := decide_eq_true fast
      refine ⟨fun fast away feeds => begins ?_ rfl, fun fast away still => begins ?_ rfl, fun slow away => begins ?_ rfl,
        fun there feeds => begins ?_ rfl⟩
      · rw [starts away, if_pos (fast_on fast), if_neg feeds,
          State.requestFeed_begins (s := { s.run o rest p' with drive := driven s.drive p }) _ feed]
        rfl
      · rw [starts away, if_pos (fast_on fast), if_pos still]
        rfl
      · rw [starts away, if_neg (by simp [overlap]; omega)]
        rfl
      · rw [stays there, State.returnFeed, if_neg feeds, State.requestFeed_begins (s := s.run o rest p') _ feed]
        rfl
  · intro rest cruise
    refine ⟨fun p ready rested homed head slots carriage away idle one four => ?_,
      fun state rested rehome cover wheel => ?_, fun h state homing => ⟨fun cover => ?_, fun cover due idle => ?_,
      fun cover due idle => ?_⟩⟩
    · have empty : s.engine.emptyMark = true := by rw [Engine.emptyMark, slots, head]; rfl
      have point : s.text.restPoint = rest := s.text.restPoint_eq
      have off : s.engine.awayFrom s.text.restPoint = true := by
        rw [Engine.awayFrom_iff carriage, point]
        exact decide_eq_true away
      have drives := State.requestCarriage_drives (s := s) (target := rest) carriage idle away one four
      have moves := State.idleEngine_rests ready rested homed empty off idle
      rw [point, drives] at moves
      rw [State.engineActs, State.advanceHoming_elsewhere (s := s) (by rw [ready]; decide), State.takeOps_empty head slots,
        moves]
      exact State.advanceHoming_elsewhere (fun h => absurd (ready.symm.trans h) (by decide))
    · have elsewhere : s.engine.state ≠ .homing := by obtain h | h := state <;> rw [h] <;> decide
      let due : State :=
        { s with
          drive := s.drive.releaseLifts,
          engine := { s.engine with state := .homing, homing := some { kind := .wheelOnly, phase := .wheelDue } },
          line := s.line.askState }
      have starts : s.startHoming .wheelOnly = due := by
        rw [State.startHoming, State.setEngine]
        dsimp only
        rw [if_neg elsewhere]
        rfl
      rw [State.engineActs, State.advanceHoming_elsewhere elsewhere, State.takeOps_waits rehome,
        State.idleEngine_rehomes state rested rehome]
      exact (congrArg State.advanceHoming starts).trans ((State.advanceHoming_at (s := due) rfl cover rfl).trans
        ((if_pos wheel).trans (State.beginWheelPhase_eq (s := due) rfl wheel)))
    · rw [State.engineActs, State.advanceHoming_covered cover, State.takeOps_elsewhere _ (by rw [state]; decide),
        State.idleEngine_elsewhere (by rw [state]; decide) (by rw [state]; decide), State.advanceHoming_covered cover]
    · have begins : s.advanceHoming = s.beginCarriagePhase := by
        rw [State.advanceHoming_at state cover homing, due]
        exact if_pos (decide_eq_true idle)
      refine State.engineActs_homing (begins.trans (State.beginCarriagePhase_eq homing idle)) state cover rfl ?_
      cases s.pins.homeTripped
      · exact .inr (.inl rfl)
      · exact .inl rfl
    · have begins : s.advanceHoming = s.beginWheelPhase := by
        rw [State.advanceHoming_at state cover homing, due]
        exact if_pos idle
      exact State.engineActs_homing (begins.trans (State.beginWheelPhase_eq homing idle)) state cover rfl (.inr (.inr rfl))
  · unfold petalFor onWheel
    cases wheel with
    | none => exact iff_of_true rfl rfl
    | some code =>
      dsimp only
      cases bears code a <;> simp
end

section
/-! SUPPORT. A dispatch: what the line records hold, the gaps of a justified line, and the word records that move. -/

-- One proof after another: the check's process cannot start a thread for each.
set_option Elab.async false

namespace Sys2Proof.Machine

/-! ## Entries that are added (R2) -/

/-- An entry but for its order number. -/
def Entry.unnumbered (e : Entry) : Entry := { e with order := 0 }

theorem perm_insertByOrder (e : Entry) (l : List Entry) : (insertByOrder e l).Perm (e :: l) := by
  induction l with
  | nil => exact .refl _
  | cons y ys ih =>
    unfold insertByOrder
    split
    · exact .refl _
    · exact (ih.cons y).trans (.swap e y ys)

theorem perm_byOrder (l : List Entry) : (byOrder l).Perm l := by
  suffices h : ∀ (l acc : List Entry), (l.foldl (fun acc e => insertByOrder e acc) acc).Perm (l ++ acc) by
    have all := h l []
    rwa [List.append_nil] at all
  intro l
  induction l with
  | nil => exact fun acc => .refl _
  | cons e es ih =>
    intro acc
    exact (ih (insertByOrder e acc)).trans (((perm_insertByOrder e acc).append_left es).trans List.perm_middle)

theorem numberFrom_unnumbered (n : Nat) (l : List Entry) : (numberFrom n l).map Entry.unnumbered = l.map Entry.unnumbered := by
  induction l generalizing n with
  | nil => rfl
  | cons e es ih => exact congrArg (e.unnumbered :: ·) (ih (n + 1))

theorem LineRecord.renumbered_perm (r : LineRecord) :
    (r.renumbered.entries.map Entry.unnumbered).Perm (r.entries.map Entry.unnumbered) := by
  unfold LineRecord.renumbered
  split
  · refine ((perm_sortEntries _).map _).trans ?_
    rw [numberFrom_unnumbered]
    exact (perm_byOrder _).map _
  · exact .refl _

/-- Entries that are added join those that stand, but for the order numbers. -/
theorem LineRecord.addAll_perm (es : List Entry) (r : LineRecord) :
    ((r.addAll es).entries.map Entry.unnumbered).Perm ((r.entries ++ es).map Entry.unnumbered) := by
  induction es generalizing r with
  | nil => rw [List.append_nil]; exact .refl _
  | cons e es ih =>
    have added : ((r.add e).entries.map Entry.unnumbered).Perm (e.unnumbered :: r.entries.map Entry.unnumbered) :=
      ((perm_insertEntry _ _).map _).trans (r.renumbered_perm.cons _)
    refine (ih (r.add e)).trans ?_
    rw [List.map_append, List.map_append, List.map_cons]
    exact (added.append_right _).trans List.perm_middle.symm

/-! ## Gaps (R45) -/

theorem mem_gapPositions {r q : Nat} {l : List Entry} (sorted : l.Pairwise (fun a b => a.pos ≤ b.pos)) :
    q ∈ gapPositions r l ↔ (∃ e ∈ l, e.pos = q) ∧ r < q ∧ ∀ e ∈ l, e.pos < q → e.endPos < q := by
  induction l generalizing r with
  | nil => simp [gapPositions]
  | cons e es ih =>
    obtain ⟨first, sorted⟩ := List.pairwise_cons.mp sorted
    have width : e.pos ≤ e.endPos := Nat.le_add_right _ _
    rw [gapPositions, List.mem_append, ih sorted]
    constructor
    · rintro (head | ⟨⟨x, hx, at_⟩, later, ends⟩)
      · split at head
        next gap =>
          obtain rfl := List.mem_singleton.mp head
          refine ⟨⟨e, List.mem_cons_self, rfl⟩, gap, fun x hx before => ?_⟩
          obtain rfl | hx := List.mem_cons.mp hx
          · exact absurd before (Nat.lt_irrefl _)
          · exact absurd (first x hx) (Nat.not_le.mpr before)
        · cases head
      · refine ⟨⟨x, List.mem_cons_of_mem _ hx, at_⟩, lt_of_le_of_lt (le_max_left _ _) later, fun y hy before => ?_⟩
        obtain rfl | hy := List.mem_cons.mp hy
        · exact lt_of_le_of_lt (le_max_right _ _) later
        · exact ends y hy before
    · rintro ⟨⟨x, hx, at_⟩, later, ends⟩
      by_cases here : e.pos = q
      · refine .inl ?_
        rw [if_pos (here ▸ later), here]
        exact List.mem_singleton_self q
      · obtain rfl | hx := List.mem_cons.mp hx
        · exact absurd at_ here
        · have before : e.pos < q := lt_of_le_of_ne (at_ ▸ first x hx) here
          exact .inr ⟨⟨x, hx, at_⟩, max_lt later (ends e List.mem_cons_self before),
            fun y hy => ends y (List.mem_cons_of_mem _ hy)⟩

theorem gapPositions_rising {r : Nat} {l : List Entry} (sorted : l.Pairwise (fun a b => a.pos ≤ b.pos)) :
    (gapPositions r l).Pairwise (fun a b => a < b) := by
  induction l generalizing r with
  | nil => exact .nil
  | cons e es ih =>
    obtain ⟨-, sorted⟩ := List.pairwise_cons.mp sorted
    have width : e.pos ≤ e.endPos := Nat.le_add_right _ _
    rw [gapPositions]
    split
    · refine List.pairwise_cons.mpr ⟨fun q hq => ?_, ih sorted⟩
      obtain ⟨-, later, -⟩ := (mem_gapPositions sorted).mp hq
      exact lt_of_le_of_lt (width.trans (le_max_right _ _)) later
    · exact ih sorted

/-- The gaps of a line: where an entry begins, none of those before it having ended there. -/
theorem mem_gaps {q : Nat} {l : List Entry} (sorted : l.Pairwise (fun a b => a.pos ≤ b.pos)) :
    q ∈ gaps l ↔ (∃ e ∈ l, e.pos = q) ∧ (∃ e ∈ l, e.pos < q) ∧ ∀ e ∈ l, e.pos < q → e.endPos < q := by
  cases l with
  | nil => simp [gaps]
  | cons e es =>
    obtain ⟨first, sorted⟩ := List.pairwise_cons.mp sorted
    have width : e.pos ≤ e.endPos := Nat.le_add_right _ _
    rw [gaps, mem_gapPositions sorted]
    constructor
    · rintro ⟨⟨x, hx, at_⟩, later, ends⟩
      refine ⟨⟨x, List.mem_cons_of_mem _ hx, at_⟩, ⟨e, List.mem_cons_self, by omega⟩, fun y hy before => ?_⟩
      obtain rfl | hy := List.mem_cons.mp hy
      · exact later
      · exact ends y hy before
    · rintro ⟨⟨x, hx, at_⟩, ⟨y, hy, before⟩, ends⟩
      have first_before : e.pos < q := by
        obtain rfl | hy := List.mem_cons.mp hy
        · exact before
        · exact lt_of_le_of_lt (first y hy) before
      refine ⟨?_, ends e List.mem_cons_self first_before, fun z hz => ends z (List.mem_cons_of_mem _ hz)⟩
      obtain rfl | hx := List.mem_cons.mp hx
      · exact absurd at_ (Nat.ne_of_lt first_before)
      · exact ⟨x, hx, at_⟩

theorem gaps_rising {l : List Entry} (sorted : l.Pairwise (fun a b => a.pos ≤ b.pos)) : (gaps l).Pairwise (fun a b => a < b) := by
  cases l with
  | nil => exact .nil
  | cons e es => exact gapPositions_rising (List.pairwise_cons.mp sorted).2

/-- The natural end is the greatest end. -/
theorem naturalEnd_eq {l : List Entry} {far : Nat} (reached : ∃ e ∈ l, e.endPos = far) (greatest : ∀ e ∈ l, e.endPos ≤ far) :
    naturalEnd l = far := by
  obtain ⟨e, he, ends⟩ := reached
  obtain ⟨x, hx, same⟩ := greatestEnd_mem (d := 0) (List.ne_nil_of_mem he)
  have reaches : e.endPos ≤ greatestEnd 0 l := le_greatestEnd he
  have most : x.endPos ≤ far := greatest x hx
  rw [naturalEnd]
  omega

/-- A list of positions that rises and holds what the gaps of a line hold is its list of gaps. -/
theorem eq_gaps {gs : List Nat} {l : List Entry} (sorted : l.Pairwise (fun a b => a.pos ≤ b.pos))
    (rises : gs.Pairwise (fun a b => a < b))
    (are : ∀ q, q ∈ gs ↔ (∃ e ∈ l, e.pos = q) ∧ (∃ e ∈ l, e.pos < q) ∧ ∀ e ∈ l, e.pos < q → e.endPos < q) : gs = gaps l :=
  rises.eq_of_mem_iff (gaps_rising sorted) (fun q => (are q).trans (mem_gaps sorted).symm)

/-! ## Justification (R46, R47) -/

theorem justifies_iff {p : Pitch} {rm : Nat} {chars : List Entry} :
    justifies p rm chars = true
      ↔ 1 ≤ (gaps chars).length ∧ naturalEnd chars ≤ rm
        ∧ (rm - naturalEnd chars) / (gaps chars).length ≤ 2 * spaceWidth p := by
  simp only [justifies, Bool.and_eq_true, decide_eq_true_eq, and_assoc]

/-- The entries of a line that is not justified stand. -/
theorem justified_stands {p : Pitch} {rm : Nat} {l : List Entry} (h : justifies p rm (l.filter Entry.isChar) = false) :
    justified p rm l = l := by
  rw [justified, h]
  rfl

/-- The entries of a line that is justified move with their owners by the extras of the gaps up to them. -/
theorem justified_moves {p : Pitch} {rm : Nat} {l : List Entry} (h : justifies p rm (l.filter Entry.isChar) = true) :
    justified p rm l
      = moveOwners (fun e =>
          (extraBefore (gaps (l.filter Entry.isChar)) (rm - naturalEnd (l.filter Entry.isChar)) e.pos : Nat)) l := by
  rw [justified, h]
  rfl

theorem justifies_nil (p : Pitch) (rm : Nat) : justifies p rm [] = false := rfl

theorem justified_ids (p : Pitch) (rm : Nat) (l : List Entry) : ((justified p rm l).map Entry.id).Perm (l.map Entry.id) := by
  cases h : justifies p rm (l.filter Entry.isChar) with
  | true => rw [justified_moves h]; exact moveOwners_ids _ _
  | false => rw [justified_stands h]

/-- JUST LIMIT is posted for a line with a character that is not justified, but for one without a gap that ends at RM. -/
theorem justLimit_iff {p : Pitch} {rm : Nat} {chars : List Entry} (some : chars ≠ []) (h : justifies p rm chars = false) :
    justLimit p rm chars = true ↔ ¬((gaps chars).length = 0 ∧ naturalEnd chars = rm) := by
  simp [justLimit, h, some, imp_iff_not_or]

/-! ## Word records that a dispatch makes anew (R122) -/

/-- The spelling unit with records made anew, in turn, for the entries and the letters of others. -/
def Spelling.withWords (sp : Spelling) (words : List WordRecord) : Spelling :=
  let records := sp.records ++ words.zipIdx.map (fun q =>
    { id := sp.nextRecord + q.2, tag := none, line := .working, entries := q.1.entries, letters := q.1.letters, state := .looking })
  { sp with
    records := records, nextRecord := sp.nextRecord + words.length,
    lookup := match sp.lookup with
      | some k => some k
      | none =>
        if words = [] then none
        else (records.find? (fun r => decide (r.state = .looking))).map (fun r =>
          { record := some r.id, listed := sp.userList.contains r.letters }) }

theorem Spelling.withWords_nil (sp : Spelling) : sp.withWords [] = sp := by
  obtain ⟨_, _, lookup⟩ := sp
  cases lookup <;> simp [Spelling.withWords]

theorem Spelling.withWords_cons (sp : Spelling) (r : WordRecord) (rs : List WordRecord) :
    (sp.withWord r.entries r.letters).withWords rs = sp.withWords (r :: rs) := by
  have shifted (n : Nat) : rs.zipIdx.map (fun q : WordRecord × Nat =>
        ({ id := n + (q.2 + 1), tag := none, line := .working, entries := q.1.entries, letters := q.1.letters,
           state := .looking } : WordRecord))
      = (rs.zipIdx 1).map (fun q : WordRecord × Nat =>
        ({ id := n + q.2, tag := none, line := .working, entries := q.1.entries, letters := q.1.letters,
           state := .looking } : WordRecord)) := by
    rw [List.zipIdx_succ, List.map_map]
    refine List.map_congr_left (fun q _ => ?_)
    rfl
  cases under_way : sp.lookup with
  | some k => simp [Spelling.withWords, Spelling.withWord, under_way, shifted, Nat.add_assoc, Nat.add_comm 1]
  | none =>
    simp [Spelling.withWords, Spelling.withWord, under_way, shifted, Nat.add_assoc, Nat.add_comm 1]

/-- Records that find room are made in turn. -/
theorem State.makeWords_room (words : List WordRecord) {s : State} (room : s.spell.records.length + words.length ≤ 8) :
    words.foldl (fun acc r => acc.makeWord r.entries r.letters) s = { s with spell := s.spell.withWords words } := by
  induction words generalizing s with
  | nil => rw [Spelling.withWords_nil]; rfl
  | cons r rs ih =>
    rw [List.length_cons] at room
    rw [List.foldl_cons, State.makeWord_room (by omega), ih, Spelling.withWords_cons]
    simp only [Spelling.withWord, List.length_append, List.length_singleton]
    omega

/-- Making records changes the spelling unit alone. -/
theorem State.makeWords_spells (words : List WordRecord) (s : State) :
    ∃ sp, words.foldl (fun acc r => acc.makeWord r.entries r.letters) s = { s with spell := sp } := by
  induction words generalizing s with
  | nil => exact ⟨s.spell, rfl⟩
  | cons r rs ih =>
    obtain ⟨sp, rest⟩ := ih (s.makeWord r.entries r.letters)
    exact ⟨sp, rest⟩

theorem State.moveWords_spells (s : State) (ids : List Nat) : ∃ sp, s.moveWords ids = { s with spell := sp } := by
  unfold State.moveWords
  extract_lets names redo sp s1
  obtain ⟨sp', made⟩ := State.makeWords_spells redo s1
  exact ⟨sp', made⟩

/-- The records of the working line that name one of some entries. -/
def WordRecord.names (ids : List Nat) (r : WordRecord) : Bool :=
  decide (r.line = .working) && r.entries.any (fun i => ids.contains i)

/-- Those of them that are let go and made anew. -/
def Spelling.redone (sp : Spelling) (ids : List Nat) : List WordRecord :=
  sp.records.filter (fun r => r.names ids && !r.settled)

/-- The spelling unit once those are let go: a record of the working line goes to the print line, but for a settled one that names
a carried entry. -/
def Spelling.passed (sp : Spelling) (ids : List Nat) : Spelling :=
  let left := sp.dropWhere (fun r => r.names ids && !r.settled)
  { left with records := left.records.map (fun r => if r.names ids then r else { r with line := .print }) }

theorem State.moveWords_eq {s : State} (room : s.spell.records.length ≤ 8) (ids : List Nat) :
    s.moveWords ids = { s with spell := (s.spell.passed ids).withWords (s.spell.redone ids) } := by
  have count := List.length_eq_length_filter_add (l := s.spell.records) (fun r : WordRecord => r.names ids && !r.settled)
  refine State.makeWords_room (s.spell.redone ids) (s := { s with spell := s.spell.passed ids }) ?_
  simp only [Spelling.passed, Spelling.dropWhere, List.length_map, Spelling.redone]
  omega

/-! ## The carried word (R43) -/

theorem mem_carriedEntries {lm ws : Nat} {l : List Entry} {z : Entry} :
    z ∈ carriedEntries lm ws l ↔ ∃ e ∈ l, { e with pos := movedPos (fun _ => (lm : Int) - ws) l e } = z :=
  (perm_byOrder _).mem_iff.trans mem_moveOwners

theorem ids_of_unnumbered (l : List Entry) : l.map Entry.id = (l.map Entry.unnumbered).map Entry.id := by
  rw [List.map_map]
  rfl

theorem carried_ids (lm ws : Nat) (l : List Entry) :
    ((LineRecord.empty.addAll (carriedEntries lm ws l)).entries.map Entry.id).Perm (l.map Entry.id) := by
  have added := (LineRecord.addAll_perm (carriedEntries lm ws l) .empty).map Entry.id
  rw [← ids_of_unnumbered, ← ids_of_unnumbered] at added
  exact added.trans (((perm_byOrder _).map Entry.id).trans (moveOwners_ids _ _))

/-- A character of a carried word stands on the new line, moved by LM less the word's start. -/
theorem carried_stands {lm ws : Nat} {l : List Entry} (unique : (l.map Entry.id).Nodup) {e : Entry} (he : e ∈ l)
    (char : e.kind = .character) (owner : e.owner = none) :
    ∃ e' ∈ (LineRecord.empty.addAll (carriedEntries lm ws l)).entries, e'.id = e.id ∧ e'.pos = e.pos + lm - ws
      ∧ e'.char = e.char ∧ e'.state = e.state := by
  have goes : movedPos (fun _ => (lm : Int) - ws) l e = e.pos + lm - ws := by
    rw [movedPos_goes unique he (by rw [ownerId, owner]; rfl) (by rw [char]; decide), shiftPos]
    omega
  have among : { e with pos := e.pos + lm - ws } ∈ carriedEntries lm ws l := mem_carriedEntries.mpr ⟨e, he, by rw [goes]⟩
  have joins := (LineRecord.addAll_perm (carriedEntries lm ws l) .empty).mem_iff.mpr
    (List.mem_map_of_mem (List.mem_append_right _ among))
  obtain ⟨e', he', same⟩ := List.mem_map.mp joins
  exact ⟨e', he', (congrArg Entry.id same).trans rfl, (congrArg Entry.pos same).trans rfl,
    (congrArg Entry.char same).trans rfl, (congrArg Entry.state same).trans rfl⟩

/-! ## What a dispatch leaves (R27) -/

theorem returnFeedOf_last {l : List Entry} {e : Entry} (spacing : Nat) (last : l.getLast? = some e) :
    returnFeedOf spacing l = spacing - e.rise := by
  simp only [returnFeedOf, last]

/-- The entries that a dispatch prints: those that the carried word does not take. -/
def State.leaves (s : State) (word : List Entry) : List Entry :=
  s.text.work.entries.filter (fun e => !(word.map Entry.id).contains (ownerId e))

/-- The entries that go with the carried word. -/
def State.takes (s : State) (word : List Entry) : List Entry :=
  s.text.work.entries.filter (fun e => (word.map Entry.id).contains (ownerId e))

/-- The state of a dispatch before its word records move, for the entries of the print line and the display. -/
def State.dispatched (s : State) (wrapped : Bool) (word : List Entry) (moved : List Entry) (display : Display) : State :=
  let x := s.text.settings
  { s with
    display := display,
    text :=
      { s.text with
        print := some
          { record := { entries := moved, counter := s.text.work.counter }, returnFeed := returnFeedOf x.spacing moved,
            impression := x.impression, returnAppended := false },
        work := LineRecord.empty.addAll (carriedEntries x.lm (leastPos x.lm word) (s.takes word)),
        pp := if word.isEmpty then x.lm else x.lm + (s.text.pp - leastPos x.lm word),
        settings := if wrapped then x else { x with rise := 0, marginRelease := false },
        bellGiven := false, armed := false } }

theorem State.dispatch_eq (s : State) (wrapped : Bool) (word : List Entry) :
    s.dispatch wrapped word
      = (s.dispatched wrapped word
          (if wrapped && s.text.settings.justify then justified s.text.settings.pitch s.text.settings.rm (s.leaves word)
            else s.leaves word)
          (if wrapped && s.text.settings.justify
              && justLimit s.text.settings.pitch s.text.settings.rm ((s.leaves word).filter Entry.isChar)
            then s.display.post .justLimit else s.display)).moveWords (word.map Entry.id) := by
  unfold State.dispatch
  extract_lets x ids carried rest moved ws line s1 s2
  refine congrArg (fun t : State => t.moveWords ids) ?_
  show (if _ then _ else _) = _
  split
  next limit => exact congrArg (s.dispatched wrapped word moved) (if_pos limit).symm
  next fine => exact congrArg (s.dispatched wrapped word moved) (if_neg fine).symm

/-- An entry of a justified line other than a stroke goes with its owner. -/
theorem justified_goes {p : Pitch} {rm : Nat} {l : List Entry} (h : justifies p rm (l.filter Entry.isChar) = true)
    (unique : (l.map Entry.id).Nodup) {e o : Entry} (he : e ∈ l) (ho : o ∈ l) (owner : ownerId e = o.id)
    (kind : e.kind ≠ .underscore) :
    { e with pos := e.pos + extraBefore (gaps (l.filter Entry.isChar)) (rm - naturalEnd (l.filter Entry.isChar)) o.pos }
      ∈ justified p rm l := by
  rw [justified_moves h, mem_moveOwners]
  refine ⟨e, he, ?_⟩
  rw [movedPos_goes unique ho owner kind, shiftPos, ← Int.natCast_add, Int.toNat_natCast]

/-- A justified dispatch: the print line's entries and the display, by the gaps and the natural end of the line. -/
theorem justified_line {p : Pitch} {rm : Nat} {stays : List Entry} (display : Display) (unique : (stays.map Entry.id).Nodup)
    (sorted : (stays.filter Entry.isChar).Pairwise (fun a b => a.pos ≤ b.pos))
    (owned : ∀ e ∈ stays.filter Entry.isChar, e.owner = none) {gs : List Nat} {far : Nat}
    (rises : gs.Pairwise (fun a b => a < b))
    (are : ∀ q, q ∈ gs ↔ (∃ e ∈ stays.filter Entry.isChar, e.pos = q) ∧ (∃ e ∈ stays.filter Entry.isChar, e.pos < q)
      ∧ ∀ e ∈ stays.filter Entry.isChar, e.pos < q → e.endPos < q)
    (reached : ∃ e ∈ stays.filter Entry.isChar, e.endPos = far) (greatest : ∀ e ∈ stays.filter Entry.isChar, e.endPos ≤ far) :
    (1 ≤ gs.length ∧ far ≤ rm ∧ (rm - far) / gs.length ≤ 2 * spaceWidth p →
      (if justLimit p rm (stays.filter Entry.isChar) then display.post .justLimit else display) = display
        ∧ (∀ e ∈ stays.filter Entry.isChar, { e with pos := e.pos + extraBefore gs (rm - far) e.pos } ∈ justified p rm stays)
        ∧ (∀ e ∈ stays, ∀ o ∈ stays.filter Entry.isChar, e.kind = .bold → e.owner = some o.id →
          { e with pos := e.pos + extraBefore gs (rm - far) o.pos } ∈ justified p rm stays))
    ∧ (¬(1 ≤ gs.length ∧ far ≤ rm ∧ (rm - far) / gs.length ≤ 2 * spaceWidth p) →
      justified p rm stays = stays
        ∧ (if justLimit p rm (stays.filter Entry.isChar) then display.post .justLimit else display)
          = if gs.length = 0 ∧ far = rm then display else display.post .justLimit) := by
  obtain rfl := eq_gaps sorted rises are
  obtain rfl := naturalEnd_eq reached greatest
  rw [← justifies_iff]
  constructor
  · intro applies
    refine ⟨?_, fun e he => ?_, fun e he o ho bold owner => ?_⟩
    · rw [justLimit, applies]
      simp
    · have ⟨among, char⟩ := List.mem_filter.mp he
      exact justified_goes applies unique among among (by rw [ownerId, owned e he]; rfl)
        (by rw [of_decide_eq_true char]; decide)
    · exact justified_goes applies unique he (List.mem_of_mem_filter ho) (by rw [ownerId, owner]; rfl) (by rw [bold]; decide)
  · intro applies
    have not : justifies p rm (stays.filter Entry.isChar) = false := Bool.eq_false_iff.mpr applies
    obtain ⟨e, he, -⟩ := reached
    refine ⟨justified_stands not, ?_⟩
    by_cases full : (gaps (stays.filter Entry.isChar)).length = 0 ∧ naturalEnd (stays.filter Entry.isChar) = rm
    · rw [if_pos full, if_neg (fun limit => (justLimit_iff (List.ne_nil_of_mem he) not).mp limit full)]
    · rw [if_neg full, if_pos ((justLimit_iff (List.ne_nil_of_mem he) not).mpr full)]

end Sys2Proof.Machine

open Sys2Proof Sys2Proof.Machine

/-- Settles O48. The gaps and the natural end named in the statement are those that the model reckons; the word records that are let go
leave the room in which they are made anew. -/
theorem dispatchMoves : Obligations.DispatchMoves := by
  unfold Obligations.DispatchMoves
  intro s wrapped word unique chars x ws t stays line
  obtain ⟨moved, is_moved⟩ : ∃ m, m = if wrapped && x.justify then justified x.pitch x.rm stays else stays := ⟨_, rfl⟩
  obtain ⟨shown, is_shown⟩ :
      ∃ d, d = if wrapped && x.justify && justLimit x.pitch x.rm line then s.display.post .justLimit else s.display := ⟨_, rfl⟩
  have dispatch : t = (s.dispatched wrapped word moved shown).moveWords (word.map Entry.id) := by
    rw [is_moved, is_shown]
    exact s.dispatch_eq wrapped word
  obtain ⟨sp, spells⟩ := (s.dispatched wrapped word moved shown).moveWords_spells (word.map Entry.id)
  have is_t : t = { s.dispatched wrapped word moved shown with spell := sp } := dispatch.trans spells
  have text : t.text = (s.dispatched wrapped word moved shown).text := (congrArg State.text is_t).trans rfl
  have display : t.display = shown := (congrArg State.display is_t).trans rfl
  have unique_stays : (stays.map Entry.id).Nodup := unique.sublist (List.filter_sublist.map _)
  have unique_takes : ((s.takes word).map Entry.id).Nodup := unique.sublist (List.filter_sublist.map _)
  refine ⟨_, congrArg TextUnit.print text, ?_, ?_, rfl, rfl, ?_, ?_, ?_, ?_, ?_, congrArg TextUnit.settings text,
    congrArg TextUnit.bellGiven text, congrArg TextUnit.armed text, (congrArg State.engine is_t).trans rfl, (congrArg State.intake is_t).trans rfl,
    (congrArg State.line is_t).trans rfl, ?_⟩
  · rw [display, is_shown]
    dsimp only
    rw [is_moved]
    rintro (plain | ragged | empty)
    · rw [plain]; exact ⟨rfl, rfl⟩
    · rw [ragged, Bool.and_false]; exact ⟨rfl, rfl⟩
    · have not : justifies x.pitch x.rm (stays.filter Entry.isChar) = false := by
        rw [show stays.filter Entry.isChar = [] from empty]; rfl
      refine ⟨?_, if_neg ?_⟩
      · rw [justified_stands not, ite_self]
      · rw [empty]
        simp [justLimit]
  · intro wraps justifies sorted owned gs far rises are reached greatest gap slack applies extra
    rw [display, is_shown]
    dsimp only
    rw [is_moved, wraps, justifies]
    exact justified_line (p := x.pitch) (rm := x.rm) s.display unique_stays sorted owned rises are reached greatest
  · intro e last
    exact returnFeedOf_last x.spacing last
  · intro empty
    exact congrArg (returnFeedOf x.spacing) empty
  · have work : t.text.work = LineRecord.empty.addAll (carriedEntries x.lm ws (s.takes word)) := congrArg TextUnit.work text
    have printed : (moved.map Entry.id).Perm (stays.map Entry.id) := by
      rw [is_moved]
      split
      · exact justified_ids _ _ _
      · exact .refl _
    rw [work, List.map_append]
    refine (printed.append (carried_ids _ _ _)).trans ?_
    rw [← List.map_append]
    refine (List.perm_append_comm.trans ?_).map Entry.id
    exact List.filter_append_perm _ _
  · intro e he
    obtain ⟨stands, char, owner⟩ := chars e he
    rw [show t.text.work = LineRecord.empty.addAll (carriedEntries x.lm ws (s.takes word)) from congrArg TextUnit.work text]
    refine carried_stands unique_takes (List.mem_filter.mpr ⟨stands, ?_⟩) char owner
    rw [ownerId, owner]
    exact List.contains_iff_mem.mpr (List.mem_map_of_mem he)
  · refine (congrArg TextUnit.pp text).trans ?_
    cases word <;> rfl
  · intro sp stands unsettled anew gone records room
    have are : unsettled = fun r => !r.settled := by
      funext r
      cases h : r.state <;> simp [unsettled, WordRecord.settled, h]
    clear_value unsettled
    subst are
    have moves := (congrArg State.spell
      (dispatch.trans (State.moveWords_eq (s := s.dispatched wrapped word moved shown) room (word.map Entry.id)))).trans
        (show _ = (s.spell.passed (word.map Entry.id)).withWords (s.spell.redone (word.map Entry.id)) from rfl)
    refine moves.trans ?_
    cases under_way : s.spell.lookup with
    | none =>
      simp only [Spelling.withWords, Spelling.passed, Spelling.dropWhere, Spelling.letGo, sp, under_way, Option.map_none]
      rfl
    | some k =>
      simp only [Spelling.withWords, Spelling.passed, Spelling.dropWhere, Spelling.letGo, sp, under_way, Option.map_some]
      rfl
end

section
/-! SUPPORT. The save: the entries of the saved line, their order and their owners, and the records that are written. -/

-- One proof after another: the check's process cannot start a thread for each.
set_option Elab.async false

namespace Sys2Proof.Machine

/-! ## Entries put by a key (R208) -/

/-- An entry stands before another by its key, or with the same key as `r` has it. -/
def KeyedBefore (key : Entry → Nat) (r : Entry → Entry → Prop) (x y : Entry) : Prop := key x < key y ∨ (key x = key y ∧ r x y)

theorem perm_insertKeyed (key : Entry → Nat) (e : Entry) (l : List Entry) : (insertKeyed key e l).Perm (e :: l) := by
  induction l with
  | nil => exact .refl _
  | cons y ys ih =>
    unfold insertKeyed
    split
    · exact .refl _
    · exact (ih.cons y).trans (.swap e y ys)

theorem insertKeyed_ordered {key : Entry → Nat} {r : Entry → Entry → Prop} {e : Entry} {l : List Entry}
    (ordered : l.Pairwise (KeyedBefore key r)) (behind : ∀ x ∈ l, r x e) : (insertKeyed key e l).Pairwise (KeyedBefore key r) := by
  induction l with
  | nil => exact List.pairwise_singleton _ _
  | cons y ys ih =>
    obtain ⟨first, rest⟩ := List.pairwise_cons.mp ordered
    unfold insertKeyed
    split
    next less =>
      refine List.pairwise_cons.mpr ⟨fun z hz => .inl ?_, ordered⟩
      rcases List.mem_cons.mp hz with rfl | hz
      · exact less
      · rcases first z hz with later | ⟨same, -⟩ <;> omega
    next least =>
      refine List.pairwise_cons.mpr ⟨fun z hz => ?_, ih rest (fun x hx => behind x (List.mem_cons_of_mem _ hx))⟩
      rcases List.mem_cons.mp ((perm_insertKeyed key e ys).mem_iff.mp hz) with rfl | hz
      · rcases Nat.lt_or_eq_of_le (Nat.le_of_not_lt least) with later | same
        · exact .inl later
        · exact .inr ⟨same, behind y List.mem_cons_self⟩
      · exact first z hz

/-- Entries put by a key, one behind another of the same key as they came. -/
def keyedOrder (key : Entry → Nat) (l : List Entry) : List Entry := l.foldl (fun acc e => insertKeyed key e acc) []

theorem perm_keyedOrder (key : Entry → Nat) (l : List Entry) : (keyedOrder key l).Perm l := by
  suffices h : ∀ (l acc : List Entry), (l.foldl (fun acc e => insertKeyed key e acc) acc).Perm (l ++ acc) by
    have all := h l []
    rwa [List.append_nil] at all
  intro l
  induction l with
  | nil => exact fun acc => .refl _
  | cons e es ih =>
    intro acc
    exact (ih (insertKeyed key e acc)).trans (((perm_insertKeyed key e acc).append_left es).trans List.perm_middle)

theorem keyedOrder_ordered {key : Entry → Nat} {r : Entry → Entry → Prop} {l : List Entry} (came : l.Pairwise r) :
    (keyedOrder key l).Pairwise (KeyedBefore key r) := by
  suffices h : ∀ (l acc : List Entry), l.Pairwise r → acc.Pairwise (KeyedBefore key r) → (∀ x ∈ acc, ∀ y ∈ l, r x y) →
      (l.foldl (fun acc e => insertKeyed key e acc) acc).Pairwise (KeyedBefore key r) from
    h l [] came .nil (fun x hx => nomatch hx)
  intro l
  induction l with
  | nil => exact fun acc _ ordered _ => ordered
  | cons e es ih =>
    intro acc came ordered behind
    obtain ⟨first, rest⟩ := List.pairwise_cons.mp came
    refine ih _ rest (insertKeyed_ordered ordered (fun x hx => behind x hx e List.mem_cons_self)) (fun x hx y hy => ?_)
    rcases List.mem_cons.mp ((perm_insertKeyed key e acc).mem_iff.mp hx) with rfl | hx
    · exact first y hy
    · exact behind x hx y (List.mem_cons_of_mem _ hy)

/-! ## Owners that find room (R203) -/

theorem length_filter_le_add {p q r : Entry → Bool} (either : ∀ x, r x = true → p x = true ∨ q x = true) (l : List Entry) :
    (l.filter r).length ≤ (l.filter p).length + (l.filter q).length := by
  induction l with
  | nil => exact Nat.le_refl 0
  | cons x xs ih =>
    cases hr : r x
    · cases hp : p x <;> cases hq : q x <;> simp [hp, hq, hr] <;> omega
    · rcases either x hr with hp | hq
      · cases hq : q x <;> simp [hp, hq, hr] <;> omega
      · cases hp : p x <;> simp [hp, hq, hr] <;> omega

theorem length_filter_add_le {p q r : Entry → Bool} (left : ∀ x, p x = true → r x = true ∧ q x = false)
    (right : ∀ x, q x = true → r x = true) (l : List Entry) :
    (l.filter p).length + (l.filter q).length ≤ (l.filter r).length := by
  induction l with
  | nil => exact Nat.le_refl 0
  | cons x xs ih =>
    cases hp : p x
    · cases hq : q x
      · cases hr : r x <;> simp [hp, hq, hr] <;> omega
      · simp [hp, hq, right x hq]; omega
    · obtain ⟨hr, hq⟩ := left x hp
      simp [hp, hq, hr]; omega

/-- The owners that are taken have no more than 320 entries with their companions. -/
theorem fitting_length (all : List Entry) {taken : Nat} (room : taken ≤ 320) (os : List Entry) :
    taken + (all.filter (fun e => (fitting all taken os).contains (ownerId e))).length ≤ 320 := by
  induction os generalizing taken with
  | nil => simpa [fitting] using room
  | cons o os ih =>
    rw [fitting]
    split
    next fits =>
      have more := ih fits
      have split := length_filter_le_add (p := fun e => decide (ownerId e = o.id))
        (q := fun e => (fitting all (taken + (all.filter (fun e => decide (ownerId e = o.id))).length) os).contains (ownerId e))
        (r := fun e => (o.id :: fitting all (taken + (all.filter (fun e => decide (ownerId e = o.id))).length) os).contains (ownerId e))
        (fun x among => by simpa using among) all
      omega
    next => exact ih room

/-- An owner is taken where the entries of the owners taken before it leave room for its own. -/
theorem mem_fitting {all : List Entry} {o : Entry} {post pre : List Entry} {taken : Nat}
    (unique : ((pre ++ o :: post).map Entry.id).Nodup)
    (room : taken
      + (all.filter (fun y => (fitting all taken (pre ++ o :: post)).contains (ownerId y)
          && (pre.map Entry.id).contains (ownerId y))).length
      + (all.filter (fun y => decide (ownerId y = o.id))).length ≤ 320) :
    o.id ∈ fitting all taken (pre ++ o :: post) := by
  induction pre generalizing taken with
  | nil =>
    rw [List.nil_append, fitting, if_pos (by omega)]
    exact List.mem_cons_self
  | cons a pre ih =>
    rw [List.cons_append, List.map_cons, List.nodup_cons] at unique
    obtain ⟨first, unique⟩ := unique
    rw [List.cons_append, fitting] at room ⊢
    split at room
    next fits =>
      rw [if_pos fits]
      refine List.mem_cons_of_mem _ (ih unique ?_)
      have split := length_filter_add_le (p := fun y => decide (ownerId y = a.id))
        (q := fun y => (fitting all (taken + (all.filter (fun e => decide (ownerId e = a.id))).length) (pre ++ o :: post)).contains
            (ownerId y) && (pre.map Entry.id).contains (ownerId y))
        (r := fun y => (a.id :: fitting all (taken + (all.filter (fun e => decide (ownerId e = a.id))).length)
            (pre ++ o :: post)).contains (ownerId y) && ((a :: pre).map Entry.id).contains (ownerId y))
        (fun x same => ?_) (fun x both => ?_) all
      · omega
      · have is_a : ownerId x = a.id := of_decide_eq_true same
        have not : a.id ∉ pre.map Entry.id := fun h => first (by rw [List.map_append]; exact List.mem_append_left _ h)
        constructor
        · simp [is_a]
        · rw [is_a, Bool.and_eq_false_iff]
          exact .inr (by simpa using not)
      · simp at both ⊢
        tauto
    next full =>
      rw [if_neg full]
      refine ih unique (le_trans (Nat.add_le_add_right (Nat.add_le_add_left (List.Sublist.length_le ?_) _) _) room)
      refine List.monotone_filter_right all (fun y both => ?_)
      simp only [Bool.and_eq_true, List.map_cons, List.contains_cons, Bool.or_eq_true] at both ⊢
      exact ⟨both.1, .inr both.2⟩

/-! ## Owners and their companions (R3, R208) -/

/-- Entries with names of their own, each of which is a CHARACTER entry or stands with the one that it accompanies. -/
structure Grouped (l : List Entry) : Prop where
  unique : (l.map Entry.id).Nodup
  own : ∀ e ∈ l, e.isChar = true → ownerId e = e.id
  owned : ∀ e ∈ l, ∃ o ∈ l, o.isChar = true ∧ o.id = ownerId e

theorem Grouped.perm {l k : List Entry} (g : Grouped l) (h : k.Perm l) : Grouped k where
  unique := (h.map Entry.id).nodup_iff.mpr g.unique
  own := fun e he => g.own e (h.mem_iff.mp he)
  owned := fun e he => by
    obtain ⟨o, ho, is_owner⟩ := g.owned e (h.mem_iff.mp he)
    exact ⟨o, h.mem_iff.mpr ho, is_owner⟩

theorem Grouped.append {l k : List Entry} (gl : Grouped l) (gk : Grouped k) (apart : ∀ x ∈ l, ∀ y ∈ k, x.id ≠ y.id) :
    Grouped (l ++ k) where
  unique := by
    rw [List.map_append, List.nodup_append]
    refine ⟨gl.unique, gk.unique, fun i hi j hj => ?_⟩
    obtain ⟨x, hx, rfl⟩ := List.mem_map.mp hi
    obtain ⟨y, hy, rfl⟩ := List.mem_map.mp hj
    exact apart x hx y hy
  own := fun e he => (List.mem_append.mp he).elim (gl.own e) (gk.own e)
  owned := fun e he => by
    rcases List.mem_append.mp he with he | he
    · obtain ⟨o, ho, is_owner⟩ := gl.owned e he
      exact ⟨o, List.mem_append_left _ ho, is_owner⟩
    · obtain ⟨o, ho, is_owner⟩ := gk.owned e he
      exact ⟨o, List.mem_append_right _ ho, is_owner⟩

theorem Grouped.mem_ownersFirst {l : List Entry} (g : Grouped l) {e : Entry} : e ∈ ownersFirst l ↔ e ∈ l := by
  rw [Machine.mem_ownersFirst]
  constructor
  · rintro ⟨o, ho, -, rfl | ⟨he, -⟩⟩
    · exact ho
    · exact he
  · intro he
    cases char : e.isChar with
    | true => exact ⟨e, he, char, .inl rfl⟩
    | false =>
      obtain ⟨o, ho, is_char, same⟩ := g.owned e he
      exact ⟨o, ho, is_char, .inr ⟨he, rfl, same.symm⟩⟩

/-- Each owner stands before its companions. -/
theorem ownersFirst_ordered {l : List Entry} (g : Grouped l) :
    (ownersFirst l).Pairwise (fun x y => x.id ≠ y.id ∧ ownerId x ≠ y.id) := by
  have apart : l.Pairwise (fun x y => x.id ≠ y.id) := List.pairwise_map.mp g.unique
  have companion_id {o y : Entry} (ho : o ∈ l.filter Entry.isChar)
      (hy : y ∈ l.filter (fun e => !e.isChar && decide (ownerId e = o.id))) : o.id ≠ y.id := by
    obtain ⟨ho, char⟩ := List.mem_filter.mp ho
    obtain ⟨hy, kind⟩ := List.mem_filter.mp hy
    intro same
    rw [← eq_of_id g.unique ho hy same, char] at kind
    cases kind
  have owner_id {o x : Entry} (ho : o ∈ l.filter Entry.isChar)
      (hx : x ∈ o :: l.filter (fun e => !e.isChar && decide (ownerId e = o.id))) : x ∈ l ∧ ownerId x = o.id := by
    obtain ⟨ho, char⟩ := List.mem_filter.mp ho
    rcases List.mem_cons.mp hx with rfl | hx
    · exact ⟨ho, g.own x ho char⟩
    · obtain ⟨hx, kind⟩ := List.mem_filter.mp hx
      exact ⟨hx, of_decide_eq_true (Bool.and_eq_true_iff.mp kind).2⟩
  refine List.pairwise_flatMap.mpr ⟨fun o ho => List.pairwise_cons.mpr ⟨fun y hy => ⟨companion_id ho hy, ?_⟩, ?_⟩, ?_⟩
  · rw [(owner_id ho List.mem_cons_self).2]
    exact companion_id ho hy
  · refine (apart.filter _).imp_of_mem (fun {x y} hx hy differ => ⟨differ, ?_⟩)
    rw [(owner_id ho (List.mem_cons_of_mem _ hx)).2]
    exact companion_id ho hy
  · refine (apart.filter Entry.isChar).imp_of_mem (fun {o p} ho hp differ x hx y hy => ?_)
    obtain ⟨among_x, owner_x⟩ := owner_id ho hx
    obtain ⟨among_y, owner_y⟩ := owner_id hp hy
    constructor
    · intro same
      rw [eq_of_id g.unique among_x among_y same] at owner_x
      exact differ (owner_x.symm.trans owner_y)
    · intro same
      have is_o : o = y := eq_of_id g.unique (List.mem_of_mem_filter ho) among_y (owner_x.symm.trans same)
      rw [← is_o, (owner_id ho List.mem_cons_self).2] at owner_y
      exact differ owner_y

theorem ownersFirst_perm {l : List Entry} (g : Grouped l) : (ownersFirst l).Perm l :=
  (List.perm_ext_iff_of_nodup ((ownersFirst_ordered g).imp (fun both same => both.1 (congrArg Entry.id same))) g.unique.of_map).mpr
    (fun _ => g.mem_ownersFirst)

/-! ## The saved entries of a group (R203, R208) -/

/-- The place of an entry in the saved line: its position, but no less than that of its owner. -/
def savedPlace (all : List Entry) (e : Entry) : Nat :=
  match all.find? (fun o => decide (o.id = ownerId e)) with
  | some o => max e.pos o.pos
  | none => e.pos

/-- Entries in the order in which they are saved. -/
def savedOrder (l : List Entry) : List Entry := keyedOrder (savedPlace (ownersFirst l)) (ownersFirst l)

/-- The owners that are saved. -/
def savedOwners (l : List Entry) : List Nat := fitting (savedOrder l) 0 ((savedOrder l).filter Entry.isChar)

/-- The entries of the owners that are saved, in order. -/
def savedGroup (l : List Entry) : List Entry := (savedOrder l).filter (fun e => (savedOwners l).contains (ownerId e))

theorem savedGroup_length (l : List Entry) : (savedGroup l).length ≤ 320 := by
  have room := fitting_length (savedOrder l) (taken := 0) (by decide) ((savedOrder l).filter Entry.isChar)
  rwa [Nat.zero_add] at room

theorem savedOrder_perm {l : List Entry} (g : Grouped l) : (savedOrder l).Perm l :=
  (perm_keyedOrder _ _).trans (ownersFirst_perm g)

theorem mem_savedGroup {l : List Entry} (g : Grouped l) {e : Entry} :
    e ∈ savedGroup l ↔ e ∈ l ∧ ownerId e ∈ savedOwners l := by
  rw [savedGroup, List.mem_filter, (savedOrder_perm g).mem_iff, List.contains_iff_mem]

theorem savedPlace_eq {l : List Entry} (g : Grouped l) {e o : Entry} (ho : o ∈ l) (is_owner : o.id = ownerId e) :
    savedPlace (ownersFirst l) e = max e.pos o.pos := by
  have found : (ownersFirst l).find? (fun x => decide (x.id = ownerId e)) = some o := by
    rw [← is_owner]
    exact find?_id (g.perm (ownersFirst_perm g)).unique ((g.mem_ownersFirst).mpr ho)
  simp only [savedPlace, found]

theorem savedPlace_char {l : List Entry} (g : Grouped l) {e : Entry} (he : e ∈ l) (char : e.isChar = true) :
    savedPlace (ownersFirst l) e = e.pos := by
  rw [savedPlace_eq g he (g.own e he char).symm, max_self]

theorem savedOrder_ordered {l : List Entry} (g : Grouped l) :
    (savedOrder l).Pairwise
      (KeyedBefore (savedPlace (ownersFirst l)) (fun x y => x.id ≠ y.id ∧ ownerId x ≠ y.id)) :=
  keyedOrder_ordered (ownersFirst_ordered g)

/-- The saved entries: each owner before its companions, and an entry that stands left of one before it behind it only with its
owner. -/
theorem savedGroup_ordered {l : List Entry} (g : Grouped l) :
    (savedGroup l).Pairwise (fun x y => ownerId x ≠ y.id
      ∧ (y.pos < x.pos → ∃ o ∈ savedGroup l, ownerId y = o.id ∧ x.pos ≤ o.pos)) := by
  refine ((savedOrder_ordered g).filter _).imp_of_mem (fun {x y} hx hy before => ?_)
  obtain ⟨among_x, -⟩ := (mem_savedGroup g).mp hx
  obtain ⟨among_y, taken⟩ := (mem_savedGroup g).mp hy
  obtain ⟨p, hp, char_p, owner_x⟩ := g.owned x among_x
  obtain ⟨o, ho, char_o, owner_y⟩ := g.owned y among_y
  have place_x := savedPlace_eq g hp owner_x
  have place_y := savedPlace_eq g ho owner_y
  constructor
  · intro same
    have is_owner : p = y := eq_of_id g.unique hp among_y (owner_x.trans same)
    have char_y : y.isChar = true := is_owner ▸ char_p
    have place := savedPlace_char g among_y char_y
    rw [is_owner] at place_x
    rcases before with less | ⟨-, -, not⟩
    · omega
    · exact not same
  · intro left
    refine ⟨o, (mem_savedGroup g).mpr ⟨ho, ?_⟩, owner_y.symm, ?_⟩
    · rwa [g.own o ho char_o, owner_y]
    · rcases before with less | ⟨same, -⟩ <;> omega

/-- An owner for which there is room is saved. -/
theorem mem_savedOwners {l : List Entry} (g : Grouped l) {o : Entry} (ho : o ∈ l) (char : o.isChar = true)
    (room : ((savedGroup l).filter (fun y => (savedGroup l).any (fun x => decide (x.id = ownerId y) && decide (x.pos ≤ o.pos)))).length
      + (l.filter (fun y => decide (ownerId y = o.id))).length ≤ 320) : o.id ∈ savedOwners l := by
  have among : o ∈ (savedOrder l).filter Entry.isChar := List.mem_filter.mpr ⟨(savedOrder_perm g).mem_iff.mpr ho, char⟩
  obtain ⟨pre, post, parts⟩ := List.append_of_mem among
  have unique : (((savedOrder l).filter Entry.isChar).map Entry.id).Nodup :=
    (g.perm (savedOrder_perm g)).unique.sublist (List.filter_sublist.map _)
  have before : ∀ a ∈ pre, a.pos ≤ o.pos := by
    intro a ha
    have ordered := (savedOrder_ordered g).filter Entry.isChar
    rw [parts] at ordered
    have earlier := (List.pairwise_append.mp ordered).2.2 a ha o List.mem_cons_self
    obtain ⟨among_a, char_a⟩ := List.mem_filter.mp (parts ▸ List.mem_append_left _ ha)
    have place_a := savedPlace_char g ((savedOrder_perm g).mem_iff.mp among_a) char_a
    have place_o := savedPlace_char g ho char
    rcases earlier with less | ⟨same, -⟩ <;> omega
  have owners : savedOwners l = fitting (savedOrder l) 0 (pre ++ o :: post) := congrArg _ parts
  rw [owners]
  refine mem_fitting (parts ▸ unique) (le_trans ?_ room)
  rw [← owners, Nat.zero_add, ((savedOrder_perm g).filter (fun y => decide (ownerId y = o.id))).length_eq]
  refine Nat.add_le_add_right ?_ _
  rw [savedGroup, List.filter_filter]
  refine List.Sublist.length_le (List.monotone_filter_right _ (fun y both => ?_))
  obtain ⟨taken, earlier⟩ := Bool.and_eq_true_iff.mp both
  obtain ⟨a, ha, same⟩ := List.mem_map.mp (List.contains_iff_mem.mp earlier)
  obtain ⟨among_a, char_a⟩ := List.mem_filter.mp (parts ▸ List.mem_append_left _ ha)
  have owner_a : ownerId a = a.id := g.own a ((savedOrder_perm g).mem_iff.mp among_a) char_a
  refine Bool.and_eq_true_iff.mpr ⟨List.any_eq_true.mpr ⟨a, List.mem_filter.mpr ⟨among_a, ?_⟩, ?_⟩, taken⟩
  · rwa [owner_a, same]
  · exact Bool.and_eq_true_iff.mpr ⟨decide_eq_true same, decide_eq_true (before a ha)⟩

/-! ## The working part (R203) -/

/-- An owner whose end passes 1,600 once the entries have moved by a shift. -/
def Spills (shift : Int) (l : List Entry) (x : Entry) : Prop :=
  x ∈ l ∧ x.kind = .character ∧ 1600 < movedPos (fun _ => shift) l x + x.width

/-- No owner that spills stands left of a position. -/
def Clears (shift : Int) (l : List Entry) (p : Nat) : Prop := ∀ x, Spills shift l x → p ≤ movedPos (fun _ => shift) l x

/-- An owner that is kept in the working part. -/
def KeepsOwner (shift : Int) (l : List Entry) (o : Entry) : Prop :=
  o ∈ l ∧ o.kind = .character ∧ ¬Spills shift l o ∧ Clears shift l (movedPos (fun _ => shift) l o)

theorem mem_workPart {shift : Int} {l : List Entry} {y : Entry} :
    y ∈ workPart shift l ↔ ∃ e ∈ l, { e with pos := movedPos (fun _ => shift) l e } = y
      ∧ Clears shift l y.pos ∧ ∃ o, KeepsOwner shift l o ∧ o.id = ownerId y := by
  have past {x : Entry} : x ∈ (moveOwners (fun _ => shift) l).filter (fun e => e.isChar && decide (1600 < e.endPos))
      ↔ ∃ e, Spills shift l e ∧ { e with pos := movedPos (fun _ => shift) l e } = x := by
    rw [List.mem_filter, mem_moveOwners, Bool.and_eq_true, Entry.isChar, decide_eq_true_eq, decide_eq_true_eq]
    constructor
    · rintro ⟨⟨e, he, rfl⟩, char, beyond⟩
      exact ⟨e, ⟨he, char, beyond⟩, rfl⟩
    · rintro ⟨e, ⟨he, char, beyond⟩, rfl⟩
      exact ⟨⟨e, he, rfl⟩, char, beyond⟩
  have left {z : Entry} : (((moveOwners (fun _ => shift) l).filter (fun e => e.isChar && decide (1600 < e.endPos))).all
      (fun x => decide (z.pos ≤ x.pos)) = true) ↔ Clears shift l z.pos := by
    rw [List.all_eq_true]
    constructor
    · intro all x spills
      exact of_decide_eq_true (all _ (past.mpr ⟨x, spills, rfl⟩))
    · intro clears x hx
      obtain ⟨e, spills, rfl⟩ := past.mp hx
      exact decide_eq_true (clears e spills)
  unfold workPart
  dsimp only
  rw [List.mem_filter, List.mem_filter, left, mem_moveOwners, List.contains_iff_mem, List.mem_map]
  simp only [List.mem_filter, left, mem_moveOwners, Bool.and_eq_true, decide_eq_true_eq]
  constructor
  · rintro ⟨⟨⟨e, he, rfl⟩, clears⟩, o, ⟨⟨⟨o₀, ho, rfl⟩, clears_o⟩, char, within⟩, same⟩
    exact ⟨e, he, rfl, clears, o₀, ⟨ho, of_decide_eq_true char, fun spills => absurd within (Nat.not_le.mpr spills.2.2), clears_o⟩, same⟩
  · rintro ⟨e, he, rfl, clears, o, ⟨ho, char, not, clears_o⟩, same⟩
    refine ⟨⟨⟨e, he, rfl⟩, clears⟩, _, ⟨⟨⟨o, ho, rfl⟩, clears_o⟩, decide_eq_true char, ?_⟩, same⟩
    exact Nat.le_of_not_lt (fun beyond => not ⟨ho, char, beyond⟩)

theorem workPart_grouped {r : LineRecord} (unique : (r.entries.map Entry.id).Nodup) (owned : r.Owned) (shift : Int) :
    Grouped (workPart shift r.entries) where
  unique := ((moveOwners_ids _ _).nodup_iff.mpr unique).sublist
    ((List.filter_sublist.trans List.filter_sublist).map Entry.id)
  own := fun y hy char => by
    obtain ⟨e, he, rfl, -⟩ := mem_workPart.mp hy
    exact (show ownerId e = e.id from ownerId_of_character owned he (of_decide_eq_true char))
  owned := fun y hy => by
    obtain ⟨_, _, _, _, o, keeps, same⟩ := mem_workPart.mp hy
    have ⟨ho, char, _, clears⟩ := keeps
    refine ⟨_, mem_workPart.mpr ⟨o, ho, rfl, clears, o, keeps, ?_⟩, decide_eq_true char, same⟩
    exact (ownerId_of_character owned ho char).symm

/-- The entries of the working part that belong to an owner are no more than those of the working line. -/
theorem workPart_count (shift : Int) (l : List Entry) (i : Nat) :
    ((workPart shift l).filter (fun y => decide (ownerId y = i))).length ≤ (l.filter (fun y => decide (ownerId y = i))).length := by
  have sub : (workPart shift l).Sublist (moveOwners (fun _ => shift) l) := List.filter_sublist.trans List.filter_sublist
  refine (sub.filter _).length_le.trans (Nat.le_of_eq ?_)
  rw [moveOwners_eq, ((perm_sortEntries _).filter _).length_eq, List.filter_map, List.length_map]
  rfl

theorem owner_stands {r : LineRecord} (owned : r.Owned) {e : Entry} (he : e ∈ r.entries) : ∃ o ∈ r.entries, ownerId e = o.id := by
  by_cases char : e.kind = .character
  · exact ⟨e, he, ownerId_of_character owned he char⟩
  · obtain ⟨o, ho, owner, -⟩ := owned.2 e he char
    exact ⟨o, ho, by rw [ownerId, owner]; rfl⟩

/-- Where an entry of the working line comes when the line moves: with its owner, or as a stroke placed anew. -/
theorem movedPos_comes {r : LineRecord} (unique : (r.entries.map Entry.id).Nodup) (owned : r.Owned) {shift : Int}
    (high : ∀ e ∈ r.entries, 0 ≤ (e.pos : Int) + shift) {e : Entry} (he : e ∈ r.entries) {q : Int}
    (comes : if shift = 0 ∨ e.kind ≠ .underscore then q = e.pos + shift
      else ∃ o ∈ r.entries, e.owner = some o.id
        ∧ ((strokePositions ((o.pos : Int) + shift).toNat o.width)[strokeIndex r.entries e]?).map Int.ofNat = some q) :
    (movedPos (fun _ => shift) r.entries e : Int) = q := by
  split at comes
  next goes =>
    rw [comes]
    by_cases still : shift = 0
    · rw [movedPos_still (fun _ _ _ => still), still, Int.add_zero]
    · have kind := goes.resolve_left still
      obtain ⟨o, ho, owner⟩ := owner_stands owned he
      rw [movedPos_goes unique ho owner kind, shiftPos, Int.toNat_of_nonneg (high e he)]
  next placed =>
    obtain ⟨still, stroke⟩ := not_or.mp placed
    obtain ⟨o, ho, owner, position⟩ := comes
    obtain ⟨p, at_, rfl⟩ := Option.map_eq_some_iff.mp position
    have found : r.entries.find? (fun x => decide (x.id = ownerId e)) = some o := by
      rw [ownerId, owner]
      exact find?_id unique ho
    have place : movedPos (fun _ => shift) r.entries e = p := by
      simp only [movedPos, found, if_neg still, if_pos (not_not.mp stroke), shiftPos, List.getD_eq_getElem?_getD, at_]
      rfl
    rw [place]
    rfl

/-- Where an entry other than a stroke placed anew comes. -/
theorem movedPos_shift {r : LineRecord} (unique : (r.entries.map Entry.id).Nodup) (owned : r.Owned) {shift : Int}
    (high : ∀ e ∈ r.entries, 0 ≤ (e.pos : Int) + shift) {e : Entry} (he : e ∈ r.entries)
    (goes : shift = 0 ∨ e.kind ≠ .underscore) : (movedPos (fun _ => shift) r.entries e : Int) = e.pos + shift :=
  movedPos_comes unique owned high he (if_pos goes ▸ rfl)

/-! ## The print part (R203) -/

theorem unprinted_grouped {p : PrintLine} (unique : (p.record.entries.map Entry.id).Nodup) (owned : p.record.Owned) :
    Grouped p.unprinted where
  unique := unique.sublist ((List.filter_sublist.trans List.filter_sublist).map Entry.id)
  own := fun e he char => ownerId_of_character owned (List.mem_of_mem_filter (List.mem_of_mem_filter he)) (of_decide_eq_true char)
  owned := fun e he => by
    obtain ⟨left, stands⟩ := List.mem_filter.mp he
    obtain ⟨o, ho, same⟩ := List.any_eq_true.mp stands
    have is_owner : o.id = ownerId e := of_decide_eq_true same
    have char : o.kind = .character := by
      by_cases char_e : e.kind = .character
      · have own := ownerId_of_character owned (List.mem_of_mem_filter left) char_e
        rw [← eq_of_id unique (List.mem_of_mem_filter left) (List.mem_of_mem_filter ho) (own.symm.trans is_owner.symm)]
        exact char_e
      · obtain ⟨o', ho', owner, char'⟩ := owned.2 e (List.mem_of_mem_filter left) char_e
        rw [ownerId, owner] at is_owner
        rw [eq_of_id unique (List.mem_of_mem_filter ho) ho' is_owner]
        exact char'
    have own := ownerId_of_character owned (List.mem_of_mem_filter ho) char
    exact ⟨o, List.mem_filter.mpr ⟨ho, List.any_eq_true.mpr ⟨o, ho, decide_eq_true own.symm⟩⟩, decide_eq_true char, is_owner⟩

/-- The part of the print line that is saved. -/
def State.printPart (s : State) : List Entry :=
  match s.text.print with
  | some p => p.unprinted
  | none => []

/-- How far the working line moves to follow the print part. -/
def State.saveShift (s : State) : Int :=
  if s.printPart.isEmpty then 0
  else (greatestEnd 0 (s.printPart.filter Entry.isChar) : Int) + spaceWidth s.text.settings.pitch - leastPos 0 s.text.work.entries

/-- The entries from which the saved line takes its own. -/
def State.toSave (s : State) : List Entry := byOrder s.printPart ++ byOrder (workPart s.saveShift s.text.work.entries)

theorem State.savedEntries_eq (s : State) : s.savedEntries = savedGroup s.toSave := rfl

theorem State.mem_toSave {s : State} {y : Entry} :
    y ∈ s.toSave ↔ y ∈ s.printPart ∨ y ∈ workPart s.saveShift s.text.work.entries := by
  rw [State.toSave, List.mem_append, (perm_byOrder _).mem_iff, (perm_byOrder _).mem_iff]

theorem State.printPart_grouped {s : State} (unique : (s.text.allEntries.map Entry.id).Nodup)
    (owned : ∀ p, s.text.print = some p → p.record.Owned) :
    Grouped s.printPart ∧ ∀ x ∈ s.printPart, ∀ e ∈ s.text.work.entries, x.id ≠ e.id := by
  unfold State.printPart
  cases print : s.text.print with
  | none => exact ⟨⟨.nil, fun _ he => (nomatch he), fun _ he => (nomatch he)⟩, fun _ hx => (nomatch hx)⟩
  | some p =>
    simp only [TextUnit.allEntries, print, List.map_append, List.nodup_append] at unique
    obtain ⟨-, unique, apart⟩ := unique
    refine ⟨unprinted_grouped unique (owned p print), fun x hx e he same => ?_⟩
    exact apart e.id (List.mem_map_of_mem he) x.id
      (List.mem_map_of_mem (List.mem_of_mem_filter (List.mem_of_mem_filter hx))) same.symm

theorem leastPos_spec {l : List Entry} {d : Nat} (some : l ≠ []) :
    (∃ e ∈ l, e.pos = leastPos d l) ∧ ∀ e ∈ l, leastPos d l ≤ e.pos := by
  obtain ⟨x, xs, rfl⟩ := List.exists_cons_of_ne_nil some
  obtain ⟨start, rest, among⟩ := foldl_min_spec (xs.map Entry.pos) x.pos
  constructor
  · rcases among with same | among
    · exact ⟨x, List.mem_cons_self, same.symm⟩
    · obtain ⟨e, he, same⟩ := List.mem_map.mp among
      exact ⟨e, List.mem_cons_of_mem _ he, same⟩
  · intro e he
    rcases List.mem_cons.mp he with rfl | he
    · exact start
    · exact rest _ (List.mem_map_of_mem he)

/-- The shift is the one by which the working line follows the print part after one space. -/
theorem State.saveShift_eq {s : State} {far least : Nat}
    (ends : ((∃ e ∈ s.printPart, e.kind = .character ∧ e.endPos = far)
      ∧ ∀ e ∈ s.printPart, e.kind = .character → e.endPos ≤ far) ∨ s.printPart = [])
    (starts : ((∃ e ∈ s.text.work.entries, e.pos = least) ∧ ∀ e ∈ s.text.work.entries, least ≤ e.pos) ∨ s.text.work.entries = [])
    (some : s.text.work.entries ≠ []) :
    s.saveShift = if s.printPart = [] then 0 else (far : Int) + spaceWidth s.text.settings.pitch - least := by
  unfold State.saveShift
  by_cases none : s.printPart = []
  · rw [if_pos none, if_pos (List.isEmpty_iff.mpr none)]
  · rw [if_neg none, if_neg (fun h => none (List.isEmpty_iff.mp h))]
    obtain ⟨⟨e, he, char, reached⟩, greatest⟩ := ends.resolve_right none
    obtain ⟨⟨f, hf, begins⟩, lowest⟩ := starts.resolve_right some
    have among : e ∈ s.printPart.filter Entry.isChar := List.mem_filter.mpr ⟨he, decide_eq_true char⟩
    obtain ⟨x, hx, last⟩ := greatestEnd_mem (d := 0) (List.ne_nil_of_mem among)
    have reaches : e.endPos ≤ greatestEnd 0 (s.printPart.filter Entry.isChar) := le_greatestEnd among
    have most : x.endPos ≤ far := greatest x (List.mem_of_mem_filter hx) (of_decide_eq_true (List.mem_filter.mp hx).2)
    obtain ⟨⟨y, hy, first⟩, low⟩ := leastPos_spec (d := 0) some
    have down := low f hf
    have up := lowest y hy
    omega

/-- The working line moves to no position below 0. -/
theorem State.saveShift_high {s : State} {e : Entry} (he : e ∈ s.text.work.entries) : 0 ≤ (e.pos : Int) + s.saveShift := by
  have low := (leastPos_spec (d := 0) (List.ne_nil_of_mem he)).2 e he
  unfold State.saveShift
  split <;> omega

/-! ## The saved mark (R203, R208) -/

theorem markNames_clear (line : List Byte) : markNames clearMark line = false := by
  simp [markNames, clearMark, encodeMark, withCheck, byteAt]

theorem recordOk_setMark (line : List Byte) : recordOk 164 6 (setMark line) = true := by
  simp only [recordOk, Bool.and_eq_true, decide_eq_true_eq]
  exact ⟨⟨rfl, rfl⟩, byteSum_withCheck _⟩

/-- The mark that a save sets names the line that it has written. -/
theorem markNames_setMark (line : List Byte) : markNames (setMark line) line = true := by
  have count : wordAt (setMark line) 2 = wordAt line 1 := by
    have small : wordAt line 1 < 65536 := by
      have high := (line.getD 1 0).isLt
      have low := (line.getD 2 0).isLt
      rw [wordAt, byteAt, byteAt]
      omega
    exact twoBytes_value small
  simp only [markNames, Bool.and_eq_true]
  exact ⟨⟨⟨recordOk_setMark line, decide_eq_true rfl⟩, decide_eq_true count⟩, decide_eq_true rfl⟩

/-- A save that is cut leaves a clear mark clear, or one that is none. -/
theorem State.cutRetained_mark {s : State} (clear : s.retained.savedMark = clearMark) (p : SavePoint) :
    (s.cutRetained p).savedMark = clearMark ∨ (s.cutRetained p).savedMark = cutRecord := by
  rw [State.cutRetained_eq]
  dsimp only
  split
  · unfold State.cutSave
    cases p <;> cases s.text.settings.mode <;> simp only [clear, true_or]
    split
    · exact .inl rfl
    · exact .inr rfl
  · exact .inl clear

theorem Retained.restorable_unnamed {r : Retained} (h : markNames r.savedMark r.savedLine = false) : r.restorable = none := by
  rw [Retained.restorable, h]
  rfl

theorem State.savedRetained_direct {s : State} (mode : s.text.settings.mode = .direct) :
    s.savedRetained = { s.retained with settings := s.settingsRecord } := by
  simp only [State.savedRetained, mode]

theorem State.savedRetained_line {s : State} (mode : s.text.settings.mode = .line) :
    s.savedRetained =
      { s.retained with
        settings := s.settingsRecord, savedLine := s.savedLineRecord,
        savedMark := if s.savedEntries.isEmpty then s.retained.savedMark else setMark s.savedLineRecord } := by
  simp only [State.savedRetained, mode]

/-- The end of a save leaves retained memory written, and the strike queue, the lines and the word records empty. -/
theorem State.saveComplete_leaves {s : State} (saving : s.supply.phase = .saving ∧ s.supply.saveBegun = true) :
    s.saveComplete.retained = s.savedRetained ∧ s.saveComplete.supply.phase = .saved
      ∧ s.saveComplete.engine.slots = [] ∧ s.saveComplete.engine.head = none ∧ s.saveComplete.text.work = LineRecord.empty
      ∧ s.saveComplete.text.print = none ∧ s.saveComplete.spell.records = [] := by
  rw [State.saveComplete, if_pos saving]
  exact ⟨rfl, rfl, rfl, rfl, rfl, rfl, rfl⟩

/-! ## What the saved line holds (R203) -/

section
variable {s : State} (unique : (s.text.allEntries.map Entry.id).Nodup) (owned : s.text.work.Owned)
  (owned_print : ∀ p, s.text.print = some p → p.record.Owned)
include unique owned owned_print

theorem State.toSave_grouped : Grouped s.toSave := by
  obtain ⟨part, apart⟩ := State.printPart_grouped unique owned_print
  have work := workPart_grouped (nodup_work unique) owned s.saveShift
  refine (part.perm (perm_byOrder _)).append (work.perm (perm_byOrder _)) (fun x hx y hy => ?_)
  obtain ⟨e, he, rfl, -⟩ := mem_workPart.mp ((perm_byOrder _).mem_iff.mp hy)
  exact apart x ((perm_byOrder _).mem_iff.mp hx) e he

theorem State.mem_savedEntries {y : Entry} :
    y ∈ s.savedEntries
      ↔ (y ∈ s.printPart ∨ y ∈ workPart s.saveShift s.text.work.entries) ∧ ownerId y ∈ savedOwners s.toSave := by
  rw [State.savedEntries_eq, mem_savedGroup (State.toSave_grouped unique owned owned_print), State.mem_toSave]

omit owned in
/-- No entry of the print part belongs to an owner of the working line. -/
theorem State.printPart_apart {y o : Entry} (hy : y ∈ s.printPart) (ho : o ∈ s.text.work.entries) : ownerId y ≠ o.id := by
  obtain ⟨part, apart⟩ := State.printPart_grouped unique owned_print
  obtain ⟨x, hx, -, same⟩ := part.owned y hy
  rw [← same]
  exact apart x hx o ho

/-- An owner with room in the saved line, by what stands there up to its position and what belongs to it. -/
theorem State.saves_owner {o : Entry} (ho : o ∈ s.toSave) (char : o.isChar = true)
    (room : (s.savedEntries.filter (fun y =>
          s.savedEntries.any (fun x => decide (x.id = ownerId y) && decide ((x.pos : Int) ≤ o.pos)))).length
      + ((s.printPart ++ s.text.work.entries).filter (fun y => decide (ownerId y = o.id))).length ≤ 320) :
    o.id ∈ savedOwners s.toSave := by
  refine mem_savedOwners (State.toSave_grouped unique owned owned_print) ho char (le_trans ?_ room)
  rw [← State.savedEntries_eq]
  refine Nat.add_le_add (Nat.le_of_eq ?_) ?_
  · simp only [Nat.cast_le]
  · rw [State.toSave, List.filter_append, List.filter_append, List.length_append, List.length_append,
      ((perm_byOrder _).filter _).length_eq, ((perm_byOrder (workPart _ _)).filter _).length_eq]
    exact Nat.add_le_add_left (workPart_count _ _ _) _

end

end Sys2Proof.Machine

open Sys2Proof Sys2Proof.Machine

/-- Settles O20. The saved line is the group of the print part and the shifted working part, put in the order of the saved places with
the owners for which there is room; each clause reads off who belongs to it, and the order comes from the stable placing. -/
theorem saveCompletes : Obligations.SaveCompletes := by
  unfold Obligations.SaveCompletes
  intro s live saving
  refine ⟨fun clear t p lost => ?_, fun begun => ⟨s.saveComplete, ?_⟩, ?_, ?_⟩
  · have after : s.powerLoss p = t := Host.Outcome.next.inj lost
    rw [← after, State.powerLoss, if_pos live.1]
    refine Retained.restorable_unnamed (r := s.cutRetained p) ?_
    rcases State.cutRetained_mark clear p with mark | mark <;> rw [mark]
    · exact markNames_clear _
    · exact markNames_cutRecord _
  · have both : s.supply.phase = .saving ∧ s.supply.saveBegun = true := ⟨saving, begun⟩
    obtain ⟨retained, rest⟩ := State.saveComplete_leaves both
    obtain ⟨phase, slots, head, work, print, records⟩ := rest
    refine ⟨exec_finish live rfl rfl, phase, slots, head, work, print, records, ?_⟩
    rw [retained]
    cases mode : s.text.settings.mode with
    | direct =>
      rw [State.savedRetained_direct mode]
      exact ⟨rfl, rfl, fun _ => ⟨rfl, rfl⟩, fun line => nomatch line⟩
    | line =>
      rw [State.savedRetained_line mode]
      refine ⟨rfl, rfl, fun direct => (nomatch direct), fun _ => ⟨rfl, fun some => ?_, fun none => ?_⟩⟩
      · dsimp only
        rw [if_neg (fun h => some (List.isEmpty_iff.mp h))]
        exact markNames_setMark _
      · exact if_pos (List.isEmpty_iff.mpr none)
  · rw [State.savedEntries_eq]
    exact savedGroup_length _
  intro unique owned owned_print left part work saved far least ends starts shift passes cut room fits comes
  have is_part : s.printPart = part := by
    simp only [part, left, State.printPart]
    cases s.text.print <;> rfl
  obtain ⟨grouped, apart⟩ := State.printPart_grouped unique owned_print
  have unique_work : (work.map Entry.id).Nodup := nodup_work unique
  have is_shift : ∀ e ∈ work, s.saveShift = shift := fun e he => by
    rw [← is_part] at ends
    exact (State.saveShift_eq ends starts (List.ne_nil_of_mem he)).trans (by simp only [shift, is_part])
  have same_part : workPart s.saveShift work = workPart shift work := by
    cases h : work with
    | nil => rfl
    | cons e es => rw [is_shift e (h ▸ List.mem_cons_self)]
  have mem_saved {y : Entry} : y ∈ saved ↔ (y ∈ part ∨ y ∈ workPart shift work) ∧ ownerId y ∈ savedOwners s.toSave := by
    rw [← is_part, ← same_part]
    exact State.mem_savedEntries unique owned owned_print
  have to_save {y : Entry} : y ∈ s.toSave ↔ y ∈ part ∨ y ∈ workPart shift work := by
    rw [← is_part, ← same_part]
    exact State.mem_toSave
  have high : ∀ e ∈ work, 0 ≤ (e.pos : Int) + shift := fun e he => by
    rw [← is_shift e he]
    exact State.saveShift_high he
  have moved_char {o : Entry} (ho : o ∈ work) (char : o.kind = .character) :
      (movedPos (fun _ => shift) work o : Int) = o.pos + shift :=
    movedPos_shift unique_work owned high ho (.inr (by rw [char]; decide))
  have comes_to {e : Entry} (he : e ∈ work) {q : Int} (reaches : comes e q) : (movedPos (fun _ => shift) work e : Int) = q :=
    movedPos_comes unique_work owned high he reaches
  have spills_iff {x : Entry} (hx : x ∈ work) : Spills shift work x ↔ passes x := by
    constructor
    · rintro ⟨-, char, beyond⟩
      have reaches := moved_char hx char
      exact ⟨char, by simp only [Entry.endPos]; omega⟩
    · rintro ⟨char, beyond⟩
      have reaches := moved_char hx char
      simp only [Entry.endPos] at beyond
      exact ⟨hx, char, by omega⟩
  have clears_iff {p : Nat} : Clears shift work p ↔ fits p := by
    constructor
    · intro clears x hx beyond
      have reaches := moved_char hx beyond.1
      have left := clears x ((spills_iff hx).mpr beyond)
      omega
    · intro left x spills
      have reaches := moved_char spills.1 spills.2.1
      have := left x spills.1 ((spills_iff spills.1).mp spills)
      omega
  have keeps_iff {o : Entry} (ho : o ∈ work) (char : o.kind = .character) : KeepsOwner shift work o ↔ ¬cut o := by
    have reaches := moved_char ho char
    constructor
    · rintro ⟨-, -, not, clears⟩ (beyond | ⟨x, hx, beyond, left⟩)
      · exact not ((spills_iff ho).mpr beyond)
      · have := clears_iff.mp clears x hx beyond
        omega
    · intro not
      refine ⟨ho, char, fun spills => not (.inl ((spills_iff ho).mp spills)), clears_iff.mpr (fun x hx beyond => ?_)⟩
      by_contra right
      exact not (.inr ⟨x, hx, beyond, by omega⟩)
  have saves {e o : Entry} (he : e ∈ work) (keeps : KeepsOwner shift work o) (owner : ownerId e = o.id)
      (taken : o.id ∈ savedOwners s.toSave) {q : Int} (reaches : comes e q) (clear : fits q) : e.id ∈ saved.map Entry.id := by
    have at_ := comes_to he reaches
    refine List.mem_map.mpr ⟨{ e with pos := movedPos (fun _ => shift) work e }, mem_saved.mpr ⟨.inr ?_, ?_⟩, rfl⟩
    · exact mem_workPart.mpr ⟨e, he, rfl, clears_iff.mpr (by rw [at_]; exact clear), o, keeps, owner.symm⟩
    · rw [← owner] at taken
      exact taken
  refine ⟨fun y hy => ?_, fun o ho char gone y hy owner => ?_, fun o ho char kept space e he owner q reaches clear => ?_,
    fun o ho char space e he owner => ?_, fun y hy e he owner => ?_, fun y hy e he owner q reaches clear => ?_, ?_⟩
  · refine (mem_saved.mp hy).1.imp_right (fun in_work => ?_)
    obtain ⟨e, he, rfl, clears, -⟩ := mem_workPart.mp in_work
    exact ⟨e, he, rfl, clears_iff.mp clears, fun q reaches => comes_to he reaches, fun goes => movedPos_shift unique_work owned high he goes⟩
  · rcases (mem_saved.mp hy).1 with in_part | in_work
    · exact State.printPart_apart unique owned_print (is_part ▸ in_part) ho owner
    · obtain ⟨_, _, _, _, p, keeps, same⟩ := mem_workPart.mp in_work
      obtain rfl := eq_of_id unique_work keeps.1 ho (same.trans owner)
      exact (keeps_iff ho char).mp keeps gone
  · have keeps := (keeps_iff ho char).mpr kept
    refine saves he keeps owner ?_ reaches clear
    have at_ := moved_char ho char
    have own : ownerId o = o.id := ownerId_of_character owned ho char
    refine State.saves_owner unique owned owned_print (o := { o with pos := movedPos (fun _ => shift) work o })
      (to_save.mpr (.inr (mem_workPart.mpr ⟨o, ho, rfl, keeps.2.2.2, o, keeps, own.symm⟩))) (decide_eq_true char) ?_
    rw [is_part, at_]
    exact space
  · refine mem_saved.mpr ⟨.inl he, ?_⟩
    rw [owner]
    refine State.saves_owner unique owned owned_print (to_save.mpr (.inl ho)) (decide_eq_true char) ?_
    rw [is_part]
    exact space
  · refine List.mem_map_of_mem (mem_saved.mpr ⟨.inl he, ?_⟩)
    rw [owner]
    exact (mem_saved.mp hy).2
  · obtain ⟨among, taken⟩ := mem_saved.mp hy
    rcases among with in_part | in_work
    · obtain ⟨o, ho, own⟩ := owner_stands owned he
      exact absurd (owner.symm.trans own) (State.printPart_apart unique owned_print (is_part ▸ in_part) ho)
    · obtain ⟨_, _, _, _, o, keeps, same⟩ := mem_workPart.mp in_work
      exact saves he keeps (owner.trans same.symm) (same ▸ taken) reaches clear
  · exact savedGroup_ordered (State.toSave_grouped unique owned owned_print)
end
